-- ==== Sys2Proof/Word.lean ====
section
/-! DEFINITION. The word types of the KB2516 and the plainest operations on them (R7, R8). -/

namespace Sys2Proof

/-- One byte of any memory, packet or record (R8). -/
abbrev Byte := BitVec 8

/-- One 32-bit word: a BAR 0 register (R9), a plate word (R57), a sync counter (R182). -/
abbrev Word32 := BitVec 32

/-- A core, numbered as in core_map: `4 × die + core` (R157). -/
abbrev CoreId := Fin 64

/-- A compute die C00 to C15 (R3). -/
abbrev DieId := Fin 16

/-- A bed die B0 to B3, or a media die M0 to M3 (R3). -/
abbrev BedId := Fin 4

/-- An issue queue Q0 to Q3 of a core (R152). -/
abbrev QueueId := Fin 4

/-- A context, 0 to 4,095 (R3). -/
abbrev CtxId := Fin 4096

/-- A hatch line, 0 to 31 (R190). -/
abbrev LineId := Fin 32

/-- A ring link, 0 to 9 (R238). -/
abbrev LinkId := Fin 10

/-- The bit range `[lo + n - 1 : lo]` of `w` (R7). -/
def field (w lo n : Nat) : Nat := w / 2 ^ lo % 2 ^ n

/-- Bit `i` of `w` (R7). -/
def bit (w i : Nat) : Bool := w / 2 ^ i % 2 == 1

/-- A single bit as a number. -/
def bitOf (b : Bool) : Nat := if b then 1 else 0

/-- `n` clipped to `w` bits, kept at all ones: the saturating registers of the manual. -/
def satAt (top n : Nat) : Nat := if n < top then n else top

/-- The compute die that carries a core (R157). -/
def CoreId.die (c : CoreId) : DieId := ⟨c.val / 4, by have := c.isLt; omega⟩

/-- The bed die that carries a compute die (R19). -/
def DieId.bed (d : DieId) : BedId := ⟨d.val / 4, by have := d.isLt; omega⟩

/-- The bed die beneath a core (R19). -/
def CoreId.bed (c : CoreId) : BedId := ⟨c.val / 16, by have := c.isLt; omega⟩

/-- The core index K0 to K3 of a core within its die (R157). -/
def CoreId.k (c : CoreId) : Fin 4 := ⟨c.val % 4, by omega⟩

/-- The core of index `k` on a compute die (R157). -/
def coreOf (d : DieId) (k : Fin 4) : CoreId := ⟨4 * d.val + k.val, by have := d.isLt; have := k.isLt; omega⟩

end Sys2Proof
end

