-- ==== Sys2Proof/Machine/Params.lean ====
section
/-! DEFINITION. The operand types of the commands: status codes (R368), element formats (R31), operand records (R164),
AKI descriptors (R161 to R171), the parameters of the host commands (R349, R362 to R366, R264, R266, R284, R291, R293,
R320, R327) and what the world outside the device supplies. Plain data only. -/

namespace Sys2Proof

/-- The status codes of R368. -/
inductive Status where
  | done | donePartial
  | badOpcode | badLength | reservedNonzero | badVersion | badContext | badRaster | busy
  | pageFault | accessDenied | deniedSealed
  | farTierError | farTierTimeout | uncorrectableData
  | hazardWetRead | plateConflict | syncTimeout | syncOverrun | stashOverflow | stashMismatch | arrayCheckFail
  | nonfiniteReduced | syncOwnerLost | barrierBroken | orderConflict
  | preempted | contextEnded | dieFenced | partnerSameFeed
  | mediaUnsupported | mediaStreamError
  | busyUpdate | notMeasured
  | internalError
deriving DecidableEq, Repr, Inhabited

/-- The element formats of R31. -/
inductive Fmt where
  | fp32 | bf16 | fp16 | f8e4 | f8e5 | mxf8e4 | mxf8e5 | mxf6e3 | mxf6e2 | mxf4 | mxint8 | fp32x2
deriving DecidableEq, Repr, Inhabited

/-- An operand record (R164). The lists hold the values of levels 0 to 5. -/
structure OperandRec where
  base : Nat
  scaleBase : Nat
  blockLevel : Nat
  across : Bool
  fmt : Fmt
  levels : Nat
  counts : List Nat
  strides : List Int
  sstrides : List Int
deriving DecidableEq, Repr, Inhabited

/-- The forms of stage 3 of the pull pipeline (R115). -/
inductive PullForm where
  | none | act | deriv | gateFwd | gateBwd
deriving DecidableEq, Repr, Inhabited

/-- The activation functions of R116, in the order of the func encoding of R168. -/
inductive ActFunc where
  | relu | sqRelu | geluErf | geluTanh | sigmoid | silu | tanh | softplus
deriving DecidableEq, Repr, Inhabited

/-- The role of a side stream (R115, R168). -/
inductive Role where
  | absent | add | pre | other | gateG | gateU
deriving DecidableEq, Repr, Inhabited

/-- The source of the second output (R118, R168). -/
inductive Second where
  | none | teePre | copy | gateDu
deriving DecidableEq, Repr, Inhabited

/-- The fields and records of a PULL descriptor (R168). -/
structure PullP where
  plate : Nat
  dword : Bool
  orient : Bool      -- main output: false row, true column
  orient2 : Bool     -- second output
  merge : Bool
  form : PullForm
  func : ActFunc
  enScale : Bool
  enAdd : Bool
  enFunc : Bool
  enTaps : Bool
  enConv : Bool
  enWrite : Bool
  sr : Bool
  ieee : Bool
  role0 : Role
  role1 : Role
  second : Second
  taps : Nat         -- bits 0 to 5: SUM, SUMSQ, MAX, ABSMAX, MV, NONFINITE
  tapAxis : Bool     -- false per row, true per column
  outFmt : Fmt
  out2Fmt : Option Fmt
  epochCtr : Fin 64
  alpha : Word32
  srStream : Word32
  recOut : Option Nat
  recA : Option Nat
  recB : Option Nat
  s0 : Option OperandRec
  s1 : Option OperandRec
  out : Option OperandRec
  out2 : Option OperandRec
  tap : Option OperandRec
deriving DecidableEq, Repr, Inhabited

/-- What the common header of a PULL attached to an OUTER or inside a STYLUS says (R161, R167, R169): its signal and its tag. Nothing
waits on its wait condition. -/
structure AttHdr where
  sigEn : Bool
  sigCtr : Fin 64
  sigCore : CoreId
  sigInc : Nat
  opTag : Word32
deriving DecidableEq, Repr, Inhabited

/-- The fields and records of an OUTER descriptor (R167). -/
structure OuterP where
  plate : Nat
  dword : Bool
  neg : Bool
  set : Nat
  tileLevel : Nat
  a : OperandRec
  b : OperandRec
  att : Option PullP
  attHdr : AttHdr
deriving DecidableEq, Repr, Inhabited

/-- A PRELOAD descriptor (R169, R71). -/
structure PreloadP where
  plate : Nat
  dword : Bool
  src : OperandRec
deriving DecidableEq, Repr, Inhabited

/-- A STYLUS descriptor (R169, R80). -/
structure StylusP where
  vectors : Nat
  w : OperandRec
  v : OperandRec
  pull : PullP
  pullHdr : AttHdr
deriving DecidableEq, Repr, Inhabited

/-- The VEC functions of R169. -/
inductive VecFunc where
  | add | sub | mul | fma | min | max | abs | neg | convert | accAdd
  | exp | log | recip | rsqrt | act (f : ActFunc) | split3
  | adamW | lion | sgd | nesterov | clip | scaleCommit
deriving DecidableEq, Repr, Inhabited

/-- A VEC descriptor (R169). -/
structure VecP where
  func : VecFunc
  sr : Bool
  ieee : Bool
  skip : Bool
  epochCtr : Fin 64
  paramBlk : Nat
  srStream : Word32
  flagWord : Nat
  stepCtr : Nat
  ins : List OperandRec
  outs : List OperandRec
deriving DecidableEq, Repr, Inhabited

/-- The ROW functions of R169. -/
inductive RowFunc where
  | rmsFwd | lnFwd | smFwd | rmsBwd | lnBwd | smBwd | online | kl | mse | cosine
deriving DecidableEq, Repr, Inhabited

/-- A ROW descriptor (R169). -/
structure RowP where
  func : RowFunc
  outFmt : Fmt
  n : Nat
  tau : Word32
  eps : Word32
  w : Word32
  ins : List OperandRec
  outs : List OperandRec
deriving DecidableEq, Repr, Inhabited

/-- A MOVE descriptor (R170). `flow` is none for the unscheduled class 0xFFFF. -/
structure MoveP where
  srcVirt : Bool
  dstVirt : Bool
  dstRemote : Bool
  dstDie : DieId
  len : Nat
  srcAddr : Nat
  dstAddr : Nat
  flow : Option Nat
  src : Option OperandRec
  dst : Option OperandRec
deriving DecidableEq, Repr, Inhabited

/-- An MCAST descriptor (R170). -/
structure McastP where
  len : Nat
  srcAddr : Nat
  flow : Option Nat
  mask : Nat
  memCtr : Fin 64
  memCore : Fin 4
  dst : OperandRec
deriving DecidableEq, Repr, Inhabited

/-- An ATOMIC_ADD descriptor (R170). -/
structure AtomicP where
  ordered : Bool
  len : Nat
  target : Nat
  flow : Option Nat
  group : Nat
  n : Nat
  idx : Nat
  src : OperandRec
deriving DecidableEq, Repr, Inhabited

/-- A STASH_PUSH descriptor (R171). -/
structure PushP where
  layer : Word32
  size : Nat
  src : OperandRec
deriving DecidableEq, Repr, Inhabited

/-- A STASH_POP descriptor (R171). -/
structure PopP where
  layer : Word32
  size : Nat
  discard : Bool
  dst : Option OperandRec
deriving DecidableEq, Repr, Inhabited

/-- A GRAD_GATHER descriptor (R171, R150). -/
structure GatherP where
  n : Nat
  accumulate : Bool
  sr : Bool
  dstFmt : Fmt
  epochCtr : Fin 64
  slotStride : Int
  srStream : Word32
  slot : OperandRec
  dst : OperandRec
deriving DecidableEq, Repr, Inhabited

/-- A BUCKET_SEND descriptor (R171, R268). -/
structure BucketP where
  bucket : Nat
  size : Nat
  addr : Nat
  fmt : Fmt
deriving DecidableEq, Repr, Inhabited

/-- A CLIP_DRAW descriptor (R171, R333). -/
structure ClipP where
  clips : Nat
  dst : OperandRec
deriving DecidableEq, Repr, Inhabited

/-- A STOP_MARK descriptor (R171, R181). -/
structure MarkP where
  mark : Word32
  halt : Bool
deriving DecidableEq, Repr, Inhabited

/-- The AKI operations of R162 with their fields. -/
inductive AkiOp where
  | outer (p : OuterP)
  | pull (p : PullP)
  | preload (p : PreloadP)
  | stylus (p : StylusP)
  | vec (p : VecP)
  | row (p : RowP)
  | move (p : MoveP)
  | mcast (p : McastP)
  | atomicAdd (p : AtomicP)
  | stashPush (p : PushP)
  | stashPop (p : PopP)
  | gradGather (p : GatherP)
  | bucketSend (p : BucketP)
  | signal
  | wait
  | barrier (line : LineId)
  | clipDraw (p : ClipP)
  | stopMark (p : MarkP)
deriving DecidableEq, Repr, Inhabited

/-- A descriptor: the common header of R161 and the operation. -/
structure Desc where
  waitEn : Bool
  waitCtr : Fin 64
  waitTarget : Word32
  sigEn : Bool
  sigCtr : Fin 64
  sigCore : CoreId
  sigInc : Nat
  opTag : Word32
  op : AkiOp
deriving DecidableEq, Repr, Inhabited

/-- What a fault of the array strikes: the product of a cell, one copy of a cell's classifier flags, the margin cell of a row or
of a column, or the lane that sums a vector for the row margins (σ of b) or for the column margins (σ of a) (R93, R98, R102). -/
inductive FaultSite where
  | product | flagCopy | rowMargin | colMargin | rowLane | colLane
deriving DecidableEq, Repr, Inhabited

/-- A single fault of the array during one bite pass (R426, R93, R98, R102). -/
structure ArrayFault where
  bite : Nat          -- the bite of this run, counted from 0
  row : Nat
  col : Nat
  step : Nat          -- the step within the bite at which the wrong value is delivered
  mant : Int          -- mant × 2^expo is the product delivered, or what a margin cell or a lane delivers too much
  expo : Int
  site : FaultSite
  persistent : Bool   -- true: the fault is present on every pass of the bite
deriving DecidableEq, Repr, Inhabited

/-- What goes wrong while an OUTER runs: a fault of the array, and a residue mismatch in the pull of a tile, by tile and row (R98,
R102, R124). -/
structure OuterFaults where
  array : Option ArrayFault
  residue : Option (Nat × Nat)
deriving DecidableEq, Repr, Inhabited

/-- A run of a STYLUS: matrix rows to take, and a residue mismatch in the pull of a group, by group and row (R80, R124). -/
structure StylusRun where
  rows : Nat
  residue : Option (Nat × Nat)
deriving DecidableEq, Repr, Inhabited

/-- The ring that a command came from and its header fields (R354). -/
structure CmdHdr where
  ctx : CtxId
  ring : Fin 64
  seq : Word32
  irq : Bool
  fence : Bool
deriving DecidableEq, Repr, Inhabited

/-- How a request to the far tier or to host memory failed (R228). -/
inductive FarFail where
  | error | timeout
deriving DecidableEq, Repr, Inhabited

/-- What the world beyond the PCIe link answers while one command runs: the bytes that its reads return, in the order
it reads them, and the byte offset of the first read, or of the first write flush, that fails (R228, R229). -/
structure Env where
  bytes : List Byte
  rdFail : Option (Nat × FarFail)
  wrFail : Option (Nat × FarFail)
deriving DecidableEq, Repr, Inhabited

/-- The die codes of R366: C00 to C15, B0 to B3, M0 to M3. -/
inductive DieCode where
  | c (d : DieId) | b (d : BedId) | m (d : BedId)
deriving DecidableEq, Repr, Inhabited

/-- The result of a self-test (R432, body kind 9 of R435). -/
inductive TestResult where
  | pass | failArray | failDatapath | failSequencer | failSram
deriving DecidableEq, Repr, Inhabited

structure QueryP where
  item : Nat
  ctx : Nat
  ring : Nat
  buffer : Nat
  length : Nat
deriving DecidableEq, Repr, Inhabited

structure CtxCreateP where
  ctx : Nat
  func : Nat
  vfSlot : Nat
  pasidEn : Bool
  pasid : Nat
  srKey : Nat
  stackBase : Nat
  stackSize : Nat
  stackMask : Nat
  saveOff : Nat
  saveSize : Nat
deriving DecidableEq, Repr, Inhabited

structure RingConfigP where
  ctx : Nat
  ring : Nat
  event : Bool
  disable : Bool
  sqLog : Nat
  cqLog : Nat
  sqHbm : Bool
  cqHbm : Bool
  vector : Nat
  irqEn : Bool
  sqBase : Nat
  cqBase : Nat
deriving DecidableEq, Repr, Inhabited

/-- MAP with its mapping record (R220, R364). -/
structure MapP where
  ctx : Nat
  vaddr : Nat
  big : Bool
  far : Bool
  rd : Bool
  wr : Bool
  ns : Bool
  at_ : Bool
  target : Nat
  count : Nat
deriving DecidableEq, Repr, Inhabited

structure RangeP where
  ctx : Nat
  vaddr : Nat
  length : Nat
deriving DecidableEq, Repr, Inhabited

structure CopyP where
  ctx : Nat
  srcHost : Bool
  dstHost : Bool
  src : Nat
  dst : Nat
  length : Nat
deriving DecidableEq, Repr, Inhabited

structure FillP where
  ctx : Nat
  pattern : Nat
  dst : Nat
  length : Nat
deriving DecidableEq, Repr, Inhabited

structure AgeScanP where
  ctx : Nat
  all : Bool
  threshold : Nat
  buffer : Nat
  size : Nat
deriving DecidableEq, Repr, Inhabited

structure EvictP where
  ctx : Nat
  vaddr : Nat
  length : Nat
  target : Nat
deriving DecidableEq, Repr, Inhabited

structure ResumeFaultP where
  ctx : Nat
  faultId : Nat
  endIt : Bool
deriving DecidableEq, Repr, Inhabited

structure ExecP where
  ctx : Nat
  interlock : Bool
  container : Nat
deriving DecidableEq, Repr, Inhabited

structure StopAtP where
  ctx : Nat
  core : CoreId
  queue : QueueId
  clear : Bool
  count : Nat
deriving DecidableEq, Repr, Inhabited

structure BarrierConfigP where
  ctx : Nat
  line : LineId
  count : Nat
  mask : Nat          -- bits 0 to 63 cores, 64 to 67 media dies
deriving DecidableEq, Repr, Inhabited

structure RingMapP where
  ctx : Nat
  replicas : Nat
  dies : List Nat
deriving DecidableEq, Repr, Inhabited

structure CounterSetP where
  ctx : Nat
  core : CoreId
  counter : Fin 64
  value : Word32
deriving DecidableEq, Repr, Inhabited

structure GradConfigP where
  ctx : Nat
  sizeCode : Nat
  fmt : Nat
  bucketCount : Nat
  accum : Nat
  recBase : Nat
  flows : List Nat
deriving DecidableEq, Repr, Inhabited

structure CascadeConfigP where
  ctx : Nat
  index : Nat
  master : Nat
  devices : Nat
  counts : List Nat
  inbox : Nat
  peers : List Nat
deriving DecidableEq, Repr, Inhabited

/-- INGEST_OPEN (R291). -/
structure IngestOpenP where
  ctx : Nat
  stream : Nat
  input : Nat
  esCodec : Nat
  mediaMask : Nat
  jobs : Nat
  pidMode : Bool
  programs : Nat
  arriveLine : LineId
  arriveEn : Bool
  maxWidth : Nat
  maxHeight : Nat
  bit10 : Bool
  c422 : Bool
  deint : Nat
  fieldRate : Bool
  ivtc : Bool
  tileFormat : Nat
  audioTracks : Nat
  audioOut : Nat
  mono : Bool
  pcmFp32 : Bool
  captions : Nat
  sel : List Nat
  workBase : Nat
  workSize : Nat
  stftWin : Nat
  stftHop : Nat
  stftFft : Nat
  mels : Nat
  ttPage : Nat
deriving DecidableEq, Repr, Inhabited

/-- INGEST_FEED (R293). -/
structure IngestFeedP where
  ctx : Nat
  stream : Nat
  arrive : Bool
  length : Nat
  source : Nat
  seqBase : Nat
  clipStride : Nat
  maxFrames : Nat
  auxBase : Nat
  auxSize : Nat
  report : Nat
deriving DecidableEq, Repr, Inhabited

structure IngestCloseP where
  ctx : Nat
  stream : Nat
deriving DecidableEq, Repr, Inhabited

/-- TILE_FORMAT (R320). -/
structure TileFormatP where
  ctx : Nat
  handle : Nat
  fmt : Nat
  frames : Nat
  stride : Nat
  featureMajor : Bool
  ycc : Bool
  matrix : Nat
  range : Nat
  randomCrop : Bool
  hop : Nat
  scaleW : Nat
  scaleH : Nat
  cropW : Nat
  cropH : Nat
  tp : Nat
  ph : Nat
  pw : Nat
  mean : List Nat
  invStd : List Nat
deriving DecidableEq, Repr, Inhabited

/-- SHUFFLE_CONFIG (R327). -/
structure ShuffleConfigP where
  ctx : Nat
  size : Nat
  lanes : Nat
  slotBytes : Nat
  base : Nat
  seed : Nat
  lane : List Nat
deriving DecidableEq, Repr, Inhabited

structure ShuffleSeekP where
  ctx : Nat
  voidRange : Bool
  a : Nat
  b : Nat
deriving DecidableEq, Repr, Inhabited

structure ImpressionP where
  ctx : Nat
  far : Bool
  area : Nat
  farAddr : Nat
deriving DecidableEq, Repr, Inhabited

structure FaultLogReadP where
  faultId : Nat
  buffer : Nat
  length : Nat
deriving DecidableEq, Repr, Inhabited

structure PartnerSetP where
  ctx : Nat
  die : DieId
  partner : DieId
deriving DecidableEq, Repr, Inhabited

structure SealP where
  ctx : Nat
  buffer : Nat
  length : Nat
deriving DecidableEq, Repr, Inhabited

structure SealLoadP where
  ctx : Nat
  src : Nat
  dst : Nat
  length : Nat
deriving DecidableEq, Repr, Inhabited

structure FwStageP where
  image : Nat
  length : Nat
deriving DecidableEq, Repr, Inhabited

structure DebugUnlockP where
  present : Bool
  buffer : Nat
  length : Nat
deriving DecidableEq, Repr, Inhabited

structure PowerPolicyP where
  limit : Nat
  lend : Bool
deriving DecidableEq, Repr, Inhabited

structure TelemetryReadP where
  latch : Bool
  buffer : Nat
  length : Nat
deriving DecidableEq, Repr, Inhabited

/-- The host commands of R361 with their parameters, as a command packet spells them. -/
inductive HostCmd where
  | nop
  | fence (allRings : Bool)
  | query (p : QueryP)
  | timestamp
  | ctxCreate (p : CtxCreateP)
  | ctxDestroy (ctx : Nat)
  | ctxRun (ctx : Nat)
  | ctxPreempt (ctx : Nat) (saveScratch : Bool)
  | ctxResume (ctx : Nat)
  | ringConfig (p : RingConfigP)
  | map (p : MapP)
  | unmap (p : RangeP)
  | copy (p : CopyP)
  | fill (p : FillP)
  | ageScan (p : AgeScanP)
  | evict (p : EvictP)
  | resumeFault (p : ResumeFaultP)
  | exec (p : ExecP)
  | stopAt (p : StopAtP)
  | barrierConfig (p : BarrierConfigP)
  | ringMap (p : RingMapP)
  | counterSet (p : CounterSetP)
  | gradConfig (p : GradConfigP)
  | cascadeConfig (p : CascadeConfigP)
  | ingestOpen (p : IngestOpenP)
  | ingestFeed (p : IngestFeedP)
  | ingestClose (p : IngestCloseP)
  | tileFormat (p : TileFormatP)
  | shuffleConfig (p : ShuffleConfigP)
  | shuffleSeek (p : ShuffleSeekP)
  | impressionTake (p : ImpressionP)
  | impressionRestore (p : ImpressionP)
  | dieFence (die : DieCode)
  | dieReset (die : DieCode)
  | faultLogRead (p : FaultLogReadP)
  | partnerSet (p : PartnerSetP)
  | sealOpen (p : SealP)
  | sealLoad (p : SealLoadP)
  | sealClose (ctx : Nat)
  | fwStage (p : FwStageP)
  | fwActivate
  | debugUnlock (p : DebugUnlockP)
  | powerPolicy (p : PowerPolicyP)
  | telemetryRead (p : TelemetryReadP)
  | selfTest (die : DieCode)
deriving DecidableEq, Repr, Inhabited

/-- A doorbell write as it arrives on BAR 2 (R344). -/
structure DoorbellWrite where
  func : Nat          -- 0 the PF, 1 to 63 a VF
  page : Nat          -- doorbell page of the function's BAR 2
  bell : Nat          -- doorbell 0 to 63 of the page
  off : Nat           -- offset within the doorbell
  width : Nat         -- bytes written
  value : Nat
deriving DecidableEq, Repr, Inhabited

/-- A ring that can enter error (R351). -/
inductive RingSel where
  | pair (ring : Fin 64) | event
deriving DecidableEq, Repr, Inhabited

/-- The registers of the row MEM_CONFIG_WRITE (R219). -/
inductive MemCfgReg where
  | dwiSize | devregBase | devregSize
deriving DecidableEq, Repr, Inhabited

/-- The sources of a freeze (R460) and of a thaw (R465). -/
inductive FreezeSrc where
  | pin | register | jtag
deriving DecidableEq, Repr, Inhabited

/-- The regions of a read-out (R463). -/
inductive Region where
  | header | slice (d : DieId) | plates (d : DieId) | coreState (d : DieId) | bedState (b : BedId)
  | mediaState (m : BedId) | easel
deriving DecidableEq, Repr, Inhabited

/-- A configuration request (R341). -/
inductive CfgReq where
  | read (reg : Nat) | write (reg value : Nat)
  | setVfs (enable : Bool) (num : Fin 64)     -- VF Enable and NumVFs of the SR-IOV capability
  | setBar4 (log : Nat)                        -- the size of BAR 4 of the PF in the Resizable BAR capability
deriving DecidableEq, Repr, Inhabited

/-- The power feeds of R469. -/
inductive Feed where
  | f (k : Fin 8) | bed (n : BedId) | med (n : BedId) | eas
deriving DecidableEq, Repr, Inhabited

/-- The rails that the power manager trims over AVSBus (R471). -/
inductive Rail where
  | c (k : Fin 8) | b (n : BedId) | m (n : BedId) | e
deriving DecidableEq, Repr, Inhabited

/-- The clocks and references that the clock monitor checks (R481). -/
inductive ClockSrc where
  | compute (d : DieId) | bedPll (b : BedId) | media (m : BedId) | ePll | pPll | devRef | pcieRef
deriving DecidableEq, Repr, Inhabited

/-- A logic die or stack with a temperature (R505). -/
inductive TempSrc where
  | die (d : DieCode) | easel | stack (n : Fin 12)
deriving DecidableEq, Repr, Inhabited

/-- The detected causes of a device-ending fault other than those with rows of their own (R428, R444). -/
inductive ClassFSrc where
  | easelLockstep | feed | bedOfDevreg | clock | thermal
deriving DecidableEq, Repr, Inhabited

/-- The telemetry that the power manager measures every 1 ms (R475, R489). -/
structure Telemetry where
  pkgMw : Nat
  feedMv : List Nat       -- by feed index 0 to 16
  feedDa : List Nat       -- tenths of an ampere
  dieTemp : List Nat      -- by die code 0 to 23
  easelTemp : Nat
  hbmTemp : List Nat      -- by stack 0 to 11
deriving DecidableEq, Repr, Inhabited

/-- What is measured and checked of a firmware image (R400, R418): its security version numbers and the SHA-512 of the
whole image and of its three sections. -/
structure ImageInfo where
  svn : Nat
  minSvn : Nat
  image : Nat
  firmware : Nat              -- M of R401
  mediaCode : Nat
  computeCode : Nat
deriving DecidableEq, Repr, Inhabited

/-- What start-up finds on the board and in the flash (R400, R471, R472, R473). -/
structure BootEnv where
  pgLow : List Feed           -- feeds whose PG input is low at the release
  selector : Fin 2            -- the bank selector of the flash
  bank0 : Option ImageInfo    -- none: the bank fails verification
  bank1 : Option ImageInfo
  avsFail : List Rail         -- rails whose AVSBus transactions all fail
deriving DecidableEq, Repr, Inhabited

/-- What training and the start-up self-tests find (R432, R437, R439, R488). -/
structure TestEnv where
  badStacks : List (Fin 12)
  badDies : List DieCode      -- dies that fail their self-test
  badCode : List DieCode      -- dies whose microcode fails verification
deriving DecidableEq, Repr, Inhabited

/-- A picture that a decode engine hands to the tile former (R306 to R309). Planes are stored row by row. -/
structure Picture where
  width : Nat
  height : Nat
  depth : Nat                 -- 8 or 10
  chroma : Nat                -- 0 4:2:0, 1 4:2:2, 2 monochrome
  luma : List Nat
  cb : List Nat
  cr : List Nat
  pts : Option Nat            -- 33-bit, 90 kHz
  frameDur : Nat              -- from the sequence header, 90 kHz units
  concealedLuma : Nat         -- concealed luma samples of its source picture or pictures
  codedLuma : Nat             -- luma samples of that source
  refConcealed : Bool
  structure_ : Nat            -- 0 progressive, 1 woven, 2 top field, 3 bottom field
  deint : Nat
  telecine : Bool
  coding : Nat
  orderOverride : Bool
  matrixCoeff : Nat
  fullRange : Option Bool
  chromaLoc : Nat             -- 0 left (also where absent), 1 centre, 2 top left, 3 top, 4 bottom left, 5 bottom
  off : Nat                   -- offset of its source picture in the segment
deriving DecidableEq, Repr, Inhabited

/-- A reference picture of a decoded picture: its place in output order, whether it has concealed blocks, its planes. -/
structure RefPicture where
  order : Nat
  concealed : Bool
  luma : List Nat
  cb : List Nat
  cr : List Nat
deriving DecidableEq, Repr, Inhabited

/-- A rectangle of luma samples. -/
structure Rect where
  x : Nat
  y : Nat
  w : Nat
  h : Nat
deriving DecidableEq, Repr, Inhabited

/-- A picture as the decoding process of its codec's standard leaves it (R296, R301), before concealment: the blocks that cannot be
decoded, and the references that concealment copies from (R305). -/
structure CodedPicture where
  width : Nat                 -- after conformance cropping
  height : Nat
  depth : Nat
  chroma : Nat
  luma : List Nat
  cb : List Nat
  cr : List Nat
  lost : List Rect
  refs : List RefPicture
  pts : Option Nat
  frameDur : Nat
  interlaced : Bool           -- as R307 defines it
  topFirst : Bool             -- the signalled field order (R308)
  repeated : Bool             -- repeat_first_field or its pic_struct (R309)
  coding : Nat
  matrixCoeff : Nat
  fullRange : Option Bool
  chromaLoc : Nat
  off : Nat                   -- offset of its first packet in the segment
  used : Nat                  -- offset of the first packet that it and those before it do not use
deriving DecidableEq, Repr, Inhabited

/-- An access unit that the demultiplexer has assembled: its offset, its time stamp, whether the continuity counters show a loss in
it, its bytes (R299). -/
structure MediaUnit where
  off : Nat
  pts : Option Nat
  damaged : Bool
  bytes : List Byte
deriving DecidableEq, Repr, Inhabited

/-- How the video of a segment ends: at the end of its source, or at what R301, R300 or R305 reject. -/
inductive VideoEnd where
  | source | unsupported | streamError
deriving DecidableEq, Repr, Inhabited

/-- What a decoder makes of the access units of a video stream: its pictures in output order (R296, R300). -/
structure Video where
  skipped : Nat               -- pictures before the first random access point, and leading pictures skipped
  pics : List CodedPicture
  ending : VideoEnd
deriving DecidableEq, Repr, Inhabited

/-- A decoded audio frame: its time stamp, its rate in Hz, its channels as FP32 samples, and the coefficients of its stereo downmix
(R302). -/
structure AudioFrame where
  off : Nat
  pts : Nat
  rate : Nat
  chans : List (List Nat)
  mixL : List Nat
  mixR : List Nat
deriving DecidableEq, Repr, Inhabited

/-- A rendered display set of DVB subtitles: the indices of its window row by row, and its RGBA palette (R302). -/
structure SubtitleSet where
  off : Nat
  pts : Nat
  page : Nat
  indices : List Byte
  palette : List Byte
deriving DecidableEq, Repr, Inhabited

/-- What ends an ingest job before a condition of R304 does, as its engine finds it (R312). -/
inductive JobFault where
  | far (f : FarFail) | uncorrectable | deniedSealed | internal (control : Bool)
deriving DecidableEq, Repr, Inhabited

/-- An audio or caption record that a job appends to its share (R310). -/
structure AuxRec where
  kind : Nat
  track : Nat
  info : Nat
  pts : Nat
  payload : List Byte
deriving DecidableEq, Repr, Inhabited

/-- What arrives in the cascade inbox from a peer (R285, R286, R288). -/
inductive CascMsg where
  | chain (bucket round unit : Nat) (flags : Nat) (sums : List Word32) (next : Nat)
  | reduced (bucket round unit : Nat) (flags : Nat) (elems : List Nat)
  | sumsq (bucket round shard : Nat) (value : Word32) (flags : Nat) (nonfin : Bool)
  | heartbeat (dev count : Nat)
  | broken
deriving DecidableEq, Repr, Inhabited

/-- A check that fails in a core beside the array and the pull pipeline: a residue code of a Stylus lane, the row unit or the
vector unit at an element group, or duplicated control state (R428, body kind 12 of R435). -/
inductive CoreFault where
  | stylus (group : Nat) | row (group : Nat) | vec (group : Nat) | control
deriving DecidableEq, Repr, Inhabited

/-- What the HBM controller meets at an access (R429): nothing; symbols that the group code corrects; a codeword that it cannot
correct; or a pseudo-channel that fails from now on. -/
inductive HbmFind where
  | clean | masked | lost | dead
deriving DecidableEq, Repr, Inhabited

/-- What a scrub of a scratchpad line finds (R430). -/
inductive ScrubFind where
  | clean | single | double
deriving DecidableEq, Repr, Inhabited

/-- IDE key management carried in VENDOR_DEFINED_REQUEST (R424). -/
inductive IdeKm where
  | query
  | keyProg (stream : Nat) (keySet : Bool) (dir : Bool) (key : Nat)
  | assoc (stream : Nat) (ridLo ridHi addrLo addrHi : Nat)
  | setGo (stream : Nat) (keySet : Bool)
  | setStop (stream : Nat)
deriving DecidableEq, Repr, Inhabited

/-- The algorithms that a requester offers in NEGOTIATE_ALGORITHMS: whether each list holds the one the device supports
(R402). -/
structure SpdmAlgs where
  ecdsaP521 : Bool
  sha512 : Bool
  dheSecp521 : Bool
  aesGcm256 : Bool
deriving DecidableEq, Repr, Inhabited

end Sys2Proof
end

