-- ==== Sys2Proof/Syntax.lean ====
section
/-! DEFINITION. The commands of the KB2516: one constructor per row of the operation and event table, with the row's
operands. A host command carries the ring and header it came with (R354). -/

namespace Sys2Proof

/-- The rows of the table of operations and events, in its order. -/
inductive Instr where
  /-- NOP (R361): Host command that does nothing and completes with progress 0. -/
  | nop (h : CmdHdr)
  /-- FENCE (R352): Host command that waits for earlier commands of its ring pair, or of every ring of its context when all_rings is set. -/
  | fence (h : CmdHdr) (allRings : Bool)
  /-- QUERY (R362): Host command that writes a device summary, a context state or a ring descriptor to a host buffer. -/
  | query (h : CmdHdr) (p : QueryP)
  /-- TIMESTAMP (R361): Host command that returns the device time in its progress word. -/
  | timestamp (h : CmdHdr)
  /-- CTX_CREATE (R363): Creates a context with its function, PASID, SR key, stack regions and save area. -/
  | ctxCreate (h : CmdHdr) (p : CtxCreateP)
  /-- CTX_DESTROY (R363): Destroys a context that is not running: ends its jobs and commands, and removes its rings, mappings and windows. -/
  | ctxDestroy (h : CmdHdr) (ctx : Nat)
  /-- CTX_RUN (R377): Switches a context in, pre-empting any running context and restoring the saved state. -/
  | ctxRun (h : CmdHdr) (ctx : Nat)
  /-- CTX_PREEMPT (R384): Stops, quiesces and saves a running context, then writes a PREEMPTED event. -/
  | ctxPreempt (h : CmdHdr) (ctx : Nat) (saveScratch : Bool)
  /-- CTX_RESUME (R379): Performs the context reset of a context that is not running. -/
  | ctxResume (h : CmdHdr) (ctx : Nat)
  /-- RING_CONFIG (R349): Configures or disables a ring pair or an event ring. -/
  | ringConfig (h : CmdHdr) (p : RingConfigP)
  /-- MAP (R221): Maps a run of pages from a mapping record, mapping either all of them or none. -/
  | map (h : CmdHdr) (p : MapP)
  /-- UNMAP (R222): Removes the mappings of a virtual range, and completes after the translation caches have dropped them. -/
  | unmap (h : CmdHdr) (p : RangeP)
  /-- COPY (R364): Copies bytes between host addresses and device virtual addresses. -/
  | copy (h : CmdHdr) (p : CopyP) (check : Bool)
  /-- FILL (R364): Fills a device virtual range with a repeated 32-bit pattern. -/
  | fill (h : CmdHdr) (p : FillP) (check : Bool)
  /-- AGE_SCAN (R233): Increments the frame ages and reports the old mapped ranges to a host buffer. -/
  | ageScan (h : CmdHdr) (p : AgeScanP)
  /-- EVICT (R234): Copies HBM pages to the far tier and remaps them there. -/
  | evict (h : CmdHdr) (p : EvictP) (check : Bool)
  /-- RESUME_FAULT (R226): Retries or ends a held page or far-tier fault. -/
  | resumeFault (h : CmdHdr) (p : ResumeFaultP)
  /-- EXEC (R160): Checks a program container and starts its queues. -/
  | execProgram (h : CmdHdr) (p : ExecP) (env : Env)
  /-- STOP_AT (R466): Sets or clears the operation count of a queue at which its core stops. -/
  | stopAt (h : CmdHdr) (p : StopAtP)
  /-- BARRIER_CONFIG (R190): Sets the participant mask and count of a hatch line for a context. -/
  | barrierConfig (h : CmdHdr) (p : BarrierConfigP)
  /-- RING_MAP (R264): Sets the replica ring of a context and empties its bucket state. -/
  | ringMap (h : CmdHdr) (p : RingMapP)
  /-- COUNTER_SET (R182): Writes a sync counter of a context that is not running. -/
  | counterSet (h : CmdHdr) (p : CounterSetP)
  /-- GRAD_CONFIG (R266): Sets the bucket geometry, record area and flows of the gradient exchange. -/
  | gradConfig (h : CmdHdr) (p : GradConfigP)
  /-- CASCADE_CONFIG (R284): Joins a context to a multi-device cascade, or leaves one. -/
  | cascadeConfig (h : CmdHdr) (p : CascadeConfigP)
  /-- INGEST_OPEN (R291): Opens an ingest stream with its decode parameters. -/
  | ingestOpen (h : CmdHdr) (p : IngestOpenP)
  /-- INGEST_FEED (R293): Submits a segment to an open stream and queues one job per program. -/
  | ingestFeed (h : CmdHdr) (p : IngestFeedP)
  /-- INGEST_CLOSE (R295): Stops new feeds to a stream and completes when its jobs have ended. -/
  | ingestClose (h : CmdHdr) (p : IngestCloseP)
  /-- TILE_FORMAT (R320): Defines a tile format handle of a context. -/
  | tileFormat (h : CmdHdr) (p : TileFormatP)
  /-- SHUFFLE_CONFIG (R327): Sets the shuffle reservoir, lanes and seed of a context. -/
  | shuffleConfig (h : CmdHdr) (p : ShuffleConfigP)
  /-- SHUFFLE_SEEK (R336): Sets every lane's draw position, or voids a range of sequence numbers. -/
  | shuffleSeek (h : CmdHdr) (p : ShuffleSeekP)
  /-- IMPRESSION_TAKE (R446): Writes the primary, mirror and optional far-tier copies of an impression plan, then the impression record. -/
  | impressionTake (h : CmdHdr) (p : ImpressionP) (env : Env)
  /-- IMPRESSION_RESTORE (R450): Resets the context, restores the entries of an impression and reinstates its device state. -/
  | impressionRestore (h : CmdHdr) (p : ImpressionP) (env : Env)
  /-- DIE_FENCE (R437): Host command that fences a die. -/
  | dieFence (h : CmdHdr) (die : DieCode)
  /-- DIE_RESET (R442): Resets a compute or media die, reloads its microcode and self-tests it. -/
  | dieReset (h : CmdHdr) (die : DieCode) (res : TestResult)
  /-- FAULT_LOG_READ (R436): Copies one fault record to a host buffer and marks it read. -/
  | faultLogRead (h : CmdHdr) (p : FaultLogReadP)
  /-- PARTNER_SET (R448): Sets the mirror partner of a compute die for a context. -/
  | partnerSet (h : CmdHdr) (p : PartnerSetP)
  /-- SEAL_OPEN (R406): Puts a context in the sealing state and writes the signed open record. -/
  | sealOpen (h : CmdHdr) (p : SealP)
  /-- SEAL_LOAD (R410): Decrypts a manifest, data or impression-key image into a sealing or sealed context. -/
  | sealLoad (h : CmdHdr) (p : SealLoadP) (env : Env)
  /-- SEAL_CLOSE (R416): Resets a sealed context, scrubs its frames and erases its keys. -/
  | sealClose (h : CmdHdr) (ctx : Nat)
  /-- FW_STAGE (R419): Verifies a firmware image and writes it to the inactive flash bank. -/
  | fwStage (h : CmdHdr) (p : FwStageP) (env : Env)
  /-- FW_ACTIVATE (R421): Switches to the staged firmware bank, reboots the easel cores and re-measures the dies. -/
  | fwActivate (h : CmdHdr) (boots : Bool) (tests : TestEnv)
  /-- DEBUG_UNLOCK (R423): Fetches a debug challenge, or presents a signed response that unlocks debug. -/
  | debugUnlock (h : CmdHdr) (p : DebugUnlockP) (env : Env)
  /-- POWER_POLICY (R475): Sets the package power limit and enables or disables lending. -/
  | powerPolicy (h : CmdHdr) (p : PowerPolicyP)
  /-- TELEMETRY_READ (R489): Writes the telemetry image to a host buffer, after a latch if requested. -/
  | telemetryRead (h : CmdHdr) (p : TelemetryReadP)
  /-- SELF_TEST (R432): Host command that runs the self-test of an idle compute or media die. -/
  | selfTest (h : CmdHdr) (die : DieCode) (res : TestResult)
  /-- DOORBELL_SQ_TAIL (R344): Host write of a submission-ring tail to a doorbell. -/
  | doorbellSqTail (w : DoorbellWrite)
  /-- DOORBELL_CQ_HEAD (R350): Host write of a completion-ring head to a doorbell, which consumes completion entries. -/
  | doorbellCqHead (w : DoorbellWrite)
  /-- DOORBELL_EVENT_HEAD (R344): Host write of the event-ring head to doorbell 0. -/
  | doorbellEventHead (w : DoorbellWrite)
  /-- COMMAND_FETCH (R350): The device fetches a whole command between head and tail once a completion entry can be reserved. -/
  | commandFetch (ctx : CtxId) (ring : Fin 64) (env : Env)
  /-- RING_ERROR (R351): A failed ring read puts the ring in error, stops fetching and reports an event. -/
  | ringError (ctx : CtxId) (sel : RingSel) (st : Status) (addr : Nat)
  /-- EVENT_BACKLOG_FLUSH (R392): When the event ring has room, writes the backlogged events and then EVENTS_LOST. -/
  | eventBacklogFlush (ctx : CtxId)
  /-- IFACE_NEGOTIATE (R347): Write of REQUESTED that sets the agreed interface generation, or is refused. -/
  | ifaceNegotiate (func : Fin 64) (requested : Nat)
  /-- BAR4_WIN_LO (R371): Write that commits the selected BAR 4 window entry. -/
  | bar4WinLo (value : Word32)
  /-- INT_ENABLE (R372): Write of the interrupt enables, which sends the message for pending status bits. -/
  | intEnable (value : Word32)
  /-- ADMIN_RING_ENABLE (R373): Setting ADMIN_CFG.ENABLE configures ring pair 0.0 from the RINGS registers. -/
  | adminRingEnable (value : Word32)
  /-- ADMIN_RING_DISABLE (R373): Clearing ADMIN_CFG.ENABLE disables ring pair 0.0 as a RING_CONFIG disable does. -/
  | adminRingDisable (value : Word32)
  /-- MEM_CONFIG_WRITE (R219): Write of MEM_DWI_SIZE, MEM_DEVREG_BASE or MEM_DEVREG_SIZE, which takes no effect and sets CFG_LOCKED once locked. -/
  | memConfigWrite (r : MemCfgReg) (value : Word32)
  /-- RELOCK (R422): Write of SEC_DEBUG.RELOCK that locks debug until the next cold or fundamental reset. -/
  | relock (value : Word32)
  /-- FREEZE_REQ (R460): A freeze request by FREEZE_N, DBG_CTL.FREEZE_REQ or JTAG stops every clock domain at a safe edge. -/
  | freezeReq (src : FreezeSrc)
  /-- THAW (R465): Ends a freeze, destroys sealed contexts and enters debug mode. -/
  | thaw (src : FreezeSrc)
  /-- LATCH (R457): Copies every counter and statistic into the shadow registers. -/
  | latch
  /-- CLEAR_PEAK (R468): Clears TAG_PEAK and UNSCHED_PEAK of every bed. -/
  | clearPeak
  /-- DBG_COPY_GO (R467): Starts a snapshot copy of a stopped core's slice range or plates into HBM. -/
  | dbgCopyGo (value : Word32)
  /-- SNAPSHOT_COPY_END (R467): A snapshot copy ends and sets its status and DONE. -/
  | snapshotCopyEnd
  /-- HIST_SEL (R459): Write of a histogram selection, which clears that bed's latency histogram. -/
  | histSel (bed : BedId) (value : Word32)
  /-- TEL_LATCH (R489): Write of TEL_CTL.LATCH that takes a telemetry snapshot and increments TEL_SEQ. -/
  | telLatch (value : Word32)
  /-- TEL_SEQ_READ (R489): Read of TEL_SEQ, which clears TEL_STATUS.FRESH. -/
  | telSeqRead
  /-- REGISTER_WRITE (R10): Write to a BAR 0 register with no row of its own, under the access codes. -/
  | registerWrite (func : Fin 64) (off width value : Nat)
  /-- READOUT (R463): JTAG READOUT streams a selected region over the read-out port while frozen. -/
  | readout (region : Region) (off len : Nat)
  /-- I3C_TELEMETRY_READ (R497): An I3C private write of an offset, then a read, returns bytes of the telemetry image. -/
  | i3cTelemetryRead (off len : Nat)
  /-- CONFIG_REQUEST (R341): A PCIe configuration request, answered with CRS until configuration space is ready. -/
  | configRequest (func : Fin 64) (req : CfgReq)
  /-- BAR4_READ (R346): A host read through a BAR 4 window into context HBM. -/
  | bar4Read (func : Fin 64) (off len : Nat)
  /-- BAR4_WRITE (R346): A host write through a BAR 4 window into context HBM. -/
  | bar4Write (func : Fin 64) (off : Nat) (bytes : List Byte)
  /-- FLR (R487): Function Level Reset of a VF destroys its contexts and resets its rings and windows. -/
  | flr (vf : Fin 64)
  /-- GET_VERSION (R402): SPDM request for the supported versions. -/
  | getVersion
  /-- GET_CAPABILITIES (R402): SPDM request for the responder capabilities. -/
  | getCapabilities
  /-- NEGOTIATE_ALGORITHMS (R402): SPDM request that negotiates the P-521, SHA-512 and AES-256-GCM algorithms. -/
  | negotiateAlgorithms (offer : SpdmAlgs)
  /-- GET_DIGESTS (R402): SPDM request for the certificate chain digests. -/
  | getDigests
  /-- GET_CERTIFICATE (R399): SPDM request for the slot 0 certificate chain. -/
  | getCertificate (slot off len : Nat)
  /-- CHALLENGE (R402): SPDM challenge, answered with CHALLENGE_AUTH signed by the alias key. -/
  | challenge (slot nonce : Nat)
  /-- GET_MEASUREMENTS (R403): SPDM request that returns the measurement blocks. -/
  | getMeasurements (index : Nat) (signed : Bool) (nonce : Nat)
  /-- KEY_EXCHANGE (R402): SPDM request that opens a secured session. -/
  | keyExchange (slot pubX pubY : Nat)
  /-- FINISH (R402): SPDM request that completes the session handshake. -/
  | finish (session : Nat) (verifyOk : Bool)
  /-- HEARTBEAT (R402): SPDM session heartbeat request. -/
  | heartbeat (session : Nat)
  /-- KEY_UPDATE (R402): SPDM request that updates the session keys. -/
  | keyUpdate (session : Nat)
  /-- END_SESSION (R402): SPDM request that ends a secured session. -/
  | endSession (session : Nat)
  /-- VENDOR_DEFINED_REQUEST (R424): SPDM vendor-defined request carrying IDE_KM to key selective IDE streams. -/
  | vendorDefinedRequest (session : Nat) (msg : IdeKm)
  /-- COLD_RESET (R483): DEV_RST_N asserted resets everything. -/
  | coldReset
  /-- FUNDAMENTAL_RESET (R483): PERST_N asserted resets everything except fuses and sticky fields. -/
  | fundamentalReset
  /-- WARM_RESET (R486): Write of RST_CTL.WARM with its key resets the device short of the PCIe link. -/
  | warmReset (value : Word32)
  /-- START_UP (R488): Release of DEV_RST_N and PERST_N begins the start-up timeline. -/
  | startUp (env : BootEnv)
  /-- CONFIG_READY (R341): Configuration space becomes ready; CRS ends and DRS is sent. -/
  | configReady
  /-- HBM_READY (R236): HBM has been trained and zeroed, or retrained and scrubbed, and MEM_STATUS.READY is set. -/
  | hbmReady (env : TestEnv)
  /-- OPERATIONAL (R341): The device reaches operational state, and sets OPERATIONAL and INT_STATUS.READY. -/
  | operational (env : TestEnv)
  /-- FEED_LOSS (R441): A PG input deasserts, or a sense line leaves its window, for 1 µs, and the feed's dies are fenced. -/
  | feedLoss (feed : Feed)
  /-- CLOCK_FAILURE (R481): A reference clock is absent, or a PLL is out of lock, for 1 µs, and a die is fenced or a class F fault follows. -/
  | clockFailure (src : ClockSrc)
  /-- THERMAL_RATION (R479): A compute junction above TEMP_LIMIT lowers that die's allowances. -/
  | thermalRation (die : DieId) (degC : Nat)
  /-- STACK_OVERTEMP (R505): A stack above 85 or 95 °C doubles its refresh, or rations its bed's compute dies. -/
  | stackOvertemp (stack : Fin 12) (degC : Nat)
  /-- ALERT_N (R505): A logic junction at or above 110 °C asserts ALERT_N. -/
  | alertN (src : TempSrc) (degC : Nat)
  /-- THERMAL_TRIP (R505): A junction at 115 °C, or a stack at 105 °C, asserts THERMTRIP_N and stops the clocks. -/
  | thermalTrip (src : TempSrc) (degC : Nat)
  /-- AVS_TRIM (R471): Every 1 ms, the rail targets are compensated for temperature over AVSBus. -/
  | avsTrim (rail : Rail) (up : Bool) (failures : Nat)
  /-- POWER_MEASURE (R475): Every 1 ms, feed telemetry is measured and the power coefficients are corrected. -/
  | powerMeasure (t : Telemetry)
  /-- CONTROL_INTERVAL (R477): At each 2.5 µs boundary, the compute budget is shared into per-core allowances. -/
  | controlInterval (otherMw unitMw : Nat)
  /-- POWER_LEND (R201): After 2 µs with no eligible head, a core lends its power share. -/
  | powerLend (c : CoreId)
  /-- POWER_RECLAIM (R202): A lending core with an eligible head asks for its share back and freezes until it is granted. -/
  | powerReclaim (c : CoreId)
  /-- DISPATCH (R153): At a dispatch point, the dispatcher runs the eligible head of the highest-priority queue. -/
  | dispatch (c : CoreId) (dt : Nat)
  /-- OUTER (R66): AKI operation that runs rank-one updates into a plate, with an optional attached pull per tile. -/
  | outer (c : CoreId) (p : OuterP) (bites : Nat) (flt : OuterFaults)
  /-- PULL (R68): AKI operation that shifts a plate out through the pull pipeline into the scratchpad. -/
  | pull (c : CoreId) (p : PullP) (residue : Option (Nat × Nat))
  /-- PRELOAD (R71): AKI operation that shifts a tile into a plate from the top edge. -/
  | preload (c : CoreId) (p : PreloadP)
  /-- STYLUS (R80): AKI matrix-vector operation for up to 4 vectors on the Stylus path. -/
  | stylus (c : CoreId) (p : StylusP) (run : StylusRun)
  /-- VEC (R131): AKI elementwise, optimizer, CLIP or SCALE_COMMIT operation on the vector unit. -/
  | vec (c : CoreId) (p : VecP) (groups : Nat)
  /-- ROW (R125): AKI row-unit operation: normalisation, softmax or loss over whole rows. -/
  | row (c : CoreId) (p : RowP) (rows : Nat)
  /-- MOVE (R170): AKI transfer between scratchpad, another die's scratchpad and virtual regions. -/
  | move (c : CoreId) (p : MoveP)
  /-- MCAST (R259): AKI multicast of a virtual region into the same scratchpad address of every member die. -/
  | mcast (c : CoreId) (p : McastP)
  /-- ATOMIC_ADD (R105): AKI operation that adds tiles of partial results into HBM at the near-memory adders. -/
  | atomicAdd (c : CoreId) (p : AtomicP)
  /-- STASH_PUSH (R140): AKI operation that appends an entry and tag record to the core's tracing-stack lane. -/
  | stashPush (c : CoreId) (p : PushP)
  /-- STASH_POP (R141): AKI operation that checks the top tag of the lane and pops its payload. -/
  | stashPop (c : CoreId) (p : PopP)
  /-- GRAD_GATHER (R150): AKI operation that sums tied-weight use slots in slot order. -/
  | gradGather (c : CoreId) (p : GatherP) (groups : Nat)
  /-- BUCKET_SEND (R268): AKI operation that pins and accepts a gradient bucket into the replica's send queue. -/
  | bucketSend (c : CoreId) (p : BucketP)
  /-- SIGNAL (R183): AKI operation that applies its common signal. -/
  | signal (c : CoreId)
  /-- WAIT (R185): AKI operation that waits until a counter reaches its target. -/
  | wait (c : CoreId)
  /-- BARRIER (R192): AKI operation that arrives at a hatch line and waits for its release. -/
  | barrier (c : CoreId) (q : QueueId)
  /-- CLIP_DRAW (R333): AKI operation that draws clips from the core's reservoir lane in seeded order. -/
  | clipDraw (c : CoreId) (p : ClipP)
  /-- STOP_MARK (R181): AKI operation that writes a mark and optionally halts the core when debug is unlocked. -/
  | stopMark (c : CoreId) (p : MarkP)
  /-- OPERATION_END (R163): An operation ends; the queue count advances, and the core stops when the count reaches STOP_AT. -/
  | operationEnd (c : CoreId) (flt : Option CoreFault)
  /-- OPERATION_COMPLETION (R163): Everything an operation writes has landed, and its common signal is applied. -/
  | operationCompletion (c : CoreId) (i : Nat)
  /-- SIGNAL_ARRIVAL (R183): A signal reaches its counter and is added, with a channel occupancy check for an ack. -/
  | signalArrival (i : Nat)
  /-- WET_LINE_CLEAR (R178): A held read leaves again when its wet line clears. -/
  | wetLineClear (c : CoreId) (dt : Nat)
  /-- HATCH_RELEASE (R192): The wired-AND of a hatch line settles high: G toggles and the waiting BARRIERs become eligible. -/
  | hatchRelease (line : LineId) (mismatch : Bool)
  /-- WAIT_TIMEOUT (R197): A wait that exceeds the wait limit ends with SYNC_TIMEOUT and stops the context. -/
  | waitTimeout (c : CoreId) (q : QueueId) (elapsed : Nat)
  /-- TAG_GRANT (R216): A tile that waited for a tag, at the cap or at an empty pool, takes one and proceeds. -/
  | tagGrant (bed : BedId)
  /-- FAR_TIER_TILE_FAIL (R230): A far-tier read tile fails with an error completion, poison or IDE failure. -/
  | farTierTileFail (xfer seq : Nat)
  /-- FAR_TIER_TIMEOUT (R228): A far-tier tile not completed within MEM_FAR_TIMEOUT fails. -/
  | farTierTimeout (xfer seq : Nat)
  /-- FAR_FLUSH_RETURN (R229): The flush read of a far-tier write transfer returns, and the bytes it covers become complete. -/
  | farFlushReturn (xfer : Nat) (res : Option FarFail)
  /-- PACKET_ARRIVAL (R239): A packet reaches the next stop and is forwarded, replicated or delivered. -/
  | packetArrival (pkt crcFails : Nat)
  /-- RASTER_SLOT (R246): A raster slot begins on a link and scheduled or unscheduled packets are sent in it. -/
  | rasterSlot (link : LinkId) (slot : Fin 64)
  /-- TRANSFER_COMPLETION_ACK (R257): A destination's completed-byte count reaches the transfer length and an acknowledgement goes to the issuer. -/
  | transferCompletionAck (i : Nat)
  /-- MCAST_MEMBER_ACK (R260): A member acknowledges a multicast and applies its member signal. -/
  | mcastMemberAck (i : Nat)
  /-- ADDER_TILE_ARRIVAL (R107): A contribution tile reaches a near-memory adder and is applied, held or refused. -/
  | adderTileArrival (xfer seq : Nat) (residue : Option Nat)
  /-- ADDER_RESEND (R107): A refused out-of-turn tile is resent after 256 F-cycles. -/
  | adderResend (xfer seq : Nat)
  /-- BUCKET_ENTER (R270): The next accepted bucket in id order enters reduction on its channel. -/
  | bucketEnter (ctx : CtxId) (pos : Nat)
  /-- CHAIN_PACKET (R272): A chain packet reaches the next ring position, which adds its contribution or lands the reduced unit. -/
  | chainPacket (i : Nat)
  /-- SHARD_SUMSQ_ARRIVAL (R273): A shard sum of squares and flag word reaches a replica. -/
  | shardSumsqArrival (i : Nat)
  /-- BUCKET_COMPLETE (R276): A bucket completes on a replica; its record and the round record are written and its signal applied. -/
  | bucketComplete (ctx : CtxId) (pos : Nat)
  /-- CASC_INBOX_WRITE (R285): A peer's posted write of a chain packet or word arrives in the cascade inbox. -/
  | cascInboxWrite (ctx : CtxId) (msg : CascMsg)
  /-- CASC_MAP_ARRIVAL (R286): The master's cascade ring map arrives in a member's inbox. -/
  | cascMapArrival (ctx : CtxId) (counts : List Nat)
  /-- CASC_ROUND_START (R286): The master's round-start word arrives and lets a member's next round leave. -/
  | cascRoundStart (ctx : CtxId) (round : Nat)
  /-- CASC_HATCH_RELEASE (R287): A cascade hatch pin is sampled released, and that bucket's chains may cross PCIe. -/
  | cascHatchRelease (chan : Fin 4)
  /-- CASC_HEARTBEAT (R288): Every 100 µs, a device writes its heartbeat counter into its peers' inboxes. -/
  | cascHeartbeat
  /-- CASC_HEARTBEAT_LOSS (R288): A heartbeat unchanged for 1 ms, or a broken word, breaks the cascade. -/
  | cascHeartbeatLoss (dev : Nat)
  /-- INGEST_JOB_START (R294): A queued job starts on a free engine of a permitted media die. -/
  | ingestJobStart (job : Nat) (env : Env)
  /-- PICTURE_OUTPUT (R306): A decoded, concealed and deinterlaced picture is handed to the tile former with its metadata word. -/
  | pictureOutput (job : Nat) (fixed : Nat) (retry : Bool)
  /-- INGEST_JOB_END (R311): A job ends, voids its unused numbers and writes its report. -/
  | ingestJobEnd (job : Nat) (why : Option JobFault) (fixed : Nat) (retry : Bool)
  /-- CLIP_READY (R329): A clip's first tile is ready and its slot is filled, waited for or discarded. -/
  | clipReady (job : Nat)
  /-- CLIP_FILLED (R329): Every tile of a clip has landed and its slot becomes filled. -/
  | clipFilled (job : Nat)
  /-- VOID_RANGE_DROP (R330): A void-table range that every lane has passed is dropped, freeing room. -/
  | voidRangeDrop (ctx : CtxId)
  /-- DRAW_SLOT_FILLED (R332): A draw waiting with MEDIA_WAIT finds its slot filled and copies the clip. -/
  | drawSlotFilled (c : CoreId)
  /-- QUIESCE (R384): Every core of a stopping context reaches its stop point and quiesces. -/
  | quiesce
  /-- FRAME_SCRUB (R413): A sealed frame is overwritten with zeros in the background and becomes unsealed. -/
  | frameScrub
  /-- PATROL_SCRUB (R430): The scrubber reads each scratchpad line every 10 ms and corrects single-bit errors. -/
  | patrolScrub (die : DieId) (line : Nat) (find : ScrubFind)
  /-- FAULT_SELF_TEST (R432): After a class D fault in a compute die, the device self-tests the die and fences it if it fails. -/
  | faultSelfTest (die : DieCode) (res : TestResult)
  /-- CLASS_F_FAULT (R444): A device-ending fault stops every core and ingest, and asserts ALERT_N and AER. -/
  | classFFault (src : ClassFSrc)
  /-- PCIE_READ_COMPLETION (R228): A successful PCIe completion with data arrives for a read that the device issued, such as a far-tier tile, and the tile is written once all of its data has arrived. -/
  | pcieReadCompletion (xfer seq : Nat) (bytes : List Byte)
  /-- TAG_RELEASE (R214): An HBM controller finishes a tile's access: the data leaves toward its destination or is written into the stack, and the tag is freed. -/
  | tagRelease (bed : BedId) (stack : Fin 3) (pc : Fin 64) (find : HbmFind)
  /-- ATS_INVALIDATION (R340): An ATS Invalidate Request from the host arrives, and the device queues it (depth 32) and drops the cached translations it names. -/
  | atsInvalidation (func : Fin 64) (pasid : Option Nat) (addr len : Nat)
deriving DecidableEq, Repr

end Sys2Proof
end

