-- ==== Sys2Proof/Machine/CoreParts.lean ====
section
/-! DEFINITION. The state of the compute dies: plates and queues of a core (R57 to R104, R152 to R204), the scratchpad and its
wet marks (R175, R207), and the transfers, packets, tags and adders of the beds and rings (R105 to R109, R206 to R263). -/

namespace Sys2Proof.Machine

open Sys2Proof

/-- A sparse memory: the cells that differ from its default, addresses strictly rising. -/
abbrev Sparse (α : Type) := List (Nat × α)

/-- The states of a plate (R73). -/
inductive PlateState where
  | free | owned (q : QueueId) | shifting
deriving DecidableEq, Repr, Inhabited

/-- What a plate keeps beside its words: its state (R73), its predicted exponent (R92) and whether it holds a double-word
total (R65). -/
structure PlateInfo where
  st : PlateState
  pred : Option Int
  dword : Bool
deriving DecidableEq, Repr, Inhabited

/-- How an operation ended (R163, R179). -/
inductive OpOutcome where
  | ok | fault (s : Status)
deriving DecidableEq, Repr, Inhabited

/-- An attached pull that is not yet issued: the C-cycle at which it is due, its tile, and when it would be due without the replays of
the tile's last bite, from which its side fetch goes (R67, R113). -/
structure AttDue where
  due : Nat
  tile : Nat
  planned : Nat
  known : Nat               -- C-cycle at which the first pass of the last bite was decided
deriving DecidableEq, Repr, Inhabited

/-- An operation in progress: from its first issue until it ends (R152), with the saved state of R180. -/
structure Run where
  op : Nat                  -- the name of this instance on its core
  issued : Nat              -- C-cycle of the last issue
  unit : Nat                -- bites, matrix rows, groups, rows or chunks, or records executed
  first : Bool              -- no unit has run since the last issue (R61, R92)
  lastEnd : Nat             -- C-cycle after the last update step or unit
  decided : List Nat        -- C-cycles of the last two bite decisions, newest first (R88)
  leaveAt : Option Nat      -- a held read left again at this C-cycle (R178)
  fetch : Bool              -- what is or was held is a pull that the operation issues (R113)
  endAt : Option Nat        -- C-cycle at which the operation ends, once fixed
  epoch : Nat               -- the epoch counter as read at the issue (R186)
  stepCtr : Nat             -- the step counter as read at the first unit (R134)
  stats : List (Option (List Nat)) -- lane statistics of the current row (R126, R130)
  gather : List (List Nat)  -- the Stylus gather register (R82, R84), or what pass 1 of a row gave
  preds : List (Option Int) -- predicted exponents of the loaded vectors (R104)
  att : Option AttDue
  xfer : Option Nat         -- the transfer it waits for
  doneBytes : Nat           -- bytes known complete, the progress word of a transfer (R179)
  accept : List Nat         -- pieces that an adder has accepted, by index (R216)
  acks : List DieId         -- members that have acknowledged a multicast (R386)
  seq : Nat                 -- clips drawn so far (R335)
  resumed : Bool            -- the operation was resumed after a stop (R146)
  suspended : Bool          -- displaced at a dispatch point (R153)
  outcome : Option OpOutcome
deriving DecidableEq, Repr, Inhabited

/-- What a queue head that is not eligible waits for (R185, R192, R193, R225, R329). -/
inductive WaitKind where
  | none | counter | barrier | reentry | released | wet (line : Nat) | held (faultId : Nat) | broken
deriving DecidableEq, Repr, Inhabited

/-- One issue queue (R152, R181). -/
structure Queue where
  ops : List Desc           -- the operations not yet ended, head first
  index : Nat               -- index of the head in its program
  count : Nat               -- operations ended (R181)
  run : Option Run          -- the head, once issued
  wait : WaitKind
  waitUs : Nat              -- measured length of the current wait, in ns of non-frozen time, up to `waitFrom` (R196)
  waitFrom : Option Nat     -- device time in ns from which its running part is measured; none while it is not measured
  waitLimit : Nat           -- the limit in force when the wait began, in units of 100 µs (R196)
  barGens : Nat             -- generations ahead at which a held re-entry counts (R193)
  mark : Word32             -- the mark register (R181)
  halted : Bool             -- a halting STOP_MARK of this queue stopped the core (R181, R458)
deriving DecidableEq, Repr, Inhabited

/-- A pull that is shifting (R68, R69). -/
structure Shift where
  plate : Nat
  start : Nat
deriving DecidableEq, Repr, Inhabited

/-- An operation that has ended and not yet completed (R163). -/
structure Trailing where
  op : Nat
  queue : QueueId
  desc : Desc
  xfer : Option Nat
  at_ : Option Nat          -- C-cycle of the completion when it is fixed
deriving DecidableEq, Repr, Inhabited

/-- The operand ports, bite registers and Stylus path of a core (R59, R61, R82, R87, R95). -/
structure Ports where
  cpCol : List (List (Nat × Nat))     -- vectors left in the counterproof buffers: stored element and scale byte
  cpRow : List (List (Nat × Nat))
  replayCol : List (List (Nat × Nat)) -- the vectors of the bite in hand (R95)
  replayRow : List (List (Nat × Nat))
  bite0 : Sparse Int        -- bite registers of the last bite in units of the window, keyed 256 × row + column
  bite1 : Sparse Int
  vecReg : List (List (Nat × Nat))
  side : List (List (Nat × Nat))      -- side-stream buffer: the words of S0 and S1 by array row and column (R113)
deriving DecidableEq, Repr, Inhabited

/-- The 48-bit counters of a core (R455, R456, R458): stalled C-cycles by the index of their cause, BUSY cycles, update steps,
bites promoted, window replays, margin-masked events, operations ended and pulls issued. -/
structure CoreCounters where
  stall : Vector Nat 16
  busy : Nat
  steps : Nat
  bites : Nat
  replays : Nat
  masked : Nat
  ops : Nat
  pulls : Nat
deriving DecidableEq, Repr, Inhabited

/-- The power share of a core (R201, R202, R477). -/
structure CorePower where
  allowance : Nat           -- sixteenths of the issue slots
  lending : Bool
  reclaiming : Bool         -- it asked for its share back; it lends until the next interval boundary (R477)
  blockPos : Nat            -- cycles run in the current block of 16 C-cycles (R476)
deriving DecidableEq, Repr, Inhabited

/-- One Burin core with its sequencer. -/
structure Core where
  plates : Sparse Word32    -- keyed 65536 × plate + 256 × row + column
  plate : Vector PlateInfo 8
  ports : Ports
  queues : Vector Queue 4
  cur : Option QueueId      -- the queue whose operation occupies the core (R23)
  cyc : Nat                 -- non-frozen C-cycles since the reset
  freeAt : Nat              -- first C-cycle at which the next operation can issue
  shift : Option Shift
  trailing : List Trailing
  nextOp : Nat              -- instances issued, the name of the next one
  stopping : Bool           -- a stop was requested of this core (R179)
  stopped : Bool            -- stopped by STOP_AT or STOP_MARK (R181)
  stopBy : Option (QueueId × Nat × Word32) -- the queue that stops the core, with the cause and the op_tag of its STOPPED event (R181, R391)
  idleAs : Option (Fin 16)  -- the stall cause of the cycles before what the core waited for came, where it is past (R225)
  lags : List Nat           -- the last 64 arrival lags in units of 10 ns, newest first (R203)
  lagCount : Nat            -- lags recorded
  ctr : CoreCounters
  pw : CorePower
deriving DecidableEq, Repr, Inhabited

/-- Which operation marked a line wet (R175, R176). -/
structure WetMark where
  line : Nat
  core : CoreId
  queue : QueueId
  op : Nat
  opTag : Word32
  setAt : Nat               -- C-cycle of the marking core at which it was set
  clearAt : Option Nat      -- C-cycle of the marking core at which it clears; none for a variable writer
deriving DecidableEq, Repr, Inhabited

/-- The scratchpad slice of a compute die (R207). -/
structure Slice where
  mem : Sparse Byte
  wet : List WetMark
deriving DecidableEq, Repr, Inhabited

/-- One end of a piece after translation (R206, R218). -/
inductive Place where
  | scratch (die : DieId) (addrs : List Nat)
  | hbm (bed : BedId) (off : Nat)
  | far (addr : Nat) (ns at_ : Bool) (pasid : Option Nat)
  | host (func : Nat) (pasid : Option Nat) (addr : Nat)
  | front                   -- the command front end, which supplies the pattern of a FILL
deriving DecidableEq, Repr, Inhabited

/-- Where a piece stands on its way (R206, R214, R228, R229, R257). -/
inductive PieceSt where
  | waitRead          -- waits for a tag at its source
  | reading           -- holds a tag at its source
  | waitFar           -- waits for a place among the 1,024 far-tier tiles
  | farRead           -- its read requests are outstanding
  | waitWrite         -- its data is in the engine and it waits for a tag at its target
  | waitStop          -- its data is in the engine, and its flow's buffer at the stop is full (R250)
  | moving            -- a packet carries it
  | writing           -- at its target controller, holding a tag
  | refused           -- refused by an adder and waiting to be sent again
  | heldAdder         -- accepted, held for its turn
  | posted            -- written to the far tier, not yet flushed
  | landed            -- complete at every destination
  | failed (f : FarFail)
deriving DecidableEq, Repr, Inhabited

/-- One tile or piece of a transfer (R206). -/
structure Piece where
  seq : Nat
  off : Nat
  len : Nat
  src : Place
  dst : Place
  st : PieceSt
  data : List Byte
  left : List DieId         -- members of a multicast that the piece has not reached
  issuedNs : Nat
  limitNs : Nat             -- far-tier time-out in force when its read requests left (R237)
deriving DecidableEq, Repr, Inhabited

/-- What kind of operation, or which command, moves the bytes. An EVICT moves page by page: `page` is the virtual address of the one in
hand, `done` the pages evicted and `moved` their bytes (R234). -/
inductive XferKind where
  | move | mcast | atomic (ordered : Bool) (group n idx : Nat) | push | pop | draw (slot : Nat)
  | copy (h : CmdHdr) (p : CopyP) | fill (h : CmdHdr) (p : FillP) | evict (h : CmdHdr) (p : EvictP) (page done moved : Nat)
deriving DecidableEq, Repr, Inhabited

/-- A transfer in flight (R206, R216, R257, R258). -/
structure Xfer where
  id : Nat
  ctx : CtxId
  core : CoreId
  queue : QueueId
  op : Nat
  opTag : Word32
  kind : XferKind
  fmt : Fmt
  flow : Option Nat
  len : Nat
  next : Nat                -- offset of the first byte not yet translated
  nextSeq : Nat
  pieces : List Piece       -- those issued and not forgotten, in walk order
  members : List DieId      -- members still expected (R260)
  delivered : List DieId    -- members that acknowledged (R261)
  flushed : Nat             -- bytes covered by the last flush that returned (R229)
  flushing : List Nat       -- offsets that outstanding flushes cover, oldest first
  sinceFlush : Nat          -- tiles posted since the last flush
  stop : Bool               -- no further tile is issued (R153, R179)
  ended : Bool              -- its operation has ended with a fault; the tiles on their way complete (R250)
  fault : Option Status     -- how the transfer ends, once a tile failed
  faultAddr : Nat
  faultWhy : Nat × Nat      -- access and reason of that fault (R225)
  acked : List Nat          -- destinations, by die code or 24, whose completion acknowledgement has left (R257)
  got : List Nat            -- destinations whose acknowledgement the issuer holds
deriving DecidableEq, Repr, Inhabited

/-- Where a packet stands: waiting at a stop for a link in a queue, or on the link (R246, R250, R254). -/
inductive PktPos where
  | queued (link : LinkId) (q : Fin 5)   -- 0 the flow's queue; 1 to 4 the unscheduled queues of R254
  | flying (link : LinkId)
deriving DecidableEq, Repr, Inhabited

/-- A packet (R239): a piece on the rings. Stop 4 is the easel die. -/
structure Pkt where
  id : Nat
  ctx : CtxId
  xfer : Nat
  seq : Nat
  flow : Option Nat
  vc : Fin 5
  pos : PktPos
  tile : Nat                -- the sequence number of its header: the tile's index in the walk order (R239)
  hops : Nat                -- links crossed
  dst : Fin 5               -- the stop at which this copy is delivered last
  drops : List (Fin 5)      -- stops at which it is replicated (R259)
  members : List DieId
  bytes : List Byte
deriving DecidableEq, Repr, Inhabited

/-- A control packet on VC4: a signal, a completion acknowledgement or a member acknowledgement (R183, R257, R260). -/
inductive Vc4 where
  | signal (ctx : CtxId) (ctr : Fin 64) (core : CoreId) (inc : Nat) (srcDie : Option DieId) (own : Option CoreId)
  | ack (xfer : Nat) (ctx : CtxId) (dest : Nat)
  | member (xfer : Nat) (ctx : CtxId) (die : DieId)
deriving DecidableEq, Repr, Inhabited

/-- A transfer tag in use (R214). -/
structure Tag where
  stack : Fin 3
  pc : Fin 64
  owner : Option CoreId     -- none: a requester that is no core
  reserved : Bool
  xfer : Nat
  seq : Nat
  wr : Bool
  sinceNs : Nat
deriving DecidableEq, Repr, Inhabited

/-- The state that an adder keeps for a target tile of an ordered group (R107). -/
structure TileState where
  ctx : CtxId
  group : Nat
  tile : Nat                -- first target byte, as a bed offset
  n : Nat
  next : Nat
deriving DecidableEq, Repr, Inhabited

/-- A contribution in an adder's hold buffer (R107). -/
structure HeldTile where
  ctx : CtxId
  group : Nat
  tile : Nat
  idx : Nat
  xfer : Nat
  seq : Nat
  fmt : Fmt
  data : List Byte
deriving DecidableEq, Repr, Inhabited

/-- A near-memory adder (R105). -/
structure Adder where
  states : List TileState
  hold : List HeldTile
deriving DecidableEq, Repr, Inhabited

end Sys2Proof.Machine
end

