-- ==== Sys2Proof/Machine/Mem.lean ====
section
/-! DEFINITION. Sparse memories in one canonical form, and bytes in little-endian order (R8). -/

namespace Sys2Proof.Machine

open Sys2Proof

section sparse
variable {α : Type}

/-- What cell `k` holds; `d` where nothing is listed. -/
def sget (d : α) : Sparse α → Nat → α
  | [], _ => d
  | (k', v) :: m, k => if k' = k then v else sget d m k

/-- Cell `k` set to `v`; a cell at the default is not listed. -/
def sset [DecidableEq α] (d : α) : Sparse α → Nat → α → Sparse α
  | [], k, v => if v = d then [] else [(k, v)]
  | (k', v') :: m, k, v =>
    if k < k' then (if v = d then (k', v') :: m else (k, v) :: (k', v') :: m)
    else if k = k' then (if v = d then m else (k, v) :: m)
    else (k', v') :: sset d m k v

/-- Every key of `m` lies above `k`. -/
def sabove (k : Nat) (m : Sparse α) : Bool := m.all fun c => k < c.1

/-- The canonical form: addresses strictly rising and no cell at the default. -/
def swf [DecidableEq α] (d : α) : Sparse α → Bool
  | [] => true
  | (k, v) :: m => decide (v ≠ d) && sabove k m && swf d m

/-- The cells of `[lo, lo + n)` back at the default. -/
def sclear (m : Sparse α) (lo n : Nat) : Sparse α := m.filter fun c => c.1 < lo || lo + n ≤ c.1

/-- Several cells set, in the order of the list. -/
def sputs [DecidableEq α] (d : α) (m : Sparse α) : List (Nat × α) → Sparse α
  | [] => m
  | (k, v) :: l => sputs d (sset d m k v) l

/-- The listed cells of `[lo, lo + n)`, with their keys moved to start at `to_`. -/
def scut (m : Sparse α) (lo n to_ : Nat) : List (Nat × α) :=
  (m.filter fun c => decide (lo ≤ c.1) && decide (c.1 < lo + n)).map fun c => (c.1 - lo + to_, c.2)

/-- `[lo, lo + n)` of `src` copied over the cells of `dst` that start at `to_`. -/
def scopy [DecidableEq α] (d : α) (src dst : Sparse α) (lo n to_ : Nat) : Sparse α :=
  sputs d (sclear dst to_ n) (scut src lo n to_)

end sparse

/-- The memory's canonical form (R236: what no entry lists reads as zero). -/
abbrev Memory.wf (m : Sparse Byte) : Bool := swf 0 m

/-- `n` consecutive bytes from `a`. -/
def readBytes (m : Sparse Byte) (a n : Nat) : List Byte := (List.range n).map fun i => sget 0 m (a + i)

/-- Bytes stored from `a` upward. -/
def writeBytes (m : Sparse Byte) (a : Nat) : List Byte → Sparse Byte
  | [] => m
  | b :: bs => writeBytes (sset 0 m a b) (a + 1) bs

/-- The number that little-endian bytes spell (R8). -/
def leNat : List Byte → Nat
  | [] => 0
  | b :: bs => b.toNat + 256 * leNat bs

/-- The `n` little-endian bytes of a number (R8). -/
def leBytes : Nat → Nat → List Byte
  | 0, _ => []
  | n + 1, v => BitVec.ofNat 8 v :: leBytes n (v / 256)

/-- The number in bytes `[off, off + n)` of a packet or record; bytes beyond its end read 0. -/
def fieldAt (bs : List Byte) (off n : Nat) : Nat := leNat ((bs.drop off).take n)

/-- Bytes `[off, off + v.length)` of `bs` replaced by `v`. -/
def putAt (bs : List Byte) (off : Nat) (v : List Byte) : List Byte :=
  bs.take off ++ v ++ bs.drop (off + v.length)

/-- `n` zero bytes. -/
def zeros (n : Nat) : List Byte := List.replicate n 0

/-- `bs` cut or padded with zeros to `n` bytes. -/
def padTo (n : Nat) (bs : List Byte) : List Byte := (bs ++ zeros (n - bs.length)).take n

/-- A record built from its fields, each at its byte offset, over `n` zero bytes. -/
def record (n : Nat) (fs : List (Nat × Nat × Nat)) : List Byte :=
  fs.foldl (fun r f => putAt r f.1 (leBytes f.2.1 f.2.2)) (zeros n)

/-- The list cut into pieces of `n`; `fuel` bounds their number. -/
def chunksOf {α : Type} (n : Nat) : Nat → List α → List (List α)
  | 0, _ => []
  | fuel + 1, l => if l.isEmpty then [] else l.take n :: chunksOf n fuel (l.drop n)

/-- The value of the first pair with key `k`. -/
def assoc? {κ α : Type} [DecidableEq κ] (k : κ) : List (κ × α) → Option α
  | [] => none
  | (k', v) :: l => if k' = k then some v else assoc? k l

/-- The list with the pair of key `k` replaced, or added at its end. -/
def assocSet {κ α : Type} [DecidableEq κ] (k : κ) (v : α) : List (κ × α) → List (κ × α)
  | [] => [(k, v)]
  | (k', v') :: l => if k' = k then (k, v) :: l else (k', v') :: assocSet k v l

/-- The list without the pairs of key `k`. -/
def assocDel {κ α : Type} [DecidableEq κ] (k : κ) (l : List (κ × α)) : List (κ × α) := l.filter fun p => p.1 ≠ k

/-- Entry `i` of a list, or the default. -/
def nthD {α : Type} (d : α) (l : List α) (i : Nat) : α := l.getD i d

/-- ⌈a / b⌉. -/
def ceilDiv (a b : Nat) : Nat := (a + b - 1) / b

/-- `n` rounded up to a multiple of `k`. -/
def roundUp (n k : Nat) : Nat := ceilDiv n k * k

end Sys2Proof.Machine
end

