-- ==== Sys2Proof/Machine/Fp.lean ====
section
/-! DEFINITION. Number formats, exact arithmetic on their values, rounding, MX blocks and the stochastic-rounding generator
(R31 to R48). Encodings are numbers; values are exact. -/

namespace Sys2Proof.Machine

open Sys2Proof

/-- An exact value: ±m × 2^e with m > 0, a signed zero, an infinity or NaN (R33, R41). -/
inductive Num where
  | nan
  | inf (neg : Bool)
  | zero (neg : Bool)
  | fin (neg : Bool) (m : Nat) (e : Int)
deriving DecidableEq, Repr, Inhabited

/-- Which special values the top exponents of a scalar format hold (R33, R37). -/
inductive Special where
  | ieee | nanOnly | none
deriving DecidableEq, Repr, Inhabited

/-- A scalar format: exponent bits, mantissa bits, bias, special values (R33, R37). -/
structure Scalar where
  E : Nat
  M : Nat
  bias : Int
  sp : Special
deriving DecidableEq, Repr, Inhabited

def fp32 : Scalar := ⟨8, 23, 127, .ieee⟩
def bf16 : Scalar := ⟨8, 7, 127, .ieee⟩
def fp16 : Scalar := ⟨5, 10, 15, .ieee⟩
def e4m3 : Scalar := ⟨4, 3, 7, .nanOnly⟩
def e5m2 : Scalar := ⟨5, 2, 15, .ieee⟩
def e3m2 : Scalar := ⟨3, 2, 3, .none⟩
def e2m3 : Scalar := ⟨2, 3, 1, .none⟩
def e2m1 : Scalar := ⟨2, 1, 1, .none⟩

/-- The magnitude bits of the largest finite value (R33, R37). -/
def Scalar.maxMag (f : Scalar) : Nat :=
  match f.sp with
  | .ieee => (2 ^ f.E - 1) * 2 ^ f.M - 1
  | .nanOnly => 2 ^ (f.E + f.M) - 2
  | .none => 2 ^ (f.E + f.M) - 1

/-- The magnitude bits of infinity, and of the canonical NaN (R34). -/
def Scalar.infMag (f : Scalar) : Nat := (2 ^ f.E - 1) * 2 ^ f.M
def Scalar.nanMag (f : Scalar) : Nat :=
  match f.sp with
  | .ieee => (2 ^ f.E - 1) * 2 ^ f.M + 2 ^ (f.M - 1)
  | _ => 2 ^ (f.E + f.M) - 1

/-- The sign bit above the magnitude bits. -/
def Scalar.signed (f : Scalar) (neg : Bool) (mag : Nat) : Nat := if neg then 2 ^ (f.E + f.M) + mag else mag

/-- The value of a nonzero or zero significand. -/
def Num.mk (neg : Bool) (m : Nat) (e : Int) : Num := if m = 0 then .zero neg else .fin neg m e

/-- The value that an encoding spells (R33, R37). -/
def Scalar.decode (f : Scalar) (w : Nat) : Num :=
  let neg := bit w (f.E + f.M)
  let e := field w f.M f.E
  let m := field w 0 f.M
  let v : Num := if e = 0 then Num.mk neg m (1 - f.bias - f.M) else .fin neg (2 ^ f.M + m) (e - f.bias - f.M)
  match f.sp with
  | .ieee => if e = 2 ^ f.E - 1 then (if m = 0 then .inf neg else .nan) else v
  | .nanOnly => if e = 2 ^ f.E - 1 ∧ m = 2 ^ f.M - 1 then .nan else v
  | .none => v

/-- A rounding mode (R42); stochastic rounding carries the element's 16-bit random value. -/
inductive Rnd where
  | rne | sr (u : Nat)
deriving DecidableEq, Repr, Inhabited

/-- Whether the kept part goes up: `a` kept, `rem` discarded of `d` bits (R42, R47). -/
def roundsUp (mode : Rnd) (a rem d : Nat) : Bool :=
  match mode with
  | .rne => decide (2 ^ d < 2 * rem) || (decide (2 * rem = 2 ^ d) && a % 2 == 1)
  | .sr u =>
    let top := if 16 ≤ d then rem / 2 ^ (d - 16) else rem * 2 ^ (16 - d)
    decide (rem ≠ 0) && decide (65536 ≤ top + u)

/-- `m × 2^e` in units of `2^q`, rounded: the units and whether the discarded part is at least half a unit. -/
def roundTo (mode : Rnd) (m : Nat) (e q : Int) : Nat × Bool :=
  if q ≤ e then (m * 2 ^ (e - q).toNat, false)
  else
    let d := (q - e).toNat
    let a := m / 2 ^ d
    let rem := m % 2 ^ d
    (if roundsUp mode a rem d then a + 1 else a, decide (2 ^ d ≤ 2 * rem))

/-- The result of a finite overflow, or of an infinity, in a plain format (R43); `ieee` chooses the overflow mode. -/
def Scalar.overflow (f : Scalar) (ieee neg : Bool) : Nat :=
  if ieee then
    match f.sp with
    | .ieee => f.signed neg f.infMag
    | .nanOnly => f.nanMag
    | .none => f.signed neg f.maxMag
  else f.signed neg f.maxMag

/-- Conversion of a value to a format (R42 to R44). -/
def Scalar.encode (f : Scalar) (mode : Rnd) (ieee : Bool) (v : Num) : Nat :=
  match v with
  | .nan => f.nanMag
  | .inf neg => f.overflow ieee neg
  | .zero neg => f.signed neg 0
  | .fin neg m e =>
    let emin : Int := 1 - f.bias - f.M
    let q : Int := max ((Nat.log2 m : Int) + e - f.M) emin
    let a := (roundTo mode m e q).1
    let mag := (q - emin).toNat * 2 ^ f.M + a
    let topTie := mode == .rne && (roundTo mode m e q).2 && (q - emin).toNat * 2 ^ f.M + m / 2 ^ (q - e).toNat == f.maxMag
    if f.maxMag < mag ∨ topTie then f.overflow ieee neg else f.signed neg mag

/-- ⌊log2⌋ of the magnitude of `m × 2^e`. -/
def floorLog2 (m : Nat) (e : Int) : Int := Nat.log2 m + e

/-! ## Exact arithmetic -/

def Num.neg : Num → Num
  | .nan => .nan
  | .inf b => .inf (!b)
  | .zero b => .zero (!b)
  | .fin b m e => .fin (!b) m e

def Num.isNeg : Num → Bool
  | .nan => false
  | .inf b => b
  | .zero b => b
  | .fin b _ _ => b

def Num.abs : Num → Num
  | .nan => .nan
  | .inf _ => .inf false
  | .zero _ => .zero false
  | .fin _ m e => .fin false m e

def Num.isZero : Num → Bool
  | .zero _ => true
  | _ => false

def Num.isFinite : Num → Bool
  | .zero _ => true
  | .fin _ _ _ => true
  | _ => false

/-- A signed integer times 2^e as a value; a zero sum is +0, as RNE gives. -/
def Num.ofInt (n : Int) (e : Int) : Num := if n = 0 then .zero false else .fin (decide (n < 0)) n.natAbs e

/-- The exact product (R41). -/
def Num.mul : Num → Num → Num
  | .nan, _ => .nan
  | _, .nan => .nan
  | .inf a, .inf b => .inf (a != b)
  | .inf a, .fin b _ _ => .inf (a != b)
  | .fin a _ _, .inf b => .inf (a != b)
  | .inf _, .zero _ => .nan
  | .zero _, .inf _ => .nan
  | .zero a, .zero b => .zero (a != b)
  | .zero a, .fin b _ _ => .zero (a != b)
  | .fin a _ _, .zero b => .zero (a != b)
  | .fin a m e, .fin b n g => .fin (a != b) (m * n) (e + g)

/-- The exact sum (R41). -/
def Num.add : Num → Num → Num
  | .nan, _ => .nan
  | _, .nan => .nan
  | .inf a, .inf b => if a = b then .inf a else .nan
  | .inf a, _ => .inf a
  | _, .inf b => .inf b
  | .zero a, .zero b => .zero (a && b)
  | .zero _, v => v
  | v, .zero _ => v
  | .fin a m e, .fin b n g =>
    let q := min e g
    let x : Int := (m * 2 ^ (e - q).toNat : Nat)
    let y : Int := (n * 2 ^ (g - q).toNat : Nat)
    Num.ofInt ((if a then -x else x) + (if b then -y else y)) q

def Num.sub (a b : Num) : Num := a.add b.neg

/-- `v × 2^k`. -/
def Num.scale (v : Num) (k : Int) : Num :=
  match v with
  | .fin b m e => .fin b m (e + k)
  | v => v

/-- `a < b`; false when either is NaN. -/
def Num.lt : Num → Num → Bool
  | .nan, _ => false
  | _, .nan => false
  | a, b =>
    match a.sub b with
    | .fin neg _ _ => neg
    | .inf neg => neg
    | .nan => match a, b with
      | .inf x, .inf y => x && !y
      | _, _ => false
    | .zero _ => false

/-- Whether two values are the same number. -/
def Num.eqv (a b : Num) : Bool :=
  match a, b with
  | .nan, _ => false
  | _, .nan => false
  | .inf x, .inf y => x == y
  | .inf _, _ => false
  | _, .inf _ => false
  | a, b => (a.sub b).isZero

/-- The larger of two values; NaN when either is NaN. -/
def Num.max (a b : Num) : Num :=
  match a, b with
  | .nan, _ => .nan
  | _, .nan => .nan
  | a, b => if a.lt b then b else a

def Num.min (a b : Num) : Num :=
  match a, b with
  | .nan, _ => .nan
  | _, .nan => .nan
  | a, b => if b.lt a then b else a

/-- A quotient good enough for one correct rounding to at most 24 bits: 64 quotient bits and a sticky bit below them. -/
def Num.div : Num → Num → Num
  | .nan, _ => .nan
  | _, .nan => .nan
  | .inf _, .inf _ => .nan
  | .inf a, b => .inf (a != b.isNeg)
  | a, .inf b => .zero (a.isNeg != b)
  | .zero _, .zero _ => .nan
  | .zero a, b => .zero (a != b.isNeg)
  | a, .zero b => .inf (a.isNeg != b)
  | .fin a m e, .fin b n g =>
    let k := 64 + Nat.log2 n + 1
    let q := m * 2 ^ k / n
    let s := if m * 2 ^ k % n = 0 then 0 else 1
    .fin (a != b) (2 * q + s) (e - g - k - 1)

/-- Integer square root by bits from `k` down; structural, so that it evaluates. -/
def isqrtBits (n : Nat) : Nat → Nat → Nat
  | 0, r => r
  | k + 1, r =>
    let c := r + 2 ^ k
    isqrtBits n k (if c * c ≤ n then c else r)

def isqrt (n : Nat) : Nat := isqrtBits n (Nat.log2 n / 2 + 1) 0

/-- A square root good enough for one correct rounding to at most 24 bits. -/
def Num.sqrt : Num → Num
  | .nan => .nan
  | .zero b => .zero b
  | .inf false => .inf false
  | .inf true => .nan
  | .fin true _ _ => .nan
  | .fin false m e =>
    let odd := e % 2 = 1
    let m' := if odd then 2 * m else m
    let e' := if odd then e - 1 else e
    let n := m' * 2 ^ 128
    let r := isqrt n
    .fin false (2 * r + (if r * r = n then 0 else 1)) (e' / 2 - 64 - 1)

/-! ## FP32 -/

/-- The value of an FP32 word, and the RNE rounding of a value to FP32 under IEEE overflow. -/
def f32 (w : Nat) : Num := fp32.decode w
def toF32 (v : Num) : Nat := fp32.encode .rne true v

def f32Add (a b : Nat) : Nat := toF32 ((f32 a).add (f32 b))
def f32Sub (a b : Nat) : Nat := toF32 ((f32 a).sub (f32 b))
def f32Mul (a b : Nat) : Nat := toF32 ((f32 a).mul (f32 b))
def f32Fma (a b c : Nat) : Nat := toF32 (((f32 a).mul (f32 b)).add (f32 c))
def f32Div (a b : Nat) : Nat := toF32 ((f32 a).div (f32 b))
def f32Sqrt (a : Nat) : Nat := toF32 (f32 a).sqrt
def f32Neg (a : Nat) : Nat := toF32 (f32 a).neg
def f32Abs (a : Nat) : Nat := toF32 (f32 a).abs
def f32Nan : Nat := 0x7FC00000
def f32One : Nat := 0x3F800000
def f32OfNat (n : Nat) : Nat := toF32 (Num.ofInt n 0)

end Sys2Proof.Machine

namespace Sys2Proof

open Machine

/-! ## Element formats -/

/-- The code of a format (R31). -/
def Fmt.code : Fmt → Nat
  | .fp32 => 0x01 | .bf16 => 0x02 | .fp16 => 0x03 | .f8e4 => 0x10 | .f8e5 => 0x11 | .mxf8e4 => 0x20 | .mxf8e5 => 0x21
  | .mxf6e3 => 0x22 | .mxf6e2 => 0x23 | .mxf4 => 0x24 | .mxint8 => 0x25 | .fp32x2 => 0x40

/-- Bits of an element (R31). -/
def Fmt.bits : Fmt → Nat
  | .fp32 => 32 | .bf16 => 16 | .fp16 => 16 | .f8e4 => 8 | .f8e5 => 8 | .mxf8e4 => 8 | .mxf8e5 => 8 | .mxf6e3 => 6
  | .mxf6e2 => 6 | .mxf4 => 4 | .mxint8 => 8 | .fp32x2 => 64

/-- Whether elements share an E8M0 scale per 32 (R31). -/
def Fmt.isMx : Fmt → Bool
  | .mxf8e4 | .mxf8e5 | .mxf6e3 | .mxf6e2 | .mxf4 | .mxint8 => true
  | _ => false

def Fmt.isF8 : Fmt → Bool
  | .f8e4 | .f8e5 => true
  | _ => false

def Fmt.is16 : Fmt → Bool
  | .bf16 | .fp16 => true
  | _ => false

/-- The scalar encoding of an element; MXINT8 has none. -/
def Fmt.scalar : Fmt → Option Scalar
  | .fp32 | .fp32x2 => some Machine.fp32
  | .bf16 => some Machine.bf16
  | .fp16 => some Machine.fp16
  | .f8e4 | .mxf8e4 => some e4m3
  | .f8e5 | .mxf8e5 => some e5m2
  | .mxf6e3 => some e3m2
  | .mxf6e2 => some e2m3
  | .mxf4 => some e2m1
  | .mxint8 => none

/-- The stored element's own value, without any scale (R37, R38). -/
def Fmt.elem (f : Fmt) (w : Nat) : Machine.Num :=
  match f.scalar with
  | some sc => sc.decode w
  | none => let n : Int := if 128 ≤ w % 256 then (w % 256 : Nat) - 256 else (w % 256 : Nat)
    Machine.Num.ofInt n (-6)

/-- emax of the scale computation (R37). -/
def Fmt.emax : Fmt → Int
  | .mxf8e4 => 8 | .mxf8e5 => 15 | .mxf6e3 => 4 | .mxf6e2 => 2 | .mxf4 => 2 | _ => 0

end Sys2Proof

namespace Sys2Proof.Machine

open Sys2Proof

/-- The format that a descriptor or a parameter names (R31); FP32X2 is rejected in it like a reserved code (R32). -/
def fmtOf (c : Nat) : Option Fmt :=
  [Fmt.fp32, .bf16, .fp16, .f8e4, .f8e5, .mxf8e4, .mxf8e5, .mxf6e3, .mxf6e2, .mxf4, .mxint8].find? fun f => f.code == c

/-- The value of an E8M0 byte times an element's value (R36, R37). -/
def mxValue (f : Fmt) (scale w : Nat) : Num :=
  if scale % 256 = 255 then .nan else (f.elem w).scale ((scale % 256 : Nat) - 127)

/-- One MX element rounded into its format, saturating (R38, R43). -/
def mxElem (f : Fmt) (mode : Rnd) (v : Num) : Nat :=
  match f.scalar with
  | some sc => sc.encode mode false v
  | none =>
    match v with
    | .fin neg m e =>
      let n := satAt 127 (roundTo mode m e (-6)).1
      if neg then (256 - n) % 256 else n
    | _ => 0

/-- The largest magnitude of a list of finite values: significand and exponent, none when all are zero. -/
def maxMagOf (vs : List Num) : Option (Nat × Int) :=
  vs.foldl (fun a v => match v, a with
    | .fin _ m e, none => some (m, e)
    | .fin _ m e, some (n, g) => if Num.lt (.fin false n g) (.fin false m e) then some (m, e) else some (n, g)
    | _, a => a) none

/-- The scale exponent and scale byte of a block (R45 steps 1 to 3), or none when a value is NaN or infinite (R46). -/
def mxScale (f : Fmt) (vs : List Num) : Option (Int × Nat) :=
  if vs.any (fun v => !v.isFinite) then none
  else match maxMagOf vs with
    | none => some (0, 0x7F)
    | some (m, e) =>
      let k := Int.toNat (Max.max (-127) (Min.min 127 (floorLog2 m e - f.emax)) + 127)
      some ((k : Int) - 127, k)

/-- A block written from its values: scale byte and elements (R45, R46). `us` are the elements' random values under SR. -/
def mxBlock (f : Fmt) (sr : Bool) (us : List Nat) (vs : List Num) : Nat × List Nat :=
  match mxScale f vs with
  | none => (255, vs.map fun _ => 0)
  | some (k, byte) =>
    (byte, (vs.zip (List.range vs.length)).map fun (v, i) =>
      mxElem f (if sr then .sr (us.getD i 0) else .rne) (v.scale (-k)))

/-- Conversion to a plain format (R42 to R44). -/
def encodeTo (f : Fmt) (mode : Rnd) (ieee : Bool) (v : Num) : Nat :=
  match f.scalar with
  | some sc => sc.encode mode ieee v
  | none => mxElem f mode v

/-! ## Philox-4×32-10 (R48) -/

/-- One round on counter words and key words. -/
def philoxRound (c : Nat × Nat × Nat × Nat) (k : Nat × Nat) : Nat × Nat × Nat × Nat :=
  let p0 := 0xD2511F53 * c.1
  let p1 := 0xCD9E8D57 * c.2.2.1
  (p1 / 2 ^ 32 ^^^ c.2.1 ^^^ k.1, p1 % 2 ^ 32, p0 / 2 ^ 32 ^^^ c.2.2.2 ^^^ k.2, p0 % 2 ^ 32)

/-- `n` rounds, the key advancing before each round but the first. -/
def philoxRounds : Nat → Nat × Nat × Nat × Nat → Nat × Nat → Nat × Nat × Nat × Nat
  | 0, c, _ => c
  | n + 1, c, k => philoxRounds n (philoxRound c k) ((k.1 + 0x9E3779B9) % 2 ^ 32, (k.2 + 0xBB67AE85) % 2 ^ 32)

/-- The four output words for a 64-bit key and a 128-bit counter, least significant word first. -/
def philox (key ctr : Nat) : Nat × Nat × Nat × Nat :=
  philoxRounds 10 (field ctr 0 32, field ctr 32 32, field ctr 64 32, field ctr 96 32) (field key 0 32, field key 32 32)

/-- The 16-bit random value of the element with index `n` (R48). -/
def srValue (key stream epoch n : Nat) : Nat :=
  let w := philox key (stream % 2 ^ 32 * 2 ^ 96 + epoch % 2 ^ 32 * 2 ^ 64 + n / 8)
  let word := match n % 8 / 2 with
    | 0 => w.1 | 1 => w.2.1 | 2 => w.2.2.1 | _ => w.2.2.2
  field word (16 * (n % 2)) 16

end Sys2Proof.Machine
end

