-- ==== Sys2Proof/Machine/Burin.lean ====
section
/-! DEFINITION. The arithmetic of a bite: windows, special flags, replay, margin checks and promotion (R86 to R103). -/

namespace Sys2Proof.Machine

open Sys2Proof

/-- The exponent of the element granularity of an MX format (R90). -/
def Fmt.gran : Fmt → Int
  | .mxf4 => -1 | .mxf6e2 => -3 | .mxf6e3 => -4 | .mxint8 => -6 | .mxf8e4 => -9 | .mxf8e5 => -16 | _ => 0

/-- The groups of operands that pair (R40). -/
def pairable (a b : Fmt) : Bool := (a.isMx && b.isMx) || (a.isF8 && b.isF8) || (a.is16 && b.is16)

/-- The window width W of an operand pair (R89). -/
def windowWidth (a b : Fmt) : Nat :=
  if a.isMx && b.isMx then
    if a == .mxf8e5 || b == .mxf8e5 then 80 else if a == .mxf8e4 || b == .mxf8e4 then 56 else 48
  else 80

/-- A window: the weight exponent B of its least significant bit, its top exponent T and whether it is exact (R89). -/
structure Win where
  b : Int
  t : Int
  exact : Bool
deriving DecidableEq, Repr, Inhabited

/-- The weight exponent of the register's lowest bit: B, or B − 5 with the sub-window bits (R91). -/
def Win.unit (w : Win) : Int := if w.exact then w.b else w.b - 5

/-- The exact window of an MX pair (R90). -/
def Win.mx (a b : Fmt) : Win :=
  let lo := Fmt.gran a + Fmt.gran b
  ⟨lo, lo + windowWidth a b - 2, true⟩

/-- The aligned window with top exponent `t` (R92, R94). -/
def Win.aligned (t : Int) : Win := ⟨t - 78, t, false⟩

/-- The window of a bite's first pass: by the formats, or by the predicted exponent with a guard of 4 (R90, R92). -/
def Win.first (a b : Fmt) (p : Int) : Win := if a.isMx && b.isMx then Win.mx a b else Win.aligned (p + 4)

/-- A cell's bite: register value in units of the window, sticky bit, the special flags and the largest product exponent. -/
structure Bite where
  sum : Int
  sticky : Bool
  nan : Bool
  pinf : Bool
  ninf : Bool
  top : Option Int
  ovf : Bool
deriving DecidableEq, Repr, Inhabited

def Bite.zero : Bite := ⟨0, false, false, false, false, none, false⟩

/-- Whether the cell holds a special flag (R93). -/
def Bite.special (c : Bite) : Bool := c.nan || c.pinf || c.ninf

def maxOpt (a : Option Int) (b : Int) : Option Int :=
  match a with
  | none => some b
  | some x => some (max x b)

/-- One product into a bite register (R91, R93, R94). -/
def Bite.step (w : Win) (c : Bite) (p : Num) : Bite :=
  match p with
  | .nan => { c with nan := true }
  | .inf false => { c with pinf := true }
  | .inf true => { c with ninf := true }
  | .zero _ => c
  | .fin neg m e =>
    let u := w.unit
    let k := if u ≤ e then m * 2 ^ (e - u).toNat else m / 2 ^ (u - e).toNat
    let lost := decide (e < u) && decide (m % 2 ^ (u - e).toNat ≠ 0)
    let s := c.sum + (if neg then -(k : Int) else k)
    let ovf := !w.exact && (decide (w.t < floorLog2 m e) || decide (2 ^ (w.t + 1 - u).toNat ≤ s.natAbs))
    { c with sum := s, sticky := c.sticky || lost, top := maxOpt c.top (floorLog2 m e), ovf := c.ovf || ovf }

/-- A product with the product sign applied (R66). -/
def signedProduct (neg : Bool) (a b : Num) : Num := if neg then (a.mul b).neg else a.mul b

/-- A cell over the steps of a bite. `inj` replaces the product of one step by what a faulty multiplier delivers; the flags
come from the operands alone (R93). -/
def Bite.run (w : Win) (neg : Bool) (inj : Option (Nat × Num)) (steps : List (Num × Num)) : Bite :=
  ((steps.zip (List.range steps.length)).foldl (fun c s =>
    let p := signedProduct neg s.1.1 s.1.2
    let p := match inj with
      | some (t, v) => if t = s.2 && (p.isFinite) then (if neg then v.neg else v) else p
      | none => p
    c.step w p) Bite.zero)

/-- The operands of a bite: decoded vectors of each step, as the ports deliver them, with absent positions cut off (R83). -/
structure BiteIn where
  fa : Fmt
  fb : Fmt
  neg : Bool
  steps : List (List Num × List Num)
deriving DecidableEq, Repr, Inhabited

def BiteIn.rows (b : BiteIn) : Nat := ((b.steps.head?).map fun s => s.1.length).getD 0
def BiteIn.cols (b : BiteIn) : Nat := ((b.steps.head?).map fun s => s.2.length).getD 0

/-- The element pairs that cell (i, j) multiplies. -/
def BiteIn.cell (b : BiteIn) (i j : Nat) : List (Num × Num) :=
  b.steps.map fun s => (s.1.getD i (.zero false), s.2.getD j (.zero false))

/-- The fault that is present on a pass (R426). -/
def faultOn (f : Option ArrayFault) (pass i j : Nat) : Option (Nat × Num) :=
  match f with
  | some f => if (f.persistent || pass == 0) && f.site == .product && f.row == i && f.col == j then
      some (f.step, Num.ofInt f.mant f.expo) else none
  | none => none

/-- One pass of the array over a bite: rows of cells. -/
def BiteIn.pass (b : BiteIn) (w : Win) (f : Option ArrayFault) (pass : Nat) : List (List Bite) :=
  (List.range b.rows).map fun i => (List.range b.cols).map fun j => Bite.run w b.neg (faultOn f pass i j) (b.cell i j)

/-- The largest product exponent E of a pass, and whether any cell overflowed (R92, R94). -/
def passTop (cells : List (List Bite)) : Option Int :=
  cells.foldl (fun a r => r.foldl (fun a c => match c.top with
    | some e => maxOpt a e
    | none => a) a) none
def passOvf (cells : List (List Bite)) : Bool := cells.any fun r => r.any fun c => c.ovf

/-- The exact sum of the finite elements of a vector (R98). -/
def sigma (v : List Num) : Num := v.foldl (fun a x => if x.isFinite then a.add x else a) (.zero false)

/-- Σ_t x_t × y_t with the product sign: a margin cell (R98). -/
def marginCell (neg : Bool) (xs : List (Num × Num)) : Num :=
  xs.foldl (fun a s => if s.1.isFinite then a.add (signedProduct neg s.1 s.2) else a) (.zero false)

/-- What a fault adds at a site on a pass (R102). -/
def ArrayFault.extra (f : Option ArrayFault) (pass : Nat) (hit : ArrayFault → Bool) : Num :=
  match f with
  | some f => if (f.persistent || pass == 0) && hit f then Num.ofInt f.mant f.expo else .zero false
  | none => .zero false

/-- The lane sums of a bite with the fault of a lane (R98, R102). -/
def laneSums (f : Option ArrayFault) (pass : Nat) (site : FaultSite) (vs : List (List Num)) : List Num :=
  (vs.zip (List.range vs.length)).map fun e => (sigma e.1).add (ArrayFault.extra f pass fun f => f.site == site && f.step == e.2)

/-- The margin cells of row `i` and of column `j` (R98, R102). -/
def BiteIn.rowMargin (b : BiteIn) (f : Option ArrayFault) (pass i : Nat) : Num :=
  (marginCell b.neg ((b.steps.map fun s => s.1.getD i (.zero false)).zip (laneSums f pass .rowLane (b.steps.map fun s => s.2)))).add
    (ArrayFault.extra f pass fun f => f.site == .rowMargin && f.row == i)
def BiteIn.colMargin (b : BiteIn) (f : Option ArrayFault) (pass j : Nat) : Num :=
  (marginCell b.neg ((b.steps.map fun s => s.2.getD j (.zero false)).zip (laneSums f pass .colLane (b.steps.map fun s => s.1)))).add
    (ArrayFault.extra f pass fun f => f.site == .colMargin && f.col == j)

/-- Whether a margin check passes: equal, or within 256 × 2^B in an aligned window (R99). -/
def marginOk (w : Win) (sum : Int) (m : Num) : Bool :=
  let d := (Num.ofInt sum w.unit).sub m
  match d with
  | .zero _ => true
  | .fin _ x e => !w.exact && !(Num.lt (.fin false 256 w.b) (.fin false x e))
  | _ => false

/-- The failing rows of a pass (R98, R99): rows without a special flag whose check fails, and rows in which duplicated flags
disagree. -/
def failRows (b : BiteIn) (w : Win) (f : Option ArrayFault) (pass : Nat) (cells : List (List Bite)) : List Nat :=
  (List.range b.rows).filter fun i =>
    let r := cells.getD i []
    let flagBad := match f with
      | some f => f.site == .flagCopy && (f.persistent || pass == 0) && f.row == i && f.col < b.cols
      | none => false
    if r.any Bite.special then flagBad
    else flagBad || !marginOk w (r.foldl (fun a c => a + c.sum) 0)
      (b.rowMargin f pass i)

/-- The failing columns of a pass (R98, R99). -/
def failCols (b : BiteIn) (w : Win) (f : Option ArrayFault) (pass : Nat) (cells : List (List Bite)) : List Nat :=
  (List.range b.cols).filter fun j =>
    let col := cells.map fun r => r.getD j Bite.zero
    let flagBad := match f with
      | some f => f.site == .flagCopy && (f.persistent || pass == 0) && f.col == j && f.row < b.rows
      | none => false
    if col.any Bite.special then flagBad
    else flagBad || !marginOk w (col.foldl (fun a c => a + c.sum) 0)
      (b.colMargin f pass j)

/-- How the decision on a bite ends: the cells to promote in their window, or the failing rows and columns (R100, R101). -/
inductive Decision where
  | promote (w : Win) (cells : List (List Bite)) (top : Option Int)
  | fail (rows cols : List Nat)
deriving DecidableEq, Repr, Inhabited

/-- A decision with the passes run, the window replays and the margin replays among them. -/
structure Decided where
  d : Decision
  passes : Nat
  replays : Nat
  margins : Nat
deriving DecidableEq, Repr, Inhabited

/-- The passes of a bite: at most 8 window replays and one margin replay (R94, R100). -/
def BiteIn.decideFrom (b : BiteIn) (f : Option ArrayFault) : Nat → Win → Nat → Nat → Nat → Decided
  | 0, _, pass, rep, mar => ⟨.fail [] [], pass, rep, mar⟩
  | fuel + 1, w, pass, rep, mar =>
    let cells := b.pass w f pass
    if passOvf cells then
      if mar = 1 ∨ rep = 8 then ⟨.fail [] [], pass + 1, rep, mar⟩
      else
        let t := max (w.t + 16) ((passTop cells).getD 0 + 9)
        b.decideFrom f fuel (Win.aligned t) (pass + 1) (rep + 1) mar
    else
      let rs := failRows b w f pass cells
      let cs := failCols b w f pass cells
      if rs.isEmpty && cs.isEmpty then ⟨.promote w cells (passTop cells), pass + 1, rep, mar⟩
      else if mar = 1 then ⟨.fail rs cs, pass + 1, rep, mar⟩
      else b.decideFrom f fuel w (pass + 1) rep (mar + 1)

/-- ⌊log2⌋ of the largest non-zero finite element of a vector (R92). -/
def vecTop (v : List Num) : Option Int :=
  v.foldl (fun a x => match x with
    | .fin _ m e => maxOpt a (floorLog2 m e)
    | _ => a) none

/-- The predicted exponent of a first bite (R92). -/
def firstPred (b : BiteIn) : Int :=
  match b.steps.head? with
  | none => 0
  | some s => match vecTop s.1, vecTop s.2 with
    | some x, some y => x + y
    | _, _ => 0

/-- The decision on a bite into a plate whose predicted exponent is `p` (R87 to R100). -/
def BiteIn.decide (b : BiteIn) (f : Option ArrayFault) (p : Option Int) : Decided :=
  b.decideFrom f 10 (Win.first b.fa b.fb (p.getD (firstPred b))) 0 0 0

/-- The predicted exponent after a promoted bite (R92). -/
def predAfter (p : Option Int) (first : Int) (top : Option Int) : Option Int :=
  match top with
  | some e => some e
  | none => some (p.getD first)

/-- The value that promotion adds: the register with its sticky bit, times the block-scale product (R96). -/
def Bite.value (w : Win) (s : Int) (c : Bite) : Num :=
  if c.sticky && c.sum ≠ 0 then Num.ofInt (2 * c.sum + (if c.sum < 0 then -1 else 1)) (w.unit - 1 + s)
  else Num.ofInt c.sum (w.unit + s)

/-- What a cell adds to its plate word: its value, an infinity or NaN (R93, R96). -/
def Bite.addend (w : Win) (s : Int) (c : Bite) : Num :=
  if c.nan || (c.pinf && c.ninf) then .nan
  else if c.pinf then .inf false
  else if c.ninf then .inf true
  else c.value w s

/-- Promotion into a single word (R96). -/
def promoteWord (w : Win) (s : Int) (c : Bite) (word : Nat) : Nat :=
  if c.sum = 0 && !c.special then word else toF32 ((f32 word).add (c.addend w s))

/-- Promotion into a double-word pair (R97). -/
def promotePair (w : Win) (s : Int) (c : Bite) (hi lo : Nat) : Nat × Nat :=
  if c.sum = 0 && !c.special then (hi, lo)
  else
    let sum := ((f32 hi).add (f32 lo)).add (c.addend w s)
    let hi' := toF32 sum
    if (f32 hi').isFinite then (hi', toF32 (sum.sub (f32 hi'))) else (hi', 0)

/-- C-cycles of `n` update steps in an operand pair (R25, R173). -/
def stepCycles (a b : Fmt) (n : Nat) : Nat :=
  if a.is16 || b.is16 then 2 * n
  else if a == .mxf4 && b == .mxf4 then (n + 1) / 2 else n

/-! ## The Stylus path (R80, R104) -/

/-- One dot-product lane over a run of at most 32 elements: a bite of one cell without margins, with window replays. -/
def laneDecide (fw fv : Fmt) (steps : List (Num × Num)) : Nat → Win → Nat → Option (Win × Bite) × Nat
  | 0, _, rep => (none, rep)
  | fuel + 1, w, rep =>
    let c := Bite.run w false none steps
    if c.ovf then
      if rep = 8 then (none, rep)
      else laneDecide fw fv steps fuel (Win.aligned (max (w.t + 16) (c.top.getD 0 + 9))) (rep + 1)
    else (some (w, c), rep)

end Sys2Proof.Machine
end

