-- ==== Sys2Proof/Config.lean ====
section
/-! DEFINITION. What the specification leaves open or leaves to other standards: constants without a value. A claim that holds
of this model holds for every value of them. Numbers stand for FP32 words and for keys and digests. -/

namespace Sys2Proof.Config

/-- Device time that passes before the `n`-th reading of it (the specification gives no duration to a command). -/
opaque elapsedNs : Nat → Nat

/-- A byte whose content is private to the device generation (R328, R382, R463), by region code and offset. -/
opaque privateByte : Nat → Nat → BitVec 8

/-- A free choice of the device, by the number of the draw. -/
opaque freeNat : Nat → Nat

/-- The largest read request of the PCIe link (R227), as the code of a size of 128 bytes times a power of two. -/
opaque maxReadCode : Nat

/-- The table line of the device region that a page walk reads (R223), in 64-byte lines from its start: context, virtual address in
units of 64 KiB, level. -/
opaque tableLine : Nat → Nat → Nat → Nat

/-- Page-table entries that still fit in the device region (R221): its size in 2 MiB units, pages mapped so far. -/
opaque mapRoom : Nat → Nat → Nat

/-- The unpublished algorithm of R117: function code, derivative or not, FP32 input; an FP32 word. -/
opaque actBits : Nat → Bool → Nat → Nat

/-- The sign of a zero limit of a derivative at an infinite input, which R117 does not give. -/
opaque limitSign : Nat → Bool

/-- FP32 words of ln x at and below zero, where the specification gives no result (R131). -/
opaque logBits : Nat → Nat

/-- The scale exponent, plus 126, that a commit gives a record whose format byte is neither E4M3 nor E5M2, for which R53 states no
fmt_max: format byte, history maximum. -/
opaque mxCommitExp : Nat → Nat → Nat

/-- Where in the scratchpad an optimizer finds the clip factor c of R133, which its descriptor does not name: param block. -/
opaque clipAddr : Nat → Nat

/-- Whether the non-finite clip factor that an infinite norm gives is NaN; otherwise it is +∞ (R133). -/
opaque clipNan : Bool

/-- The overflow mode of GRAD_GATHER, whose descriptor names none (R43, R150). -/
opaque gatherIeee : Bool

/-- A stage of the tile former or of the audio path computed with unpublished coefficients (R310, R322): stage, operands. -/
opaque mediaValue : Nat → List Nat → Nat

/-- The decoding process of a video codec's standard, with the choices that R305 leaves to the decoder: codec as es_codec numbers it (0
where it is not signalled), access units. -/
opaque decodeVideo : Nat → List MediaUnit → Video

/-- The decoding process of an audio standard (R302): stream type (0 where it is not signalled), access units. -/
opaque decodeAudio : Nat → List MediaUnit → List AudioFrame

/-- The rendering of DVB subtitles by EN 300 743 (R302). -/
opaque renderSubtitles : List MediaUnit → List SubtitleSet

/-- The random number that an ECDSA signature takes: private key, digest. The specification does not say how it is drawn (R402). -/
opaque ecdsaNonce : Nat → Nat → Nat

/-- The `n`-th draw of the deterministic random bit generator (R402, R406, R415). -/
opaque drbg : Nat → Nat

/-- Keys that a part is born with, by key code (R399), and the certificate chain and other DER material. -/
opaque fusedKey : Nat → Nat
opaque derBytes : Nat → List (BitVec 8)

/-- Bytes of an SPDM message body that the SPDM standard and not the specification lays out: request code, inputs. -/
opaque spdmBody : Nat → List Nat → List (BitVec 8)

/-- The public key of a firmware signer certificate that chains to the Kenhal root; none where it does not (R418). -/
opaque signerKey : List (BitVec 8) → Option (Nat × Nat)

/-- The fused target of a rail in mV, by its place in the order C0 to C7, B0 to B3, M0 to M3, E (R471). -/
opaque railTarget : Nat → Nat

/-- What a configuration register reads that the PCIe specification and not this one fixes: function, register, last value written. -/
opaque cfgValue : Nat → Nat → Option Nat → Nat

end Sys2Proof.Config
end

