-- ==== Sys2Proof/Machine/Crypto.lean ====
section
/-! DEFINITION. The algorithms that the specification names and other standards define: SHA-512, HMAC and HKDF with it (FIPS 180-4,
RFC 2104, RFC 5869), ECDSA and ECDH on P-521 (FIPS 186-5, SP 800-56A), and AES-256-GCM (FIPS 197, SP 800-38D). PRESUMED from those
standards (see the log). Keys, digests and nonces are numbers whose byte 0 is the first byte of the stored string (R8). -/

namespace Sys2Proof.Machine

open Sys2Proof

/-! ## SHA-512 -/

def rotr64 (x n : Nat) : Nat := (x >>> n ||| x <<< (64 - n)) % 2 ^ 64

/-- The initial hash value: 64 fraction bits of the square roots of the first 8 primes. -/
def shaInit : List Nat :=
  [0x6a09e667f3bcc908, 0xbb67ae8584caa73b, 0x3c6ef372fe94f82b, 0xa54ff53a5f1d36f1,
   0x510e527fade682d1, 0x9b05688c2b3e6c1f, 0x1f83d9abfb41bd6b, 0x5be0cd19137e2179]

/-- The round constants: 64 fraction bits of the cube roots of the first 80 primes. -/
def shaK : List Nat :=
  [0x428a2f98d728ae22, 0x7137449123ef65cd, 0xb5c0fbcfec4d3b2f, 0xe9b5dba58189dbbc,
   0x3956c25bf348b538, 0x59f111f1b605d019, 0x923f82a4af194f9b, 0xab1c5ed5da6d8118,
   0xd807aa98a3030242, 0x12835b0145706fbe, 0x243185be4ee4b28c, 0x550c7dc3d5ffb4e2,
   0x72be5d74f27b896f, 0x80deb1fe3b1696b1, 0x9bdc06a725c71235, 0xc19bf174cf692694,
   0xe49b69c19ef14ad2, 0xefbe4786384f25e3, 0x0fc19dc68b8cd5b5, 0x240ca1cc77ac9c65] ++
  [0x2de92c6f592b0275, 0x4a7484aa6ea6e483, 0x5cb0a9dcbd41fbd4, 0x76f988da831153b5,
   0x983e5152ee66dfab, 0xa831c66d2db43210, 0xb00327c898fb213f, 0xbf597fc7beef0ee4,
   0xc6e00bf33da88fc2, 0xd5a79147930aa725, 0x06ca6351e003826f, 0x142929670a0e6e70,
   0x27b70a8546d22ffc, 0x2e1b21385c26c926, 0x4d2c6dfc5ac42aed, 0x53380d139d95b3df,
   0x650a73548baf63de, 0x766a0abb3c77b2a8, 0x81c2c92e47edaee6, 0x92722c851482353b] ++
  [0xa2bfe8a14cf10364, 0xa81a664bbc423001, 0xc24b8b70d0f89791, 0xc76c51a30654be30,
   0xd192e819d6ef5218, 0xd69906245565a910, 0xf40e35855771202a, 0x106aa07032bbd1b8,
   0x19a4c116b8d2d0c8, 0x1e376c085141ab53, 0x2748774cdf8eeb99, 0x34b0bcb5e19b48a8,
   0x391c0cb3c5c95a63, 0x4ed8aa4ae3418acb, 0x5b9cca4f7763e373, 0x682e6ff3d6b2b8a3,
   0x748f82ee5defb2fc, 0x78a5636f43172f60, 0x84c87814a1f0ab72, 0x8cc702081a6439ec] ++
  [0x90befffa23631e28, 0xa4506cebde82bde9, 0xbef9a3f7b2c67915, 0xc67178f2e372532b,
   0xca273eceea26619c, 0xd186b8c721c0c207, 0xeada7dd6cde0eb1e, 0xf57d4f7fee6ed178,
   0x06f067aa72176fba, 0x0a637dc5a2c898a6, 0x113f9804bef90dae, 0x1b710b35131c471b,
   0x28db77f523047d84, 0x32caab7b40c72493, 0x3c9ebe0a15c9bebc, 0x431d67c49c100d4c,
   0x4cc5d4becb3e42b6, 0x597f299cfc657e2a, 0x5fcb6fab3ad6faec, 0x6c44198c4a475817]

/-- One round: the working variables and the window of the message schedule, with the round's constant. -/
def shaRound (k : Nat) (st : List Nat × List Nat) : List Nat × List Nat :=
  match st with
  | ([a, b, c, d, e, f, g, h], w0 :: w) =>
    let s1 := rotr64 e 14 ^^^ rotr64 e 18 ^^^ rotr64 e 41
    let ch := (e &&& f) ^^^ ((2 ^ 64 - 1 - e) &&& g)
    let t1 := h + s1 + ch + k + w0
    let s0 := rotr64 a 28 ^^^ rotr64 a 34 ^^^ rotr64 a 39
    let maj := (a &&& b) ^^^ (a &&& c) ^^^ (b &&& c)
    let w1 := w.getD 0 0
    let w14 := w.getD 13 0
    let next := (rotr64 w14 19 ^^^ rotr64 w14 61 ^^^ w14 >>> 6) + w.getD 8 0 + (rotr64 w1 1 ^^^ rotr64 w1 8 ^^^ w1 >>> 7) + w0
    ([(t1 + s0 + maj) % 2 ^ 64, a, b, c, (d + t1) % 2 ^ 64, e, f, g], w ++ [next % 2 ^ 64])
  | s => s

/-- A big-endian number of bytes, and the `n` bytes of a number in that order. -/
def beNat (bs : List Byte) : Nat := bs.foldl (fun a b => 256 * a + b.toNat) 0
def beBytes (n v : Nat) : List Byte := (leBytes n v).reverse

/-- The blocks of a padded message into the hash value. -/
def shaBlocks : Nat → List Byte → List Nat → List Nat
  | 0, _, h => h
  | n + 1, bs, h =>
    let w := (List.range 16).map fun i => beNat ((bs.drop (8 * i)).take 8)
    let v := (shaK.foldl (fun st k => shaRound k st) (h, w)).1
    shaBlocks n (bs.drop 128) ((h.zip v).map fun e => (e.1 + e.2) % 2 ^ 64)

/-- SHA-512: the 64 output bytes, and as a number with the first byte lowest. -/
def sha512Bytes (bs : List Byte) : List Byte :=
  let fill := (239 - bs.length % 128) % 128
  let msg := bs ++ [0x80] ++ List.replicate fill 0 ++ beBytes 16 (8 * bs.length)
  (shaBlocks (msg.length / 128) msg shaInit).flatMap (beBytes 8)
def sha512 (bs : List Byte) : Nat := leNat (sha512Bytes bs)

/-- HMAC-SHA-512. -/
def hmac512 (key msg : List Byte) : List Byte :=
  let k := padTo 128 (if 128 < key.length then sha512Bytes key else key)
  let pad := fun (v : Byte) => k.map fun b => b ^^^ v
  sha512Bytes (pad 0x5C ++ sha512Bytes (pad 0x36 ++ msg))

/-- HKDF with SHA-512: extract, then expand to `n` bytes. -/
def hkdfExpand (prk info : List Byte) : Nat → Nat → List Byte → List Byte
  | 0, _, _ => []
  | n + 1, i, last => let t := hmac512 prk (last ++ info ++ [BitVec.ofNat 8 i])
    t ++ hkdfExpand prk info n (i + 1) t
def hkdf512 (salt ikm info : List Byte) (n : Nat) : List Byte :=
  (hkdfExpand (hmac512 (if salt.isEmpty then List.replicate 64 0 else salt) ikm) info ((n + 63) / 64) 1 []).take n

/-! ## P-521 -/

/-- The prime field, the constant b, the group order and the base point of P-521. -/
def p521 : Nat :=
  0x1FFFFFFFFFFFFFFFFFFFFFFFFFFFFFFFFFFFFFFFFFFFFFFFFFFFFFFFFFFFFFFFFFFFFFFFFFFFFFFFFFFFFFFFFFFFFFFFFFFFFFFFFFFFFFFFFFFFFFFFFFFFFFFFFFF
def p521B : Nat :=
  0x0051953EB9618E1C9A1F929A21A0B68540EEA2DA725B99B315F3B8B489918EF109E156193951EC7E937B1652C0BD3BB1BF073573DF883D2C34F1EF451FD46B503F00
def p521N : Nat :=
  0x1FFFFFFFFFFFFFFFFFFFFFFFFFFFFFFFFFFFFFFFFFFFFFFFFFFFFFFFFFFFFFFFFFA51868783BF2F966B7FCC0148F709A5D03BB5C9B8899C47AEBB6FB71E91386409
def p521G : Nat × Nat :=
  (0x00C6858E06B70404E9CD9E3ECB662395B4429C648139053FB521F828AF606B4D3DBAA14B5E77EFE75928FE1DC127A2FFA8DE3348B3C1856A429BF97E7E31C2E5BD66,
   0x011839296A789A3BC0045C8A5FB42C7D1BD998F54449579B446817AFBD17273E662C97EE72995EF42640C550B9013FAD0761353C7086A272C24088BE94769FD16650)

/-- Whether a pair of numbers is a point of P-521: y² = x³ − 3x + b. -/
def onP521 (x y : Nat) : Bool := decide (x < p521) && decide (y < p521) && (y * y + 3 * x) % p521 == (x * x * x + p521B) % p521

/-- `b` to the power `e` modulo `m`, over the low `fuel` bits of `e`. -/
def powMod (m : Nat) : Nat → Nat → Nat → Nat
  | 0, _, _ => 1 % m
  | fuel + 1, b, e => let r := powMod m fuel (b * b % m) (e / 2)
    if e % 2 = 1 then b * r % m else r
/-- The inverse modulo a prime below 2^521. -/
def invMod (m a : Nat) : Nat := powMod m 521 (a % m) (m - 2)

/-- A point in Jacobian coordinates: (X / Z², Y / Z³); Z = 0 is the point at infinity. -/
abbrev Jac := Nat × Nat × Nat

def Jac.double (a : Jac) : Jac :=
  let (x, y, z) := a
  let sub := fun (a b : Nat) => (a + p521 - b % p521) % p521
  let delta := z * z % p521
  let gamma := y * y % p521
  let beta := x * gamma % p521
  let alpha := 3 * (sub x delta * ((x + delta) % p521)) % p521
  let x3 := sub (alpha * alpha) (8 * beta)
  (x3, sub (alpha * sub (4 * beta) x3) (8 * (gamma * gamma)), 2 * (y * z) % p521)

def Jac.add (a b : Jac) : Jac :=
  let (x1, y1, z1) := a
  let (x2, y2, z2) := b
  let sub := fun (a b : Nat) => (a + p521 - b % p521) % p521
  if z1 = 0 then b else if z2 = 0 then a
  else
    let s1 := y1 * (z2 * z2 % p521 * z2) % p521
    let s2 := y2 * (z1 * z1 % p521 * z1) % p521
    let u1 := x1 * (z2 * z2) % p521
    let h := sub (x2 * (z1 * z1)) u1
    let r := sub s2 s1
    if h = 0 then (if r = 0 then a.double else (1, 1, 0))
    else
      let hh := h * h % p521
      let v := u1 * hh % p521
      let x3 := sub (r * r) (h * hh + 2 * v)
      (x3, sub (r * sub v x3) (s1 * (h * hh % p521)), h * (z1 * z2) % p521)

/-- The multiple `k` of a point, over the low `fuel` bits of `k`. -/
def Jac.times : Nat → Nat → Jac → Jac
  | 0, _, _ => (1, 1, 0)
  | fuel + 1, k, a => let r := Jac.times fuel (k / 2) a.double
    if k % 2 = 1 then a.add r else r

/-- The affine coordinates; none for the point at infinity. -/
def Jac.affine (a : Jac) : Option (Nat × Nat) :=
  let (x, y, z) := a
  if z % p521 = 0 then none
  else
    let i := invMod p521 z
    some (x * (i * i) % p521, y * (i * i % p521 * i) % p521)

/-- The public point of a private key, and the x-coordinate shared with a point (R402, R406, R408). -/
def ecdhPublic (d : Nat) : Nat × Nat := ((Jac.times 521 (d % p521N) (p521G.1, p521G.2, 1)).affine).getD (0, 0)
def ecdhShared (d x y : Nat) : Nat := ((((Jac.times 521 (d % p521N) (x, y, 1)).affine).map fun q => q.1).getD 0)

/-- The integer that ECDSA signs for a digest: its bytes in big-endian order. -/
def digestInt (digest : Nat) : Nat := beNat (leBytes 64 digest)

/-- Whether an ECDSA P-521 signature (r, s) over a digest verifies under the key (x, y) (R157, R409, R418, R423). -/
def ecdsaOk (x y digest r s : Nat) : Bool :=
  onP521 x y && decide (0 < r) && decide (r < p521N) && decide (0 < s) && decide (s < p521N) &&
  (let w := invMod p521N s
   let p := (Jac.times 521 (digestInt digest * w % p521N) (p521G.1, p521G.2, 1)).add (Jac.times 521 (r * w % p521N) (x, y, 1))
   match p.affine with
   | some q => q.1 % p521N == r
   | none => false)

/-- The signature (r, s) that a private key makes over a digest. The number k that ECDSA draws afresh is a free value (R402). -/
def ecdsaSign (d digest : Nat) : Nat × Nat :=
  let k := Config.ecdsaNonce d digest % (p521N - 1) + 1
  let r := (ecdhPublic k).1 % p521N
  (r, invMod p521N k * (digestInt digest + r * d) % p521N)

/-! ## AES-256-GCM -/

/-- A product in GF(2^8) with the polynomial of AES. -/
def gf8 : Nat → Nat → Nat → Nat
  | 0, _, _ => 0
  | fuel + 1, a, b => (if b % 2 = 1 then a else 0) ^^^ gf8 fuel (if 128 ≤ a then (2 * a) % 256 ^^^ 0x1B else 2 * a) (b / 2)

/-- The S-box: the inverse a^254 in GF(2^8), then the affine map. -/
def aesSub (a : Nat) : Nat :=
  let m := gf8 8
  let a2 := m a a
  let a4 := m a2 a2
  let a8 := m a4 a4
  let a16 := m a8 a8
  let a32 := m a16 a16
  let a64 := m a32 a32
  let i := m (m a64 a64) (m a64 (m a32 (m a16 (m a8 (m a4 a2)))))
  let rot := fun (n : Nat) => (i * 2 ^ n + i / 2 ^ (8 - n)) % 256
  i ^^^ rot 1 ^^^ rot 2 ^^^ rot 3 ^^^ rot 4 ^^^ 0x63

def xors (a b : List Nat) : List Nat := (a.zip b).map fun e => e.1 ^^^ e.2

/-- The key schedule of AES-256: words of four bytes, newest first, until `n` more are made. -/
def aesExpand : Nat → Nat → Nat → List (List Nat) → List (List Nat)
  | 0, _, _, ws => ws
  | n + 1, i, rcon, ws =>
    let t := ws.headD []
    let t' := if i % 8 = 0 then xors ((t.drop 1 ++ t.take 1).map aesSub) [rcon, 0, 0, 0] else if i % 8 = 4 then t.map aesSub else t
    aesExpand n (i + 1) (if i % 8 = 0 then gf8 8 2 rcon else rcon) (xors (ws.getD 7 []) t' :: ws)

/-- The 15 round keys of 16 bytes. -/
def aesKeys (key : List Nat) : List (List Nat) :=
  let ws := (aesExpand 52 8 1 ((List.range 8).map fun i => (key.drop (4 * i)).take 4).reverse).reverse
  (List.range 15).map fun r => (List.range 4).flatMap fun i => ws.getD (4 * r + i) []

/-- The column mixing of a round. -/
def aesMix (s : List Nat) : List Nat :=
  (List.range 16).map fun i =>
    let at_ := fun k => s.getD (i / 4 * 4 + (i + k) % 4) 0
    gf8 8 (at_ 0) 2 ^^^ gf8 8 (at_ 1) 3 ^^^ at_ 2 ^^^ at_ 3

/-- A block of 16 bytes enciphered. -/
def aesBlock (keys : List (List Nat)) (b : List Nat) : List Nat :=
  let shift := fun (s : List Nat) => (List.range 16).map fun i => s.getD ((i + 4 * (i % 4)) % 16) 0
  let s := ((keys.drop 1).take 13).foldl (fun s k => xors (aesMix (shift (s.map aesSub))) k) (xors b (keys.headD []))
  xors (shift (s.map aesSub)) (keys.getD 14 [])

/-- A product in GF(2^128) as GHASH takes it, bit 0 of a block being its most significant. -/
def ghashMul : Nat → Nat → Nat → Nat
  | 0, _, _ => 0
  | n + 1, x, v => (if x / 2 ^ n % 2 = 1 then v else 0) ^^^ ghashMul n x (if v % 2 = 1 then v / 2 ^^^ 0xE1 * 2 ^ 120 else v / 2)

def toNats (bs : List Byte) : List Nat := bs.map BitVec.toNat
def toBytes (ns : List Nat) : List Byte := ns.map (BitVec.ofNat 8)

/-- GHASH over `n` blocks of data that is padded to whole blocks. -/
def ghash (h : Nat) : Nat → List Byte → Nat → Nat
  | 0, _, y => y
  | n + 1, bs, y => ghash h n (bs.drop 16) (ghashMul 128 (y ^^^ beNat (padTo 16 (bs.take 16))) h)

/-- Counter mode from counter block `i` on. -/
def gctr (keys : List (List Nat)) (nonce : List Nat) : Nat → Nat → List Byte → List Byte
  | 0, _, _ => []
  | n + 1, i, bs =>
    toBytes (xors (toNats (bs.take 16)) (aesBlock keys (nonce ++ toNats (beBytes 4 i)))) ++ gctr keys nonce n (i + 1) (bs.drop 16)

def blocks16 (bs : List Byte) : Nat := (bs.length + 15) / 16

/-- The tag over additional data and ciphertext. -/
def gcmTag (keys : List (List Nat)) (nonce : List Nat) (aad c : List Byte) : Nat :=
  let h := beNat (toBytes (aesBlock keys (List.replicate 16 0)))
  let y := ghash h (blocks16 c) c (ghash h (blocks16 aad) aad 0)
  let y := ghashMul 128 (y ^^^ (8 * aad.length * 2 ^ 64 + 8 * c.length)) h
  leNat (toBytes (xors (toNats (beBytes 16 y)) (aesBlock keys (nonce ++ [0, 0, 0, 1]))))

/-- AES-256-GCM with a nonce of 96 bits: the ciphertext and its tag, and the plaintext when the tag holds (R408, R410, R415). -/
def gcmSeal (key nonce : Nat) (aad data : List Byte) : List Byte × Nat :=
  let keys := aesKeys (toNats (leBytes 32 key))
  let iv := toNats (leBytes 12 nonce)
  let c := gctr keys iv (blocks16 data) 2 data
  (c, gcmTag keys iv aad c)
def gcmOpen (key nonce : Nat) (aad c : List Byte) (tag : Nat) : Option (List Byte) :=
  let keys := aesKeys (toNats (leBytes 32 key))
  let iv := toNats (leBytes 12 nonce)
  if gcmTag keys iv aad c = tag then some (gctr keys iv (blocks16 c) 2 c) else none

end Sys2Proof.Machine
end

