-- ==== Sys2Proof/Machine/FlowParts.lean ====
section
/-! DEFINITION. The state of the gradient exchange (R264 to R290), of ingest and decode (R291 to R319) and of the tile former
and reservoir (R320 to R339). -/

namespace Sys2Proof.Machine

open Sys2Proof

/-- An accepted bucket of a replica (R268). -/
structure SentBucket where
  id : Nat
  core : CoreId
  queue : QueueId
  op : Nat
  opTag : Word32
  sig : Option (Fin 64 × CoreId × Nat)
  pages : List Nat           -- the physical addresses of its 64 KiB steps in order: the pinned pages
  vaddr : Nat
deriving DecidableEq, Repr, Inhabited

/-- A bucket in reduction at a replica (R272, R273). -/
structure ActiveBucket where
  sent : SentBucket
  round : Nat
  landed : List (Nat × Word32)             -- units of the owned shard that have landed, with their sums of squares
  flags : Nat                              -- ring positions whose contribution to those units held a NaN or an infinity
  reducedNonfinite : Bool
  shards : List (Nat × Word32 × Nat × Bool) -- shard, sum of squares, replica flags, reduced_nonfinite, as received
deriving DecidableEq, Repr, Inhabited

/-- A replica of the ring map (R264, R270). -/
structure Replica where
  die : DieId
  queue : List SentBucket
  nextEnter : Nat
  nextDone : Nat
  round : Nat
  active : List ActiveBucket
  orFlags : Nat                            -- flag words of the completed buckets of the round (R275)
  orNonfinite : Bool
deriving DecidableEq, Repr, Inhabited

/-- A chain packet on its way to ring position `to_` (R272); `last` marks the reduced unit on its last hop. -/
structure Chain where
  bucket : Nat
  round : Nat
  unit : Nat
  to_ : Nat
  last : Bool
  flags : Nat                              -- ring positions whose contribution so far held a NaN or an infinity
  vals : List Word32                       -- FP32 sums, or encoded elements of the bucket format when last
  pkt : Option Nat                         -- the packet that carries it on the rings; none once it has come to the bed of its next position
deriving DecidableEq, Repr, Inhabited

/-- A shard sum of squares and flag word on its way to a replica (R273). -/
structure ShardMsg where
  bucket : Nat
  round : Nat
  shard : Nat
  to_ : Nat
  sumsq : Word32
  flags : Nat
  nonfin : Bool
deriving DecidableEq, Repr, Inhabited

/-- The cascade of a context (R284 to R288). -/
structure Cascade where
  cfg : CascadeConfigP
  counts : List Nat                        -- replicas per device, once known
  mapReceived : Bool
  broken : Bool
  roundStarted : Nat                       -- rounds that the master has started
  hbCount : Nat
  hbSeen : List (Nat × Nat)                -- device, last heartbeat count
  hbAt : List (Nat × Nat)                  -- device, time in ns of its last heartbeat
deriving DecidableEq, Repr, Inhabited

/-- The gradient state of a context (R283). -/
structure Grad where
  cfg : Option GradConfigP
  ring : Option RingMapP
  replicas : List Replica
  chains : List Chain
  shardMsgs : List ShardMsg
  waits : List (CoreId × Nat × List Nat)   -- BUCKET_SENDs that wait for a full queue: core, operation, pinned pages (R268)
  casc : Option Cascade
  pinReleased : List Bool                  -- per channel: this device has released its cascade pin (R287)
  pinSampled : List Bool                   -- per channel: the release has been sampled
deriving DecidableEq, Repr, Inhabited

/-- A format handle (R320). -/
abbrev Formats := List (Nat × TileFormatP)

/-- The states of a slot (R329). -/
inductive SlotState where
  | empty | filling (job : Nat) | filled
deriving DecidableEq, Repr, Inhabited

/-- The shuffle reservoir of a context (R327 to R336). Slots that are not listed are empty at the generation `base`. -/
structure Reservoir where
  cfg : ShuffleConfigP
  slots : Nat                              -- S
  gens : Sparse Nat                        -- generation of a slot
  sts : List (Nat × SlotState)             -- slots that are not empty
  pos : List Nat                           -- draw position of each lane
  voids : List (Nat × Nat)                 -- void table: ranges [a, b), rising
  want : List (Nat × Nat)                  -- lane, sequence number that a waiting draw wants
  early : List (Nat × Nat)                 -- slot, generation that a lane passed before the slot reached it
deriving DecidableEq, Repr, Inhabited

/-- An open ingest stream (R291). -/
structure Stream where
  ctx : CtxId
  p : IngestOpenP
  closing : Option CmdHdr                  -- an INGEST_CLOSE waits for its jobs (R295)
deriving DecidableEq, Repr, Inhabited

/-- An accepted feed (R294). -/
structure FeedRec where
  id : Nat
  hdr : CmdHdr
  ctx : CtxId
  p : IngestFeedP
  left : Nat                               -- jobs not yet ended
  statuses : List (Nat × Status)           -- program index, status
  output : Nat
deriving DecidableEq, Repr, Inhabited

/-- Where a job stands. -/
inductive JobSt where
  | queued
  | running
  | held (faultId addr : Nat) (then_ : Option (Status × Nat))   -- at a page fault, and the end it was at (R313)
  | ending (st : Status) (endCode : Nat)   -- waits for void-table space (R330)
deriving DecidableEq, Repr, Inhabited

/-- A clip being assembled: its index in the job and the sampled pictures so far with their metadata words (R321). -/
structure Clip where
  idx : Nat
  pics : List (Picture × Nat)
  ready : Bool                             -- every sampled picture is there
  slot : Option Nat                        -- filling
deriving DecidableEq, Repr, Inhabited

/-- What the demultiplexer makes of a segment for one program (R297 to R300): its elementary streams as access units, with what it
counts, each by the offset at which it was found. -/
structure Demux where
  codec : Nat
  video : List MediaUnit
  audio : List (Nat × List MediaUnit)      -- stream type and access units of each track
  teletext : List MediaUnit
  subtitles : List MediaUnit
  skipped : List Nat                       -- offsets of the bytes passed over while unlocked
  ccErrors : List Nat
  jumps : List Nat                         -- discontinuities (R299)
deriving DecidableEq, Repr, Inhabited

/-- A field of a decoded picture: 0 the even rows, 1 the odd ones, with the picture that it comes from. -/
structure HalfPicture where
  parity : Nat
  late : Bool                              -- it is the second field of its picture
  pic : CodedPicture
deriving DecidableEq, Repr, Inhabited

/-- What deinterlacing, field-order detection and pulldown removal keep between the pictures of a job (R307 to R309). -/
structure Weave where
  prev : Option CodedPicture               -- the interlaced picture just before
  prevTop : Bool                           -- the field order used for it
  hist : List Nat                          -- last 32 field pairs: 1 signalled order lower, 2 reverse order lower, 0 equal
  override : Bool
  bottomFirst : Bool                       -- field order last used
  fields : Nat                             -- fields seen
  reps : List Bool                         -- last 20 fields: whether each repeats the one two before it
  twins : List Bool                        -- last 20 fields: whether each shows the instant of the one before it
  lock : Option (Nat × Nat)                -- cadence, 1 3:2 or 2 2:2, and its phase
  half : Option HalfPicture                -- first field of a film frame that waits for the second
deriving DecidableEq, Repr, Inhabited

/-- An ingest job (R293, R294). `todo` are the pictures of its video still to be decoded, `ready` those that wait for the tile former,
and `aux` its auxiliary records with the offset of their source. -/
structure Job where
  id : Nat
  feed : Nat
  ctx : CtxId
  stream : Nat
  prog : Nat
  st : JobSt
  die : Option BedId
  engine : Nat
  slice : Nat                              -- work slice used (R292)
  demux : Option Demux
  todo : List CodedPicture
  ending : VideoEnd
  skippedPics : Nat
  aux : List (Nat × AuxRec)
  weave : Weave
  ready : List Picture
  jumps : List Nat                         -- discontinuities that no output picture has carried yet (R299)
  cadences : List Nat                      -- pictures output under each cadence (R309)
  pics : Nat                               -- pictures output
  concealedPics : Nat
  decoded : Nat
  samples : Nat                            -- decoded luma samples
  firstPts : Option Nat
  lastPts : Nat
  lastDur : Nat
  clips : List Clip
  clipsFilled : Nat
  bytesUsed : Nat
deriving DecidableEq, Repr, Inhabited

/-- One media die (R294, R315, R319). -/
structure MediaDie where
  out : List Nat                           -- engines out of service
  pictures : Nat                           -- pictures output, 48 bits
  masked : Nat                             -- masked reconstruction faults
  pending : List (CtxId × Nat)             -- engines under decision
deriving DecidableEq, Repr, Inhabited

/-- The media block of the device (R294, R319). -/
structure Media where
  streams : List Stream
  feeds : List FeedRec
  jobs : List Job
  nextId : Nat
  dies : Vector MediaDie 4
  jobErr : Bool
  auxDrop : Bool
  engineOut : Bool
  arriveLost : Bool
  lostArrivals : Nat
deriving DecidableEq, Repr, Inhabited

end Sys2Proof.Machine
end

