-- ==== Sys2Proof/Machine/HostParts.lean ====
section
/-! DEFINITION. The state of contexts (R374 to R396), of their address spaces (R218 to R235), of the synchronisation they own
(R182 to R200), of the tracing stack (R138 to R147) and of the host interface (R340 to R373). -/

namespace Sys2Proof.Machine

open Sys2Proof

/-- One mapped page (R218, R220). -/
structure Page where
  vaddr : Nat
  big : Bool
  far : Bool
  wr : Bool
  ns : Bool
  at_ : Bool
  target : Nat               -- a device physical address, or a PCIe address
deriving DecidableEq, Repr, Inhabited

/-- A producer-consumer channel with its occupancy (R187, R189). -/
structure Channel where
  full : Fin 64
  consumer : CoreId
  ack : Fin 64
  producer : CoreId
  depth : Nat
  occ : Nat
deriving DecidableEq, Repr, Inhabited

/-- A hatch line of a context (R190 to R193, R200). Participants 0 to 63 are cores, 64 to 67 media dies. -/
structure HatchLine where
  mask : Nat
  count : Nat
  gen : Bool
  arrived : List Nat
  held : List (Nat × Nat)    -- participant, generations ahead: re-entries held
  broken : Bool
  times : List (Nat × Nat)   -- arrival times of the current generation in ns
deriving DecidableEq, Repr, Inhabited

/-- An entry of a lane that the mirror holds: the payload's offset above the lane base, its size and layer, where its copy lies in the
mirror of that core, and the address of that mirror (R144). -/
structure Mirrored where
  off : Nat
  size : Nat
  layer : Nat
  pos : Nat
  base : Nat
deriving DecidableEq, Repr, Inhabited

/-- A lane of the tracing stack (R138 to R147). Payloads and tag records lie in HBM, mirrored payloads in the scratchpad too. -/
structure Lane where
  pay : Nat                  -- payload pointer, bytes above the lane base
  tags : Nat                 -- tag records on the lane
  seq : Nat                  -- pushes since the lane was last emptied
  mirror : List Mirrored     -- what the mirror holds, newest first
deriving DecidableEq, Repr, Inhabited

/-- A held fault (R225, R226). -/
inductive HeldBy where
  | op (c : CoreId) (q : QueueId) (opTag : Word32)
  | job (job : Nat)
deriving DecidableEq, Repr, Inhabited

structure HeldFault where
  id : Nat
  by_ : HeldBy
  status : Status
  vaddr : Nat
  answer : Option Bool       -- RESUME_FAULT given: false RETRY, true END; it takes effect when the context runs
deriving DecidableEq, Repr, Inhabited

/-- The program in progress of a context: its EXEC once its queues have started, which is the program flag (R160, R199, R253, R374). -/
structure Exec where
  hdr : CmdHdr
  coreMap : Nat
  footBase : Nat
  footSize : Nat
  mirrorBase : Nat
  mirrorSize : Nat
  raster : Option (List (Nat × List Nat)) -- flow, slot mask of each link
  rasterOn : Bool                         -- the raster is in effect: the program has issued, and no fence has stopped it (R253)
  interlock : Bool
  owners : List (Nat × List DieId)        -- counter key 64 × core + counter, dies that can signal it
  lost : List DieId                       -- compute dies fenced or reset since the program began (R199)
  stopSt : Option (Status × Nat)          -- status and progress word of the stop, once stopping
  cls : Nat                               -- class of the stop, 3 C, 4 D, 5 E
  nonfinite : Bool                        -- a bucket completed with a non-zero flag word (R277)
  faultId : Nat
  farStopped : Bool                       -- the stop in progress has cut a far-tier transfer short (R384, R391)
deriving DecidableEq, Repr, Inhabited

/-- The seal states of R406 to R411; an unsealed context has no `Seal`. -/
inductive SealSt where
  | sealing | sealed
deriving DecidableEq, Repr, Inhabited

structure Seal where
  st : SealSt
  ephemeral : Nat            -- the ephemeral private key, as drawn from the DRBG
  salt : Nat
  owner : Option (Nat × Nat) -- Q_o of the first image accepted
  kLoad : Nat
  kImp : Nat
  signX : Nat                -- the owner's signing key (R411)
  signY : Nat
  openBase : Nat
  openSize : Nat
  ideRequired : Bool
  restoreKey : Option Nat
deriving DecidableEq, Repr, Inhabited

/-- What the private program part of a save area holds (R382, R386). -/
structure Saved where
  infos : List (Nat × List PlateInfo)     -- by core
  queues : List (Nat × List Queue)
  stopped : List Nat                      -- cores stopped by STOP_AT or STOP_MARK
  trailing : List (Nat × List Trailing)
  xfers : List Xfer
  tiles : List (Nat × TileState)          -- adder index 3 × bed + controller
  hold : List (Nat × HeldTile)
deriving DecidableEq, Repr, Inhabited

/-- An event that waits in the backlog (R392), as its 64 bytes without the phase. -/
abbrev EventBytes := List Byte

/-- A context (R374). -/
structure Ctx where
  func : Nat
  vfSlot : Nat
  pasid : Option Nat
  srKey : Nat
  stackBase : Nat
  stackSize : Nat
  stackMask : Nat
  saveOff : Nat
  saveSize : Nat
  faulted : Bool
  exec : Option Exec
  lastFoot : Option (Nat × Nat)           -- saved range of the last program: base, size (R383)
  pages : List Page
  counters : Sparse Word32                -- keyed 64 × core + counter, default 0
  channels : List Channel
  lines : List (Nat × HatchLine)          -- configured lines
  lanes : List (Nat × Lane)               -- lanes that are not empty, by core
  stops : List (Nat × Nat)                -- STOP_AT counts, keyed 4 × core + queue
  grad : Grad
  partner : List (Nat × Nat)              -- mirror partner of a compute die (R448)
  formats : Formats
  shuffle : Option Reservoir
  held : List HeldFault
  sealing : Option Seal
  impCount : Nat                          -- impressions taken since CTX_CREATE (R447)
  saved : Option Saved
  savedRange : Option (Nat × Nat)         -- scratchpad range in the save area
  saveCount : Nat
  lastSaveUs : Nat
  lastSwitchUs : Nat
  runSince : Nat                          -- ns at the last switch-in
  runNs : Nat
  backlog : List EventBytes
  lost : Nat                              -- events dropped since the last EVENTS_LOST record
  lostTotal : Nat
  eventSeq : Nat
deriving DecidableEq, Repr, Inhabited

/-- The parts of a context that only matter while the host looks at them stay in it; quotas are kept for absent contexts too
(R231, R237). -/
abbrev Quotas := Sparse Nat

/-- A ring pair (R348 to R351). -/
structure Ring where
  sqLog : Nat
  cqLog : Nat
  sqHbm : Bool
  cqHbm : Bool
  vector : Nat
  irqEn : Bool
  sqBase : Nat
  cqBase : Nat
  sqHead : Nat
  sqTail : Nat
  cqHead : Nat               -- next entry that the host consumes
  cqTail : Nat               -- next entry that the device writes
  reserved : Nat             -- entries reserved and not written
  phase : Bool
  err : Bool
  closing : Option CmdHdr    -- a RING_CONFIG disable waits; no further fetch
  closingAdmin : Bool        -- ADMIN_CFG.ENABLE was cleared (R373)
  pins : List Nat            -- pinned virtual pages of an HBM ring
deriving DecidableEq, Repr, Inhabited

/-- An event ring (R360). -/
structure EventRing where
  log : Nat
  hbm : Bool
  vector : Nat
  irqEn : Bool
  base : Nat
  head : Nat
  tail : Nat
  phase : Bool
  err : Bool
  pins : List Nat
deriving DecidableEq, Repr, Inhabited

/-- A fetched command whose record has not been written (R350, R357). -/
structure Fetched where
  hdr : CmdHdr
  cmd : HostCmd
  started : Bool
deriving DecidableEq, Repr, Inhabited

/-- A BAR 4 window entry (R345). -/
structure Window where
  valid : Bool
  wr : Bool
  vaddr : Nat
  ctx : CtxId
deriving DecidableEq, Repr, Inhabited

/-- An entry of an MSI-X table: address, data, vector control (R369). -/
structure MsixEntry where
  addrLo : Word32
  addrHi : Word32
  data : Word32
  ctl : Word32
deriving DecidableEq, Repr, Inhabited

/-- What the device sends to the world beyond its lands. -/
inductive OutMsg where
  | hostWrite (func : Nat) (pasid : Option Nat) (addr : Nat) (bytes : List Byte) (relaxed : Bool)
  | hostRead (func : Nat) (pasid : Option Nat) (addr len : Nat)
  | farWrite (ctx : CtxId) (pasid : Option Nat) (addr : Nat) (bytes : List Byte) (ns at_ : Bool)
  | farRead (ctx : CtxId) (pasid : Option Nat) (addr len : Nat) (ns at_ : Bool)
  | farFlush (ctx : CtxId) (pasid : Option Nat) (addr : Nat)
  | peerWrite (ctx : CtxId) (dev : Nat) (what : CascMsg)
  | peerMap (ctx : CtxId) (dev : Nat) (counts : List Nat)
  | peerRound (ctx : CtxId) (dev round : Nat)
  | msix (func vec : Nat)
  | readReply (func : Nat) (bytes : List Byte)
  | unsupported (func : Nat)
  | completerAbort (func : Nat)
  | cfgReply (func : Nat) (value : Nat)
  | crs (func : Nat)
  | drs | frs (func : Nat)
  | aer
  | invalidateDone (func : Nat)
  | spdm (bytes : List Byte)
  | readoutBytes (bytes : List Byte)
  | i3cBytes (bytes : List Byte)
  | avs (rail : Rail) (mv : Nat)
deriving DecidableEq, Repr, Inhabited

/-- The host interface (R340 to R373). -/
structure HostIf where
  requested : Vector Nat 64
  agreed : Vector Nat 64
  drops : Vector Nat 64
  doorbellLast : Nat
  rings : List ((CtxId × Fin 64) × Ring)
  events : List (CtxId × EventRing)
  fetched : List Fetched
  windows : List ((Nat × Nat) × Window)   -- function and window index
  winSel : Nat
  winHi : Nat
  bar4Err : Nat
  bar4ErrOff : Nat
  intStatus : Nat
  intEnable : Nat
  intVector : Nat
  adminSq : Nat
  adminCq : Nat
  adminCfg : Nat
  ringErrLast : Nat
  msix : List ((Nat × Nat) × MsixEntry)
  msixPending : List (Nat × Nat)
  configReady : Bool
  operational : Bool
  updating : Bool
  vfEnable : Bool
  numVfs : Nat
  cfgRegs : List ((Nat × Nat) × Nat)      -- configuration registers that the host has written, by function
  barLog : Nat                            -- log2 of the size of BAR 4 of the PF
deriving DecidableEq, Repr, Inhabited

end Sys2Proof.Machine
end

