-- ==== Sys2Proof/Machine/State.lean ====
section
/-! DEFINITION. The state of the KB2516 as plain data, the reasons a step can stop, and the machine right after a cold
reset. The parts that the cores, the data flow and the host own are in CoreParts, FlowParts and HostParts. -/

namespace Sys2Proof.Machine

open Sys2Proof

/-- Why a step stops with a fault. -/
inductive Fault where
  /-- An access to an address that no window of the function covers: BAR 0 beyond 64 MiB (64 KiB on a VF), BAR 2 beyond
  its doorbell pages, BAR 4 beyond its size (R342). The PCIe hierarchy routes no such access to the device. Raised by the
  window accesses. Safe: the machine stops. -/
  | noSuchAddress
deriving DecidableEq, Repr

/-- Why a step answers no meaning. -/
inductive Refusal where
  /-- The row of the table has no meaning yet. Raised by exec only. Safe: the machine stops. -/
  | notModelled (mnemonic : String)
deriving DecidableEq, Repr

/-- What every die with a die code keeps (R366, R403, R437, R481, R489). -/
structure DieSt where
  loaded : Bool              -- microcode loaded and measured: load state 1
  digest : Nat               -- SHA-512 of that microcode
  fenced : Bool
  locked : Bool              -- its PLLs are locked
  testFor : Option Nat       -- a self-test is pending for this fault identifier (R432)
  resetting : Bool
  temp : Nat
  peak : Nat
  alert : Bool               -- at or above 110 °C and not yet below 105 °C (R505)
  reduce : Nat               -- thermal reduction of the allowances in sixteenths (R479)
  hot : Bool                 -- above TEMP_LIMIT, or under a stack above 95 °C
  mcastMask : Nat            -- MCAST_DELIVERY (R261, R458)
  mcastTag : Word32
  ration : Nat               -- TEL_RATION (R489)
  rationSum : Nat            -- allowances of its computing cores summed over the control intervals since the last measurement
  rationCount : Nat          -- how many of them
deriving DecidableEq, Repr, Inhabited

/-- The statistics of a bed die (R459). -/
structure BedStats where
  inUse : Nat
  peak : Nat
  capEv : Nat
  exhEv : Nat
  unschedPeak : Nat
  hist : List Nat            -- 16 bins
deriving DecidableEq, Repr, Inhabited

/-- A bed die's tag pool, adders and statistics (R105, R214, R459). -/
structure Bed where
  tags : List Tag            -- oldest first
  lastCore : Bool            -- the shared tag granted last, while both sides waited, went to a core (R214)
  tlb : List (CtxId × Nat)   -- the pages that its translation cache holds, by context and virtual address (R223)
  adders : Vector Adder 3
  histSel : Nat
  stats : BedStats
deriving DecidableEq, Repr, Inhabited

/-- A ring link with its statistics (R238, R459). -/
structure Link where
  down : Bool
  retry : Nat
  sched : Nat
  unsched : Nat
  miss : Nat
deriving DecidableEq, Repr, Inhabited

/-- The fabric: transfers, packets, control packets and links (R238 to R263). -/
structure Fabric where
  xfers : List Xfer
  pkts : List Pkt
  vc4 : List Vc4
  nextId : Nat
  links : Vector Link 10
  aligned : Bool             -- links trained and raster periods aligned (R263)
  discarded : Nat            -- packets discarded at the last hop before a removed or resetting die (R261, R263)
deriving DecidableEq, Repr, Inhabited

/-- HBM and its accounting (R210 to R237, R413, R429). Bytes are keyed 2^38 × bed + bed offset. -/
structure Hbm where
  mem : Sparse Byte
  ready : Bool
  dwi : Nat                  -- MEM_DWI_SIZE.UNITS
  devBase : Nat              -- MEM_DEVREG_BASE.BASE
  devSize : Nat              -- MEM_DEVREG_SIZE.SIZE
  locked : Bool              -- the first MAP or RING_CONFIG is past (R219)
  cfgLocked : Bool           -- MEM_STATUS.CFG_LOCKED
  farErr : Bool
  farTimeoutMs : Nat
  quotaSel : Nat
  quotas : Quotas            -- by context, default the whole of HBM
  scans : Nat                -- AGE_SCANs completed
  touched : Sparse Nat       -- scans at the last access of a 2 MiB frame, default 0
  pageFaults : Nat
  farFaults : Nat
  badTiles : List Nat        -- tiles that cannot be corrected, keyed 2^26 × bed + offset / 4,096
  repair : List (Nat × List (Nat × Nat)) -- groups under repair by a write that covers them: the runs written, bed offset and length (R429)
  degraded : List (Nat × Nat)-- degraded pseudo-channels: stack, pseudo-channel
  failedReads : List ((Nat × Nat) × Nat)
  deadPcs : List (Nat × Nat) -- pseudo-channels that fail every read
  failedStacks : List Nat
  sealedFrames : List (Nat × CtxId) -- 16 KiB parts of frames, keyed 2^24 × bed + offset / 2^14, sealed to a context
  scrubbing : List Nat       -- sealed parts waiting to be scrubbed
  dwLost : Bool              -- the device-wide region is lost (R439)
deriving DecidableEq, Repr, Inhabited

/-- A record of the fault log: its 64-byte header, its body entries and whether it was read (R433, R436). -/
structure FaultRec where
  id : Nat
  header : List Byte
  body : List (List Byte)
  read : Bool
deriving DecidableEq, Repr, Inhabited

/-- The fault log and the laggard scores (R433 to R454). -/
structure FaultLog where
  recs : List FaultRec       -- oldest first
  nextId : Nat               -- the next identifier of the device's one series
  lastId : Nat
  dropped : Bool
  classF : Bool
  countA : Nat
  countB : Nat
  lagThresh : Nat
  lagFlags : List DieId
  lagScore : Vector Nat 16
  lagDie : Vector (List Nat) 16 -- the last 64 lags recorded for the cores of each die, newest first
  lagPeriod : Nat
  releases : List Nat        -- times in ns of the last 64 releases with compute participants, newest first
deriving DecidableEq, Repr, Inhabited

/-- The latched copies of counters and statistics (R457). -/
structure Shadow where
  cores : Vector CoreCounters 64
  beds : Vector BedStats 4
  links : Vector Link 10
deriving DecidableEq, Repr, Inhabited

/-- The debug block (R460 to R468). -/
structure Debug where
  frozen : Bool
  debugMode : Bool
  source : Nat
  frozenAt : Nat
  held : List Byte           -- the telemetry image at the freeze, for the I3C port (R497)
  readoutBusy : Bool
  latchSeq : Nat
  shadow : Shadow
  copySrc : Nat
  copyOff : Nat
  copyLen : Nat
  copyDst : Nat
  copyStatus : Nat
  copyBusy : Bool
  copyDone : Bool
deriving DecidableEq, Repr, Inhabited

/-- The power manager and its telemetry (R469 to R479, R489). -/
structure Power where
  limitW : Nat
  lend : Bool
  limitUnmet : Bool
  thermal : Bool
  avsErr : Bool
  pgLost : Bool
  tempLimit : Nat
  rotate : Nat               -- where the left-over sixteenths start (R477)
  railMv : Vector Nat 17     -- AVSBus target of C0 to C7, B0 to B3, M0 to M3, E, in mV
  tele : Telemetry           -- live telemetry
  snap : Telemetry           -- the snapshot of TEL_CTL.LATCH
  snapPeak : List Nat
  snapRation : List Nat
  telSeq : Nat
  fresh : Bool
  coefficient : Nat          -- correction of the power coefficients by the last measurement (R475)
  easelTemp : Nat
  easelAlert : Bool
  stackTemp : Vector Nat 12
deriving DecidableEq, Repr, Inhabited

/-- Clocks, resets and where start-up stands (R480 to R490). -/
structure Clock where
  devRef : Bool
  pcieRef : Bool
  eLock : Bool
  pLock : Bool
  inReset : Bool             -- a reset pin is asserted
  inert : Bool               -- PG_EAS was low at the release (R473)
  booted : Bool              -- a firmware image runs
  warming : Bool             -- a warm reset is in progress
  halted : Bool              -- a class F fault stopped the device (R444)
  tripped : Bool             -- every clock is stopped by a thermal trip (R505)
  lossF : Bool               -- the class F fault was the loss of a feed or of a clock (R490)
  cause : Nat
  warmCount : Nat
  linkUp : Bool
deriving DecidableEq, Repr, Inhabited

/-- An SPDM session (R402). -/
structure Session where
  id : Nat
  established : Bool
  secret : Nat
  keyEpoch : Nat
deriving DecidableEq, Repr, Inhabited

/-- A selective IDE stream (R424). -/
structure IdeStream where
  id : Nat
  keys : List (Bool × Bool × Nat)   -- key set, direction, key
  ridLo : Nat
  ridHi : Nat
  addrLo : Nat
  addrHi : Nat
  active : Option Bool              -- the key set in use
deriving DecidableEq, Repr, Inhabited

/-- The security processor (R398 to R425). -/
structure Security where
  locked : Bool              -- SEC_STATUS.DEBUG_LOCKED
  scope : Nat
  relocked : Bool
  bootFail : Bool
  activeBank : Nat
  fallback : Bool
  running : Option ImageInfo
  staged : Option ImageInfo
  aliasKey : Nat
  challenge : Option (List Byte)
  spdmVersion : Bool         -- GET_VERSION has been answered
  spdmCaps : Bool
  spdmAlgs : SpdmAlgs        -- the algorithms of R402 that are negotiated
  sessions : List Session
  nextSession : Nat
  ide : List IdeStream
  drbg : Nat                 -- draws from the DRBG so far
deriving DecidableEq, Repr, Inhabited

/-- What outlives every reset: the fuses (R370, R399, R420) and the count of R407. -/
structure Fuses where
  es : Bool                  -- KB2516-A1-ES
  serial : Nat
  svn : Nat
  opens : Nat                -- SEAL_OPEN commands completed since manufacture (R407)
deriving DecidableEq, Repr, Inhabited

/-- The write-one-to-clear and selection registers of the SYNC, GRADIENT and MEDIA blocks (R204, R290, R339). -/
structure Regs where
  waitLimit : Nat            -- SYNC_WAIT_LIMIT.LIMIT
  syncStatus : Nat
  gradNonfinite : Bool
  cascBroken : Bool
  shufReused : Bool
  shufLane : Nat
deriving DecidableEq, Repr, Inhabited

/-- The output pins (R495, R505). -/
structure Pins where
  alert : Bool               -- ALERT_N is low for a class F fault
  thermtrip : Bool           -- THERMTRIP_N is low
deriving DecidableEq, Repr, Inhabited

/-- The machine. `pending` is the queue of commands that wait; `tick` counts the free values drawn so far; `out` is what the
device has sent beyond its lands, newest first. -/
structure State where
  pending : List Instr
  tick : Nat
  timeNs : Nat
  out : List OutMsg
  fuses : Fuses
  clk : Clock
  pins : Pins
  pw : Power
  sec : Security
  host : HostIf
  ctxs : List (CtxId × Ctx)  -- context 0 and the created contexts
  running : Option CtxId
  regs : Regs
  cores : Vector Core 64
  slices : Vector Slice 16
  dies : Vector DieSt 24
  beds : Vector Bed 4
  hbm : Hbm
  fabric : Fabric
  media : Media
  log : FaultLog
  dbg : Debug
deriving DecidableEq, Repr

/-! ## Reset values -/

def PlateInfo.reset : PlateInfo := ⟨.free, none, false⟩
def Ports.reset : Ports := ⟨[], [], [], [], [], [], [], []⟩
def CoreCounters.zero : CoreCounters := ⟨Vector.replicate 16 0, 0, 0, 0, 0, 0, 0, 0⟩
def Queue.empty : Queue := ⟨[], 0, 0, none, .none, 0, none, 0, 0, 0, false⟩

/-- A core after a reset that clears the plates (R85, R104, R456). -/
def Core.reset : Core where
  plates := []
  plate := Vector.replicate 8 PlateInfo.reset
  ports := Ports.reset
  queues := Vector.replicate 4 Queue.empty
  cur := none
  cyc := 0
  freeAt := 0
  shift := none
  trailing := []
  nextOp := 0
  stopping := false
  stopped := false
  stopBy := none
  idleAs := none
  lags := []
  lagCount := 0
  ctr := CoreCounters.zero
  pw := ⟨16, false, false, 0⟩

def Slice.reset : Slice := ⟨[], []⟩
def DieSt.reset : DieSt := ⟨false, 0, false, false, none, false, 0, 0, false, 0, false, 0, 0, 0, 0, 0⟩
def BedStats.zero : BedStats := ⟨0, 0, 0, 0, 0, List.replicate 16 0⟩
/-- HIST_SEL resets to all pseudo-channels of all three stacks (R459). -/
def Bed.reset : Bed := ⟨[], false, [], Vector.replicate 3 ⟨[], []⟩, 0x103, BedStats.zero⟩
def Link.reset : Link := ⟨false, 0, 0, 0, 0⟩
def Fabric.reset : Fabric := ⟨[], [], [], 0, Vector.replicate 10 Link.reset, false, 0⟩
def MediaDie.reset : MediaDie := ⟨[], 0, 0, []⟩
def Media.reset : Media := ⟨[], [], [], 0, Vector.replicate 4 MediaDie.reset, false, false, false, false, 0⟩
def Grad.empty : Grad := ⟨none, none, [], [], [], [], none, [], []⟩

/-- HBM after a cold reset (R236, R237): zero, with the reset values of the MEMORY block. -/
def Hbm.reset : Hbm where
  mem := []
  ready := false
  dwi := 0
  devBase := 0
  devSize := 512
  locked := false
  cfgLocked := false
  farErr := false
  farTimeoutMs := 50
  quotaSel := 0
  quotas := []
  scans := 0
  touched := []
  pageFaults := 0
  farFaults := 0
  badTiles := []
  repair := []
  degraded := []
  failedReads := []
  deadPcs := []
  failedStacks := []
  sealedFrames := []
  scrubbing := []
  dwLost := false

def FaultLog.reset : FaultLog where
  recs := []
  nextId := 1
  lastId := 0
  dropped := false
  classF := false
  countA := 0
  countB := 0
  lagThresh := 500
  lagFlags := []
  lagScore := Vector.replicate 16 0
  lagDie := Vector.replicate 16 []
  lagPeriod := 0
  releases := []

def Shadow.zero : Shadow :=
  ⟨Vector.replicate 64 CoreCounters.zero, Vector.replicate 4 BedStats.zero, Vector.replicate 10 Link.reset⟩
def Debug.reset : Debug := ⟨false, false, 0, 0, [], false, 0, Shadow.zero, 0, 0, 0, 0, 0, false, false⟩
def Telemetry.zero : Telemetry := ⟨0, [], [], [], 0, []⟩

def Power.reset : Power where
  limitW := 2000
  lend := true
  limitUnmet := false
  thermal := false
  avsErr := false
  pgLost := false
  tempLimit := 100
  rotate := 0
  railMv := Vector.replicate 17 0
  tele := Telemetry.zero
  snap := Telemetry.zero
  snapPeak := []
  snapRation := []
  telSeq := 0
  fresh := false
  coefficient := 0
  easelTemp := 0
  easelAlert := false
  stackTemp := Vector.replicate 12 0

/-- The clocks while DEV_RST_N is low (R483). -/
def Clock.reset : Clock where
  devRef := false
  pcieRef := false
  eLock := false
  pLock := false
  inReset := true
  inert := false
  booted := false
  warming := false
  halted := false
  tripped := false
  lossF := false
  cause := 0
  warmCount := 0
  linkUp := false

/-- The security processor after a cold reset (R422, R425). -/
def Security.reset (f : Fuses) : Security where
  locked := !f.es
  scope := if f.es then 3 else 0
  relocked := false
  bootFail := false
  activeBank := 0
  fallback := false
  running := none
  staged := none
  aliasKey := 0
  challenge := none
  spdmVersion := false
  spdmCaps := false
  spdmAlgs := ⟨false, false, false, false⟩
  sessions := []
  nextSession := 0
  ide := []
  drbg := 0

def HostIf.reset : HostIf where
  requested := Vector.replicate 64 0
  agreed := Vector.replicate 64 0
  drops := Vector.replicate 64 0
  doorbellLast := 0
  rings := []
  events := []
  fetched := []
  windows := []
  winSel := 0
  winHi := 0
  bar4Err := 0
  bar4ErrOff := 0
  intStatus := 0
  intEnable := 0
  intVector := 0
  adminSq := 0
  adminCq := 0
  adminCfg := 0
  ringErrLast := 0
  msix := []
  msixPending := []
  configReady := false
  operational := false
  updating := false
  vfEnable := false
  numVfs := 0
  cfgRegs := []
  barLog := 30

def Regs.reset : Regs := ⟨100, 0, false, false, false, 0⟩

/-- The fuses of a part that the specification does not number: an LC part with serial number 1 and no SVN fuse blown. -/
def Fuses.presumed : Fuses := ⟨false, 1, 0, 0⟩

/-- A context as CTX_CREATE leaves it (R64, R147, R182, R231), with nothing configured. -/
def Ctx.fresh : Ctx where
  func := 0
  vfSlot := 0
  pasid := none
  srKey := 0
  stackBase := 0
  stackSize := 0
  stackMask := 0
  saveOff := 0
  saveSize := 0
  faulted := false
  exec := none
  lastFoot := none
  pages := []
  counters := []
  channels := []
  lines := []
  lanes := []
  stops := []
  grad := Grad.empty
  partner := []
  formats := []
  shuffle := none
  held := []
  sealing := none
  impCount := 0
  saved := none
  savedRange := none
  saveCount := 0
  lastSaveUs := 0
  lastSwitchUs := 0
  runSince := 0
  runNs := 0
  backlog := []
  lost := 0
  lostTotal := 0
  eventSeq := 0

/-- The machine right after a cold reset, with DEV_RST_N low (R483, R484). -/
def State.reset : State where
  pending := []
  tick := 0
  timeNs := 0
  out := []
  fuses := Fuses.presumed
  clk := Clock.reset
  pins := ⟨false, false⟩
  pw := Power.reset
  sec := Security.reset Fuses.presumed
  host := HostIf.reset
  ctxs := [(0, Ctx.fresh)]
  running := none
  regs := Regs.reset
  cores := Vector.replicate 64 Core.reset
  slices := Vector.replicate 16 Slice.reset
  dies := Vector.replicate 24 DieSt.reset
  beds := Vector.replicate 4 Bed.reset
  hbm := Hbm.reset
  fabric := Fabric.reset
  media := Media.reset
  log := FaultLog.reset
  dbg := Debug.reset

end Sys2Proof.Machine
end

