-- ==== Sys2Proof/Machine/Ops.lean ====
section
/-! DEFINITION. The shared operations over the state: its parts, device time, interrupts and messages (R358, R372), the fault log
(R433, R434), event records (R390 to R392), completion records (R356, R357), and the stop of a program (R179, R380). -/

namespace Sys2Proof

/-- The numbers of the status codes (R368). -/
def Status.code : Status → Nat
  | .done => 0x0000 | .donePartial => 0x0001
  | .badOpcode => 0x0100 | .badLength => 0x0101 | .reservedNonzero => 0x0102 | .badVersion => 0x0103
  | .badContext => 0x0104 | .badRaster => 0x0105 | .busy => 0x0106
  | .pageFault => 0x0200 | .accessDenied => 0x0201 | .deniedSealed => 0x0202
  | .farTierError => 0x0300 | .farTierTimeout => 0x0301 | .uncorrectableData => 0x0302
  | .hazardWetRead => 0x0400 | .plateConflict => 0x0401 | .syncTimeout => 0x0402 | .syncOverrun => 0x0403
  | .stashOverflow => 0x0404 | .stashMismatch => 0x0405 | .arrayCheckFail => 0x0406 | .nonfiniteReduced => 0x0407
  | .syncOwnerLost => 0x0408 | .barrierBroken => 0x0409 | .orderConflict => 0x040A
  | .preempted => 0x0500 | .contextEnded => 0x0501 | .dieFenced => 0x0502 | .partnerSameFeed => 0x0503
  | .mediaUnsupported => 0x0600 | .mediaStreamError => 0x0601
  | .busyUpdate => 0x0700 | .notMeasured => 0x0701
  | .internalError => 0x0F00

/-- The number of a die code (R366), which also numbers the dies of the state. -/
def DieCode.num : DieCode → Fin 24
  | .c d => ⟨d.val, by have := d.isLt; omega⟩
  | .b n => ⟨16 + n.val, by have := n.isLt; omega⟩
  | .m n => ⟨20 + n.val, by have := n.isLt; omega⟩

/-- The status of a failed far-tier or host access (R228). -/
def FarFail.status : FarFail → Status
  | .error => .farTierError
  | .timeout => .farTierTimeout

end Sys2Proof

namespace Sys2Proof.Machine

open Sys2Proof

/-! ## Parts of the state -/

section vec
variable {α : Type} {n : Nat}
/-- Entry `i` replaced by what `f` makes of it. -/
def vmod (v : Vector α n) (i : Fin n) (f : α → α) : Vector α n := v.set i.val (f (v.get i)) i.isLt
end vec

def State.core (s : State) (c : CoreId) : Core := s.cores.get c
def State.modCore (s : State) (c : CoreId) (f : Core → Core) : State := { s with cores := vmod s.cores c f }
def State.slice (s : State) (d : DieId) : Slice := s.slices.get d
def State.modSlice (s : State) (d : DieId) (f : Slice → Slice) : State := { s with slices := vmod s.slices d f }
def State.die (s : State) (d : DieCode) : DieSt := s.dies.get d.num
def State.modDie (s : State) (d : DieCode) (f : DieSt → DieSt) : State := { s with dies := vmod s.dies d.num f }
def State.bed (s : State) (b : BedId) : Bed := s.beds.get b
def State.modBed (s : State) (b : BedId) (f : Bed → Bed) : State := { s with beds := vmod s.beds b f }
def State.modHost (s : State) (f : HostIf → HostIf) : State := { s with host := f s.host }
def State.modHbm (s : State) (f : Hbm → Hbm) : State := { s with hbm := f s.hbm }
def State.modMedia (s : State) (f : Media → Media) : State := { s with media := f s.media }
def State.modFabric (s : State) (f : Fabric → Fabric) : State := { s with fabric := f s.fabric }

/-- The context of a number, where it is created (R374). -/
def State.ctx? (s : State) (c : CtxId) : Option Ctx := assoc? c s.ctxs
def State.putCtx (s : State) (c : CtxId) (x : Ctx) : State := { s with ctxs := assocSet c x s.ctxs }
def State.modCtx (s : State) (c : CtxId) (f : Ctx → Ctx) : State :=
  match s.ctx? c with
  | some x => s.putCtx c (f x)
  | none => s
def State.ctxD (s : State) (c : CtxId) : Ctx := (s.ctx? c).getD Ctx.fresh

/-- The context number of a command field. -/
def ctxOf (n : Nat) : CtxId := ⟨n % 4096, by omega⟩

def Core.queue (c : Core) (q : QueueId) : Queue := c.queues.get q
def Core.modQueue (c : Core) (q : QueueId) (f : Queue → Queue) : Core := { c with queues := vmod c.queues q f }
def State.modQueue (s : State) (c : CoreId) (q : QueueId) (f : Queue → Queue) : State := s.modCore c fun k => k.modQueue q f

def allCores : List CoreId := List.finRange 64
def allQueues : List QueueId := List.finRange 4
def allDies : List DieId := List.finRange 16
def allBeds : List BedId := List.finRange 4

/-- Every core changed alike, and every core of a list. -/
def State.mapCores (s : State) (f : CoreId → Core → Core) : State :=
  { s with cores := Vector.ofFn fun i => f i (s.cores.get i) }

/-- Whether the core map of a program names a core, and a die (R157). -/
def inMap (m : Nat) (c : CoreId) : Bool := bit m c.val
def dieInMap (m : Nat) (d : DieId) : Bool := field m (4 * d.val) 4 ≠ 0

/-- The program flag of a context: set when the queues of an EXEC's program start (R374; DEDUCED, see the log). -/
def Ctx.program (x : Ctx) : Bool := x.exec.isSome

/-- The core map of the EXEC in progress; no core without one. -/
def Ctx.coreMap (x : Ctx) : Nat := (x.exec.map fun e => e.coreMap).getD 0

/-- The running context and its program, if there is one. -/
def State.runCtx (s : State) : Option (CtxId × Ctx) := s.running.bind fun c => (s.ctx? c).map fun x => (c, x)

/-- Whether a die is fenced. -/
def State.fenced (s : State) (d : DieCode) : Bool := (s.die d).fenced

/-! ## Time and free choices -/

/-- Device time advances by an amount that the specification does not fix (R356). -/
def State.stamp (s : State) : State := { s with timeNs := s.timeNs + Config.elapsedNs s.tick, tick := s.tick + 1 }

/-- A free choice, and the state after it. -/
def State.draw (s : State) : Nat × State := (Config.freeNat s.tick, { s with tick := s.tick + 1 })

/-- A message beyond the device's lands. -/
def State.send (s : State) (m : OutMsg) : State := { s with out := m :: s.out }

/-- The device serves the host: it runs, is neither frozen nor stopped, and has reached operational state. -/
def State.live (s : State) : Bool :=
  s.host.operational && s.clk.booted && !s.clk.inReset && !s.clk.halted && !s.clk.tripped && !s.dbg.frozen

/-- Work in progress goes on: the clocks run, and no debug mode holds it (R460, R465, R505). -/
def State.ticking (s : State) : Bool := s.clk.booted && !s.clk.inReset && !s.clk.tripped && !s.dbg.frozen && !s.dbg.debugMode

/-- The clocks run and no freeze holds them: what is on its way inside the device goes on, in debug mode too (R461, R465). -/
def State.clocked (s : State) : Bool := s.clk.booted && !s.clk.inReset && !s.clk.tripped && !s.dbg.frozen

/-! ## Messages and interrupts -/

/-- An entry of a function's MSI-X table; masked until the host unmasks it. -/
def HostIf.msixEntry (h : HostIf) (func vec : Nat) : MsixEntry := (assoc? (func, vec) h.msix).getD ⟨0, 0, 0, 1⟩

/-- An MSI-X message, or its pending bit where the vector is masked (R358). -/
def State.sendMsix (s : State) (func vec : Nat) : State :=
  if (s.host.msixEntry func vec).ctl.getLsbD 0 then
    s.modHost fun h => { h with msixPending := if (func, vec) ∈ h.msixPending then h.msixPending else h.msixPending ++ [(func, vec)] }
  else s.send (.msix func vec)

/-- A device interrupt: bit `b` of INT_STATUS; a message when it rises while it is enabled (R372). -/
def State.raiseInt (s : State) (b : Nat) : State :=
  if bit s.host.intStatus b then s
  else
    let s := s.modHost fun h => { h with intStatus := h.intStatus + 2 ^ b }
    if bit s.host.intEnable b then s.sendMsix 0 s.host.intVector else s

def intReady : Nat := 0
def intFault : Nat := 1
def intRing : Nat := 2
def intDoorbell : Nat := 3
def intBar4 : Nat := 4
def intFw : Nat := 5

/-! ## The fault log -/

/-- What a fault record says beyond its identifier and times (R434). -/
structure FaultInfo where
  status : Status
  cls : Nat
  selftest : Bool := false
  struct_ : Nat
  ctx : Nat := 0
  die : Nat := 31
  core : Nat := 0
  queue : Nat := 0
  opTag : Nat := 0
  progress : Nat := 0
  address : Nat := 0
  related : Nat := 0
deriving DecidableEq, Repr

/-- The next identifier of the one series: 1 to 65,535, skipping 0 (R433). -/
def State.takeFaultId (s : State) : Nat × State :=
  (s.log.nextId, { s with log := { s.log with nextId := if s.log.nextId = 65535 then 1 else s.log.nextId + 1 } })

/-- The 64-byte header (R434). -/
def FaultInfo.bytes (f : FaultInfo) (id detected reported entries : Nat) : List Byte :=
  record 64 [(0, 2, id), (2, 2, f.status.code), (4, 1, f.cls + 8 * bitOf f.selftest), (5, 1, f.struct_), (6, 2, f.ctx),
    (8, 8, detected), (16, 8, reported), (24, 1, f.die), (25, 1, f.core), (26, 1, f.queue), (28, 4, f.opTag),
    (32, 8, f.progress), (40, 8, f.address), (48, 2, f.related), (50, 2, entries)]

/-- Bytes that a record takes in the log. -/
def FaultRec.size (r : FaultRec) : Nat := 64 * (1 + r.body.length)

/-- The oldest records dropped until the log fits 1 MiB (R433); `true` where one was dropped. -/
def dropOld : List FaultRec → List FaultRec × Bool
  | [] => ([], false)
  | r :: rs => if ((r :: rs).map FaultRec.size).sum ≤ 1048576 then (r :: rs, false) else ((dropOld rs).1, true)

/-- A record written to the log; it raises INT_STATUS.FAULT (R372, R433), and may leave a self-test pending (R432). At most 256 body
entries. -/
def State.logFault (s : State) (f : FaultInfo) (body : List (List Byte)) : Nat × State :=
  let detected := s.timeNs
  let s := s.stamp
  let (id, s) := s.takeFaultId
  let body := body.take 256
  let r : FaultRec := ⟨id, f.bytes id detected s.timeNs body.length, body, false⟩
  let (recs, dropped) := dropOld (s.log.recs ++ [r])
  let s := { s with log := { s.log with recs := recs, lastId := id, dropped := s.log.dropped || dropped,
                                         classF := s.log.classF || f.cls == 6 } }
  let s := if h : f.selftest ∧ f.cls = 4 ∧ f.die < 16 then s.modDie (.c ⟨f.die, h.2.2⟩) fun d => { d with testFor := some id } else s
  (id, s.raiseInt intFault)

/-- Events masked or retried: counts only (R431). -/
def State.countA (s : State) : State := { s with log := { s.log with countA := satAt (2 ^ 32 - 1) (s.log.countA + 1) } }
def State.countB (s : State) (n : Nat) : State := { s with log := { s.log with countB := satAt (2 ^ 32 - 1) (s.log.countB + n) } }

/-! ## Address spaces -/

/-- The page that maps a virtual address (R218). -/
def Page.size (p : Page) : Nat := if p.big then 2097152 else 65536
def Ctx.pageAt (x : Ctx) (v : Nat) : Option Page := x.pages.find? fun p => p.vaddr ≤ v && v < p.vaddr + p.size

/-- The key of a bed and an offset on it in the HBM memory. -/
def hbmKey (b : Nat) (off : Nat) : Nat := b * 2 ^ 38 + off

/-! ## Rings -/

/-- Entries of a ring of size code `log` (R348). -/
def ringEntries (log : Nat) : Nat := 64 * 2 ^ log

def HostIf.ring? (h : HostIf) (c : CtxId) (r : Fin 64) : Option Ring := assoc? (c, r) h.rings
def State.putRing (s : State) (c : CtxId) (r : Fin 64) (x : Ring) : State :=
  s.modHost fun h => { h with rings := assocSet (c, r) x h.rings }

end Sys2Proof.Machine
end

