-- ==== Sys2Proof/Machine/Translate.lean ====
section
/-! DEFINITION. Device virtual memory and HBM: where an address lies (R210 to R212, R218, R224), what a read or a write of HBM
meets (R213, R232, R413, R429, R439), and the 64-byte blocks in which commands move data (R224, R228 to R230). -/

namespace Sys2Proof.Machine

open Sys2Proof

/-! ## Device physical addresses -/

/-- Bytes of HBM on one bed die. -/
def bedBytes : Nat := 192 * 2 ^ 30

/-- First bed offset of a bed's share of the device-wide region (R212). -/
def dwStart (units : Nat) : Nat := bedBytes - units * (3 * 2 ^ 28)

/-- The bed and the bed offset of a DPA (R210, R212). -/
def placeOf (units dpa : Nat) : Nat × Nat :=
  if bit dpa 40 then
    let x := dpa % 2 ^ 40
    let t := x / 4096
    (field t 0 2 ^^^ field t 8 2 ^^^ field t 16 2, dwStart units + t / 4 * 4096 + x % 4096)
  else (field dpa 38 2, dpa % 2 ^ 38)

/-- The DPA of a place: the device-wide one where the offset lies in that region (R210, R212). -/
def dpaOf (units b o : Nat) : Nat :=
  if o < dwStart units then b * 2 ^ 38 + o
  else
    let u := (o - dwStart units) / 4096
    2 ^ 40 + (4 * u + (b ^^^ field u 6 2 ^^^ field u 14 2)) * 4096 + o % 4096

/-- Whether a DPA lies in a populated range (R210). -/
def populated (units dpa : Nat) : Bool :=
  if bit dpa 40 then dpa % 2 ^ 40 < units * (3 * 2 ^ 30) else dpa % 2 ^ 38 < dwStart units

/-- The stack (of the bed) and the pseudo-channel of a bed offset (R211). -/
def stackPc (off : Nat) : Nat × Nat :=
  let t := off / 4096
  let q := field t 6 18
  ((field t 24 2 + q) % 3, field t 0 6 ^^^ field q 0 6 ^^^ field q 6 6 ^^^ field q 12 6)

/-- The tile of a bed offset, its code group of 16 tiles, and the 16 KiB part of a page (R413, R429). -/
def tileKey (bed off : Nat) : Nat := bed * 2 ^ 26 + off / 4096
def groupKey (bed off : Nat) : Nat := bed * 2 ^ 22 + off / 65536
/-- The 2 MiB frame of a place: by its DPA, since a frame of the device-wide region spans the four beds (R232, R439). -/
def frameKey (units bed off : Nat) : Nat := dpaOf units bed off / 2 ^ 21
/-- The places of `n` bytes, at most 4,096, at consecutive DPAs from a place on: one run, or two where they cross an HBM tile (R211,
R212). -/
def hbmSpan (units b o n : Nat) : List (Nat × Nat × Nat) :=
  let k := 4096 - o % 4096
  if n ≤ k then [(b, o, n)]
  else
    let q := placeOf units (dpaOf units b o + k)
    [(b, o, k), (q.1, q.2, n - k)]
def sealKey (bed off : Nat) : Nat := bed * 2 ^ 24 + off / 2 ^ 14

/-! ## Translation -/

/-- The kinds of access that a page can forbid (R224); `hbmRead` is a read that only an HBM page serves (R327). -/
inductive Access where
  | read | write | atomic | hbmRead
deriving DecidableEq, Repr

/-- The access code of an event record (R391). -/
def Access.code : Access → Nat
  | .read | .hbmRead => 0
  | .write => 1
  | .atomic => 2

/-- Whether an access needs write permission, and whether it needs an HBM page. -/
def Access.writes (a : Access) : Bool := a == .write || a == .atomic
def Access.hbmOnly (a : Access) : Bool := a == .atomic || a == .hbmRead

/-- Where a virtual byte lies. -/
inductive Where where
  | hbm (bed off : Nat)
  | far (addr : Nat) (ns at_ : Bool)
deriving DecidableEq, Repr

/-- The reasons of a page fault (R225, R391). -/
inductive Reason where
  | notMapped | notWritable | sealed | wrongTier
deriving DecidableEq, Repr

def Reason.code : Reason → Nat
  | .notMapped => 0 | .notWritable => 1 | .sealed => 2 | .wrongTier => 3

/-- The context that a frame is sealed to. -/
def Hbm.sealedTo (h : Hbm) (bed off : Nat) : Option CtxId := assoc? (sealKey bed off) h.sealedFrames

/-- The translation of a virtual address of a context for an access (R218, R224). -/
def State.xlate (s : State) (c : CtxId) (v : Nat) (a : Access) : Except Reason Where :=
  match (s.ctxD c).pageAt v with
  | none => .error .notMapped
  | some p =>
    let t := p.target + (v - p.vaddr)
    if a.writes && !p.wr then .error .notWritable
    else if p.far then (if a.hbmOnly then .error .wrongTier else .ok (.far t p.ns p.at_))
    else
      let (b, o) := placeOf s.hbm.dwi t
      match s.hbm.sealedTo b o with
      | some k => if k = c then .ok (.hbm b o) else .error .sealed
      | none => .ok (.hbm b o)

/-! ## HBM accesses -/

/-- The body entry of an HBM fault: its device physical address, stack, pseudo-channel and slot, and the degraded
pseudo-channels of its group (R435). -/
def Hbm.body (h : Hbm) (b o : Nat) : List Byte :=
  let (st, pc) := stackPc o
  let erased := (List.range 16).filter fun i =>
    let (k, p) := stackPc (o / 65536 * 65536 + 4096 * i)
    decide ((3 * b + k, p) ∈ h.degraded)
  record 64 [(0, 1, 7), (8, 8, dpaOf h.dwi b o), (16, 1, 3 * b + st), (17, 1, pc), (20, 4, field o 18 18), (26, 1, erased.length)]

/-- Whether a bed offset has been lost to a fence (R439). -/
def State.hbmLost (s : State) (b o : Nat) : Bool :=
  (s.dies.get (DieCode.b ⟨b % 4, by omega⟩).num).fenced || (s.hbm.dwLost && dwStart s.hbm.dwi ≤ o)

/-- The pseudo-channels of a group that deliver nothing: failed or degraded (R429). -/
def Hbm.groupBad (h : Hbm) (b o : Nat) : Nat :=
  ((List.range 16).filter fun i =>
    let (st, pc) := stackPc (o / 65536 * 65536 + 4096 * i)
    decide ((3 * b + st, pc) ∈ h.deadPcs) || decide ((3 * b + st, pc) ∈ h.degraded)).length

/-- Whether a tile of the group cannot be corrected (R429). -/
def Hbm.groupLost (h : Hbm) (b o : Nat) : Bool := h.badTiles.any fun t => t / 16 == groupKey b o

/-- Whether a read of the tile at a bed offset returns data (R213, R429, R439). -/
def State.hbmReadable (s : State) (b o : Nat) : Bool :=
  !s.hbmLost b o && !decide (tileKey b o ∈ s.hbm.badTiles) && s.hbm.groupBad b o ≤ 1

/-- An access resets the age of its frame (R232). -/
def Hbm.touch (h : Hbm) (b o : Nat) : Hbm := { h with touched := sset 0 h.touched (frameKey h.dwi b o) h.scans }

/-- The read of a failed pseudo-channel counts toward its degradation; the sixteenth in succession marks it (R429). -/
def Hbm.noteRead (h : Hbm) (b o : Nat) : Hbm :=
  let (st, pc) := stackPc o
  let k := (3 * b + st, pc)
  if k ∈ h.deadPcs ∧ k ∉ h.degraded then
    let n := (assoc? k h.failedReads).getD 0 + 1
    if 16 ≤ n then { h with degraded := h.degraded ++ [k], failedReads := assocDel k h.failedReads }
    else { h with failedReads := assocSet k n h.failedReads }
  else h

/-- Bytes read from HBM; none when the tile cannot be corrected. -/
def State.hbmRead (s : State) (b o n : Nat) : Option (List Byte) × State :=
  if s.hbmReadable b o then
    let masked := s.hbm.groupBad b o ≠ 0
    let s' := s.modHbm fun h => (h.noteRead b o).touch b o
    (some (readBytes s.hbm.mem (hbmKey b o) n), if masked then s'.countA else s')
  else (none, s.modHbm fun h => h.noteRead b o)

/-- A run written into an uncorrectable group by a write that covers the group: once all 64 KiB of it are written, the group is
readable again (R429). -/
def Hbm.repaired (h : Hbm) (b o n : Nat) : Hbm :=
  if h.groupLost b o then
    let k := groupKey b o
    let old := (assoc? k h.repair).getD []
    let runs := if (o, n) ∈ old then old else old ++ [(o, n)]
    if 65536 ≤ (runs.map fun r => r.2).sum then
      { h with repair := assocDel k h.repair, badTiles := h.badTiles.filter fun t => t / 16 ≠ k }
    else { h with repair := assocSet k runs h.repair }
  else h

/-- Bytes written to HBM; none, with nothing written, where a part of an uncorrectable group is written or the frame is lost.
`whole` says that the write covers the whole group (R429). -/
def State.hbmWrite (s : State) (b o : Nat) (bs : List Byte) (whole : Bool) : Option State :=
  if s.hbmLost b o then none
  else if (s.hbm.groupLost b o && !whole) || 1 < s.hbm.groupBad b o then none
  else some (s.modHbm fun h => { (h.touch b o).repaired b o bs.length with mem := writeBytes h.mem (hbmKey b o) bs })

/-- Whether every run of a piece can be read, and the piece read: all of it, or nothing (R213). -/
def State.spanReadable (s : State) (b o n : Nat) : Bool := (hbmSpan s.hbm.dwi b o n).all fun r => s.hbmReadable r.1 r.2.1
def State.spanRead (s : State) (b o n : Nat) : Option (List Byte) × State :=
  (hbmSpan s.hbm.dwi b o n).foldl (fun (a : Option (List Byte) × State) r =>
    match a.1, a.2.hbmRead r.1 r.2.1 r.2.2 with
    | some bs, (some more, s) => (some (bs ++ more), s)
    | _, (_, s) => (none, s)) (some [], s)

/-- A piece written: all of its runs, or nothing. `whole` tells of a place whether the write covers its group. -/
def State.spanWrite (s : State) (b o : Nat) (bs : List Byte) (whole : Nat → Nat → Bool) : Option State :=
  ((hbmSpan s.hbm.dwi b o bs.length).foldl (fun (a : Option (State × List Byte)) r =>
    a.bind fun e => (e.1.hbmWrite r.1 r.2.1 (e.2.take r.2.2) (whole r.1 r.2.1)).map fun s => (s, e.2.drop r.2.2)) (some (s, bs))).map fun e => e.1

/-- Whether a write of virtual bytes [v, v + len) of a context covers the code group of a place: each of its 16 tiles is mapped
within that range (R429). -/
def State.coversGroup (s : State) (c : CtxId) (v len b o : Nat) : Bool :=
  (List.range 16).all fun i =>
    let d := dpaOf s.hbm.dwi b (o / 65536 * 65536 + 4096 * i)
    (s.ctxD c).pages.any fun p => !p.far && decide (p.target ≤ d) && decide (d < p.target + p.size) &&
      decide (v ≤ p.vaddr + (d - p.target)) && decide (p.vaddr + (d - p.target) + 4096 ≤ v + len)

/-! ## The translation caches (R223) -/

/-- Entries of a bed's translation cache. -/
def tlbSize : Nat := 8192

/-- Table lines that a walk reads: three for a 2 MiB page, four for a 64 KiB page (R223). -/
def Page.levels (p : Page) : Nat := if p.big then 3 else 4

/-- The place of a table line in the device region (R219, R223). -/
def State.linePlace (s : State) (c : CtxId) (v level : Nat) : Nat × Nat :=
  let a := s.hbm.devBase * 2 ^ 21 + Config.tableLine c.val (v / 65536) level % (s.hbm.devSize * 32768) * 64
  (a / 2 ^ 38 % 4, a % 2 ^ 38)

/-- The table lines of a walk read in order; the place of the first that cannot be corrected. -/
def State.readLines (s : State) (c : CtxId) (v : Nat) : Nat → Nat → State × Option (Nat × Nat)
  | 0, _ => (s, none)
  | n + 1, level =>
    let (b, o) := s.linePlace c v level
    match s.hbmRead b o 64 with
    | (some _, s) => s.readLines c v n (level + 1)
    | (none, s) => (s, some (b, o))

/-- A bed's translation unit looks an address up: a hit adds nothing; a miss walks the tables and takes an entry, in the place of a
freely chosen one where the cache is full. The place of a table line that cannot be read (R223). -/
def State.lookUp (s : State) (b : BedId) (c : CtxId) (v : Nat) : State × Option (Nat × Nat) :=
  match (s.ctxD c).pageAt v with
  | none => s.readLines c v 4 0
  | some p =>
    if (c, p.vaddr) ∈ (s.bed b).tlb then (s, none)
    else match s.readLines c v p.levels 0 with
      | (s, some e) => (s, some e)
      | (s, none) =>
        let (k, s) := s.draw
        let room := fun (l : List (CtxId × Nat)) => if l.length < tlbSize then l else l.eraseIdx (k % tlbSize)
        (s.modBed b fun d => { d with tlb := room d.tlb ++ [(c, p.vaddr)] }, none)

/-- Every bed's translation cache drops the entries of a context's pages that `gone` names (R222). -/
def State.dropEntries (s : State) (c : CtxId) (gone : Nat → Bool) : State :=
  { s with beds := s.beds.map fun b => { b with tlb := b.tlb.filter fun e => e.1 ≠ c || !gone e.2 } }

/-! ## Blocks of a command -/

/-- The requester of PCIe requests: function and PASID of a context (R227, R348). -/
def State.pasidOf (s : State) (c : CtxId) : Option Nat := (s.ctxD c).pasid
def State.funcOf (s : State) (c : CtxId) : Nat := (s.ctxD c).func

/-- Whether a selective IDE stream in use covers a PCIe address (R412, R424). -/
def State.ideCovers (s : State) (a : Nat) : Bool := s.sec.ide.any fun t => t.active.isSome && t.addrLo ≤ a && a ≤ t.addrHi

/-- Whether a context takes data only from a selective IDE stream (R411, R412). -/
def Ctx.ideRequired (x : Ctx) : Bool := (x.sealing.map fun k => k.ideRequired).getD false

/-- One end of a command's transfer. -/
inductive Side where
  | host (addr : Nat)
  | virt (addr : Nat)
deriving DecidableEq, Repr

/-- Why a transfer stopped. -/
inductive Halt where
  | page (v : Nat) (a : Access) (r : Reason)
  | far (f : FarFail)
  | data (bed off : Nat)
deriving DecidableEq, Repr

/-- The status that a halt gives its request. -/
def Halt.status : Halt → Status
  | .page .. => .pageFault
  | .far f => f.status
  | .data .. => .uncorrectableData

/-- A command's transfer as it runs: bytes of the outside world still to come, bytes read from there so far, bytes moved. -/
structure Moving where
  s : State
  env : List Byte
  rd : Nat
  done : Nat
  wrote : Bool               -- something was posted to the far tier or to the host
deriving Repr

/-- `n` bytes from a side, at most to the next 64-byte boundary. -/
def Moving.fetch (m : Moving) (c : CtxId) (e : Env) (side : Side) (i n : Nat) : Except Halt (List Byte × Moving) :=
  let outside := fun (_ : Unit) =>
    match e.rdFail with
    | some (k, f) => if k < m.rd + n then Except.error (Halt.far f)
      else .ok (padTo n (m.env.take n), { m with env := m.env.drop n, rd := m.rd + n })
    | none => .ok (padTo n (m.env.take n), { m with env := m.env.drop n, rd := m.rd + n })
  match side with
  | .host _ => outside ()
  | .virt v =>
    match m.s.xlate c (v + i) .read with
    | .error r => .error (.page (v + i) .read r)
    | .ok (.far _ _ _) => outside ()
    | .ok (.hbm b o) =>
      match m.s.hbmRead b o n with
      | (none, _) => .error (.data b o)
      | (some bs, s') => .ok (bs, { m with s := s' })

/-- Bytes to a side; `len` is the length of the whole transfer. -/
def Moving.store (m : Moving) (c : CtxId) (side : Side) (i len : Nat) (bs : List Byte) : Except Halt Moving :=
  match side with
  | .host a => .ok { m with s := m.s.send (.hostWrite (m.s.funcOf c) (m.s.pasidOf c) (a + i) bs true), wrote := true }
  | .virt v =>
    match m.s.xlate c (v + i) .write with
    | .error r => .error (.page (v + i) .write r)
    | .ok (.far a ns at_) => .ok { m with s := m.s.send (.farWrite c (m.s.pasidOf c) a bs ns at_), wrote := true }
    | .ok (.hbm b o) =>
      match m.s.hbmWrite b o bs (m.s.coversGroup c v len b o) with
      | none => .error (.data b o)
      | some s' => .ok { m with s := s' }

/-- `n` bytes that a command reads from a context's memory at any alignment; the first byte that halts it, if one does. -/
def State.vread (s : State) (c : CtxId) (v : Nat) : Nat → Except Halt (List Byte)
  | 0 => .ok []
  | n + 1 =>
    match s.xlate c v .read with
    | .error r => .error (.page v .read r)
    | .ok (.far _ _ _) => .error (.page v .read .wrongTier)
    | .ok (.hbm b o) =>
      if s.hbmReadable b o then
        match s.vread c (v + 1) n with
        | .error h => .error h
        | .ok bs => .ok (sget 0 s.hbm.mem (hbmKey b o) :: bs)
      else .error (.data b o)

/-- The read of at most 4 KiB of a context's HBM resets the ages of the frames it meets (R232). -/
def State.vtouch (s : State) (c : CtxId) (v n : Nat) : State :=
  [v, v + n - 1].foldl (fun s w => match s.xlate c w .read with
    | .ok (.hbm b o) => s.modHbm fun h => h.touch b o
    | _ => s) s

/-- Bytes that the device writes into a context's HBM pages. -/
def State.vwrite (s : State) (c : CtxId) (v : Nat) : List Byte → Except Halt State
  | [] => .ok s
  | x :: xs =>
    match s.xlate c v .write with
    | .error r => .error (.page v .write r)
    | .ok (.far a ns at_) => (s.send (.farWrite c (s.pasidOf c) a [x] ns at_)).vwrite c (v + 1) xs
    | .ok (.hbm b o) =>
      match s.hbmWrite b o [x] false with
      | none => .error (.data b o)
      | some s' => s'.vwrite c (v + 1) xs

end Sys2Proof.Machine
end

