-- ==== Sys2Proof/Machine/Records.lean ====
section
/-! DEFINITION. What the device writes for the host: event records and their backlog (R390 to R392), completion records (R356 to
R358), ring errors (R351); when a fetched command may start (R352); and the stop of a program with its records (R380, R393). -/

namespace Sys2Proof.Machine

open Sys2Proof

/-! ## Ring writes -/

/-- 64 bytes written into a ring of a context, in host memory or in HBM (R348). -/
def State.ringWrite (s : State) (c : CtxId) (hbm : Bool) (addr : Nat) (bs : List Byte) : State :=
  if hbm then match s.vwrite c addr bs with
    | .ok s' => s'
    | .error _ => s
  else s.send (.hostWrite (s.funcOf c) (s.pasidOf c) addr bs false)

/-! ## Event records -/

/-- Free entries of an event ring: it never holds more than entries − 1 (R350). -/
def EventRing.room (r : EventRing) : Bool :=
  (r.tail + ringEntries r.log - r.head) % ringEntries r.log < ringEntries r.log - 1

def State.events? (s : State) (c : CtxId) : Option EventRing := assoc? c s.host.events

/-- An event record written at the tail of the context's event ring, with the ring's phase (R359, R360). -/
def State.writeEvent (s : State) (c : CtxId) (r : EventRing) (bs : EventBytes) : State :=
  let n := ringEntries r.log
  let s := s.ringWrite c r.hbm (r.base + 64 * r.tail) (putAt bs 4 (leBytes 1 (bitOf r.phase)))
  let r' := { r with tail := (r.tail + 1) % n, phase := if r.tail + 1 = n then !r.phase else r.phase }
  let s := s.modHost fun h => { h with events := assocSet c r' h.events }
  if r.irqEn then s.sendMsix (s.funcOf c) r.vector else s

/-- The backlog written while there is room; the fuel is its length (R392). -/
def State.flushLoop (s : State) (c : CtxId) : Nat → State
  | 0 => s
  | n + 1 =>
    match s.events? c, (s.ctxD c).backlog with
    | some r, e :: es =>
      if r.room && !r.err then ((s.writeEvent c r e).modCtx c fun x => { x with backlog := es }).flushLoop c n else s
    | _, _ => s

/-- The 64 bytes of an event, without its phase (R390). -/
def eventBytes (typ : Nat) (st : Status) (time ctx fid seq : Nat) (body : List (Nat × Nat × Nat)) : EventBytes :=
  record 64 ([(0, 1, typ), (2, 2, st.code), (8, 8, time), (16, 2, ctx), (18, 2, fid), (20, 4, seq)] ++ body)

/-- An event of a context: written where its ring has room and nothing waits before it, else kept in the backlog of 64, else
dropped and counted (R392). -/
def State.event (s : State) (c : CtxId) (typ : Nat) (st : Status) (fid : Nat) (body : List (Nat × Nat × Nat)) : State :=
  match s.ctx? c with
  | none => s
  | some x =>
    let s := s.stamp
    let bs := eventBytes typ st s.timeNs c.val fid x.eventSeq body
    let s := s.modCtx c fun x => { x with eventSeq := (x.eventSeq + 1) % 2 ^ 32 }
    match s.events? c with
    | some r =>
      if r.room && !r.err && x.backlog.isEmpty && x.lost = 0 then s.writeEvent c r bs
      else if x.backlog.length < 64 then s.modCtx c fun x => { x with backlog := x.backlog ++ [bs] }
      else s.modCtx c fun x => { x with lost := x.lost + 1, lostTotal := x.lostTotal + 1 }
    | none =>
      if x.backlog.length < 64 then s.modCtx c fun x => { x with backlog := x.backlog ++ [bs] }
      else s.modCtx c fun x => { x with lost := x.lost + 1, lostTotal := x.lostTotal + 1 }

/-- The backlog, and then EVENTS_LOST for any drops (R392). -/
def State.flushEvents (s : State) (c : CtxId) : State :=
  let s := s.flushLoop c 64
  let x := s.ctxD c
  match s.events? c with
  | some r =>
    if x.backlog.isEmpty && x.lost ≠ 0 && r.room && !r.err then
      let s := s.stamp
      let bs := eventBytes 0x08 .done s.timeNs c.val 0 x.eventSeq [(24, 4, x.lost)]
      (s.writeEvent c r bs).modCtx c fun x => { x with lost := 0, eventSeq := (x.eventSeq + 1) % 2 ^ 32 }
    else s
  | none => s

/-! ## Completion records -/

/-- The record of a command in its 64-byte entry (R356). -/
def completionBytes (seq : Nat) (st : Status) (phase : Bool) (progress time fid head : Nat) : List Byte :=
  record 64 [(0, 4, seq), (4, 2, st.code), (6, 1, bitOf phase), (8, 8, progress), (16, 8, time), (24, 2, fid), (28, 2, head)]

/-- The first command with a header removed from those fetched. -/
def eraseFetched (h : CmdHdr) : List Fetched → List Fetched
  | [] => []
  | f :: fs => if f.hdr = h then fs else f :: eraseFetched h fs

/-- A command's record written into its ring's completion ring after its results, with its message (R357, R358). -/
def State.writeRecord (s : State) (h : CmdHdr) (st : Status) (progress fid : Nat) : State :=
  let s := s.stamp
  let s := s.modHost fun i => { i with fetched := eraseFetched h i.fetched }
  match s.host.ring? h.ctx h.ring with
  | none => s
  | some r =>
    let n := ringEntries r.cqLog
    let bs := completionBytes h.seq.toNat st r.phase (progress % 2 ^ 64) s.timeNs fid r.sqHead
    let s := s.ringWrite h.ctx r.cqHbm (r.cqBase + 64 * r.cqTail) bs
    let r' := { r with cqTail := (r.cqTail + 1) % n, phase := if r.cqTail + 1 = n then !r.phase else r.phase,
                       reserved := r.reserved - 1 }
    let s := s.putRing h.ctx h.ring r'
    if h.irq && r.irqEn then s.sendMsix (s.funcOf h.ctx) r.vector else s

/-- Whether a fetched command belongs to a ring pair. -/
def Fetched.on (f : Fetched) (c : CtxId) (r : Fin 64) : Bool := f.hdr.ctx == c && f.hdr.ring == r

/-- A ring whose last record has been written is unconfigured; the command that asked for it completes (R349, R373). -/
def State.closeRing (s : State) (c : CtxId) (r : Fin 64) : State :=
  match s.host.ring? c r with
  | none => s
  | some x =>
    let rest := s.host.fetched.filter fun f => f.on c r
    let drop := fun (s : State) => s.modHost fun h => { h with rings := h.rings.filter fun p => p.1 ≠ (c, r) }
    match x.closing with
    | some h => if rest.all fun f => f.hdr = h then drop (s.writeRecord h .done 0 0) else s
    | none => if x.closingAdmin && rest.isEmpty then drop s else s

/-- A command completes: its record, and a disable that waited for it (R349, R357). -/
def State.complete (s : State) (h : CmdHdr) (st : Status) (progress : Nat := 0) (fid : Nat := 0) : State :=
  (s.writeRecord h st progress fid).closeRing h.ctx h.ring

/-! ## The start of a command -/

def HostCmd.isExec : HostCmd → Bool
  | .exec _ => true
  | _ => false

/-- Whether the command front end executes it rather than the firmware (R352). -/
def HostCmd.isHw : HostCmd → Bool
  | .nop | .fence _ | .timestamp | .copy _ | .fill _ | .exec _ | .ingestFeed _ => true
  | _ => false

/-- The commands fetched before the first that is this one and has not started, or none where there is none. -/
def before (h : CmdHdr) (c : HostCmd) : List Fetched → Option (List Fetched)
  | [] => none
  | f :: fs => if f.hdr = h && f.cmd = c && !f.started then some [] else (before h c fs).map fun l => f :: l

/-- Whether a fetched command may start: ring order, its fence flag and FENCE (R352). -/
def HostIf.ready (i : HostIf) (h : CmdHdr) (c : HostCmd) : Bool :=
  match before h c i.fetched with
  | none => false
  | some l =>
    let mine := l.filter fun f => f.on h.ctx h.ring
    mine.all (fun f => f.started || HostCmd.isExec f.cmd) && (!h.fence || mine.isEmpty) &&
    (match c with
     | .fence all => mine.isEmpty && (!all || (l.filter fun f => f.hdr.ctx == h.ctx).isEmpty)
     | _ => true)

/-- The longest retry hint during an activation (R367). -/
def updateHint : Nat := 3000000

/-- The commands that run in debug mode (R465). -/
def HostCmd.inDebug : HostCmd → Bool
  | .nop | .timestamp | .query _ | .faultLogRead _ | .telemetryRead _ | .map _ | .unmap _ | .copy _ => true
  | _ => false

/-- The start of a command: during an activation a firmware command completes with BUSY_UPDATE, in debug mode most commands
complete with BUSY (R367, R465). A command that has begun goes on. -/
def State.gate (s : State) (h : CmdHdr) (c : HostCmd) (begun : Bool) (body : State → State) : State :=
  if begun then body s
  else if s.host.updating && !HostCmd.isHw c then s.complete h .busyUpdate updateHint
  else if s.dbg.debugMode && !HostCmd.inDebug c then
    let (n, s) := s.draw
    s.complete h .busy n
  else body s

/-- A host command that is ready runs `body`. A command that the device does not hold ready changes nothing. -/
def State.host1 (s : State) (h : CmdHdr) (c : HostCmd) (body : State → State) : State :=
  if s.live && s.host.ready h c then s.gate h c false body else s

/-- A command that stays in progress keeps its place, started. -/
def markStarted (h : CmdHdr) (c : HostCmd) : List Fetched → List Fetched
  | [] => []
  | f :: fs => if f.hdr = h && f.cmd = c && !f.started then { f with started := true } :: fs else f :: markStarted h c fs

def State.start (s : State) (h : CmdHdr) (c : HostCmd) : State :=
  s.modHost fun i => { i with fetched := markStarted h c i.fetched }

/-- A report to a host buffer, cut to its length: DONE with the bytes written, or DONE_PARTIAL (R362, R436, R489). -/
def State.report (s : State) (h : CmdHdr) (buffer length : Nat) (bs : List Byte) : State :=
  let cut := bs.take length
  let s := if cut.isEmpty then s else s.send (.hostWrite (s.funcOf h.ctx) (s.pasidOf h.ctx) buffer cut true)
  s.complete h (if length < bs.length then .donePartial else .done) cut.length

/-! ## Stops -/

/-- Every core of a running program is asked to stop (R179). -/
def State.stopCores (s : State) (m : Nat) : State :=
  s.mapCores fun i k => if inMap m i then { k with stopping := true } else k

/-- A stop of a context's program: the first status stands; every stop but one of class C sets the faulted flag (R380). -/
def State.stopProgram (s : State) (c : CtxId) (st : Status) (cls progress fid : Nat) : State :=
  match s.ctx? c with
  | none => s
  | some x =>
    match x.exec with
    | none => if cls = 3 then s else s.putCtx c { x with faulted := true }
    | some e =>
      let e' := if e.stopSt.isNone then { e with stopSt := some (st, progress), cls := cls, faultId := fid } else e
      let s := s.putCtx c { x with faulted := x.faulted || cls ≠ 3, exec := some e' }
      if s.running = some c then s.stopCores e.coreMap else s

/-- Whether an operation of a program, rather than a media job, meets a held fault. -/
def HeldFault.byOp (f : HeldFault) : Bool :=
  match f.by_ with
  | .op .. => true
  | .job _ => false

/-- An EXEC ends: its STOP_AT values, the stopped state of its cores and the held faults of its operations with it, the
CONTEXT_STOPPED event of a stop, then the record (R226, R236, R277, R374, R393, R466). -/
def State.endExec (s : State) (c : CtxId) : State :=
  match s.ctx? c with
  | none => s
  | some x =>
    match x.exec with
    | none => s
    | some e =>
      let s := s.putCtx c { x with exec := none, stops := [], saved := none, held := x.held.filter fun f => !f.byOp, grad := { x.grad with waits := [] } }
      let s := if s.running = some c then s.mapCores fun i k => if inMap e.coreMap i then { k with stopping := false, stopped := false } else k
        else s
      match e.stopSt with
      | some (st, pr) =>
        let s := s.event c 0x06 st e.faultId [(24, 1, e.cls), (32, 8, pr), (40, 4, e.hdr.seq.toNat)]
        s.complete e.hdr st pr e.faultId
      | none => s.complete e.hdr (if e.nonfinite then .nonfiniteReduced else .done)

/-- A program stopped at once: its context does not run, or nothing of it is in progress. -/
def State.stopNow (s : State) (c : CtxId) (st : Status) (cls progress fid : Nat) : State :=
  (s.stopProgram c st cls progress fid).endExec c

/-- A class D fault record of a core's operation, and the stop of its program (R431). -/
def State.faultOp (s : State) (c : CtxId) (f : FaultInfo) (body : List (List Byte)) : State :=
  let (id, s) := s.logFault { f with ctx := c.val } body
  s.stopProgram c f.status f.cls f.progress id

end Sys2Proof.Machine
end

