-- ==== Sys2Proof/Machine/Real.lean ====
section
/-! DEFINITION. Real functions to more than 300 bits: e^x, ln x, powers and the normal distribution, in fixed point (R116, R117, R126 to
R132). Results are far closer to the exact value than any rounding or bound of the specification. -/

namespace Sys2Proof.Machine

open Sys2Proof

/-! ## Fixed point: integers in units of 2^−320 -/

def fxBits : Nat := 320
def fxOne : Int := 2 ^ fxBits
def fxMul (a b : Int) : Int := a * b / 2 ^ fxBits
def fxDiv (a b : Int) : Int := a * 2 ^ fxBits / b

/-- A finite value in fixed point; the other values are 0. -/
def fxOf : Num → Int
  | .fin neg m e =>
    let n : Int := if -(fxBits : Int) ≤ e then (m * 2 ^ (e + fxBits).toNat : Nat) else (m / 2 ^ (-(fxBits : Int) - e).toNat : Nat)
    if neg then -n else n
  | _ => 0
def fxNum (x : Int) : Num := Num.ofInt x (-(fxBits : Int))

/-- A fraction, rounded down. -/
def fxFrac (n d : Nat) : Int := (n * 2 ^ fxBits / d : Nat)

/-- The sum of `n` terms, where each next term is what `f` makes of its index and the term before it. -/
def fxSeries (f : Nat → Int → Int) : Nat → Nat → Int → Int → Int
  | 0, _, _, acc => acc
  | n + 1, i, t, acc => fxSeries f n (i + 1) (f (i + 1) t) (acc + t)

/-- ln 2 = Σ 1 / (k 2^k). -/
def fxLn2 : Int := (List.range 340).foldl (fun a i => a + (2 ^ fxBits / ((i + 1) * 2 ^ (i + 1)) : Nat)) 0

/-- atan(1 / k) for k ≥ 2. -/
def fxAtanInv (k : Nat) : Int :=
  (List.range 240).foldl (fun a i =>
    let t : Int := (2 ^ fxBits / ((2 * i + 1) * k ^ (2 * i + 1)) : Nat)
    if i % 2 = 0 then a + t else a - t) 0

/-- π by Machin's formula. -/
def fxPi : Int := 4 * (4 * fxAtanInv 5 - fxAtanInv 239)

/-- √x for x ≥ 0. -/
def fxSqrt (x : Int) : Int := (isqrt (x.toNat * 2 ^ fxBits) : Nat)

/-- e^r for |r| < 1. -/
def fxExpSmall (r : Int) : Int := fxSeries (fun i t => fxMul t r / i) 80 0 fxOne 0

/-- e^x: the reduced power and the power of two that it is multiplied by. -/
def fxExpParts (x : Int) : Int × Int :=
  let k := x / fxLn2
  (fxExpSmall (x - k * fxLn2), k)

/-- e^x in fixed point, for arguments of moderate size. -/
def fxExp (x : Int) : Int :=
  let p := fxExpParts x
  if 0 ≤ p.2 then p.1 * 2 ^ p.2.toNat else p.1 / 2 ^ (-p.2).toNat

/-- e^v for a value; beyond ±128 a value above and one below every format. -/
def Num.exp (v : Num) : Num :=
  match v with
  | .nan => .nan
  | .inf neg => if neg then .zero false else .inf false
  | .zero _ => .fin false 1 0
  | .fin neg m e =>
    if 7 ≤ floorLog2 m e then .fin false 1 (if neg then -400 else 400)
    else
      let p := fxExpParts (fxOf (.fin neg m e))
      (fxNum p.1).scale p.2

/-- ln of a positive value, by the series of atanh. -/
def Num.ln (v : Num) : Num :=
  match v with
  | .fin false m e =>
    let k := Nat.log2 m
    let z := fxOf (.fin false m (-(k : Int)))
    let y := fxDiv (z - fxOne) (z + fxOne)
    let y2 := fxMul y y
    let s := ((List.range 110).foldl (fun (a : Int × Int) i => (a.1 + a.2 / (2 * i + 1 : Nat), fxMul a.2 y2)) (0, y)).1
    fxNum (2 * s + (k + e) * fxLn2)
  | .inf false => .inf false
  | _ => .nan

/-- A positive value kept to 192 bits with a sticky bit below them. -/
def Num.trim (v : Num) : Num :=
  match v with
  | .fin neg m e =>
    let k := Nat.log2 m
    if k ≤ 192 then v
    else
      let d := k - 191
      .fin neg (2 * (m / 2 ^ d) + (if m % 2 ^ d = 0 then 0 else 1)) (e + d - 1)
  | v => v

/-- v^n by squaring over the `k` low bits of `n`, from the highest. -/
def Num.powBits (v : Num) (n : Nat) : Nat → Num → Num
  | 0, acc => acc
  | k + 1, acc =>
    let sq := (acc.mul acc).trim
    Num.powBits v n k (if bit n k then (sq.mul v).trim else sq)

/-- v^n, with v^0 = 1. -/
def Num.pow (v : Num) (n : Nat) : Num := Num.powBits v n (Nat.log2 n + 1) (.fin false 1 0)

/-! ## The functions of R116 in fixed point, for arguments up to 64 in magnitude -/

/-- σ(z) = 1 / (1 + e^(−z)). -/
def fxSigmoid (z : Int) : Int := fxDiv fxOne (fxOne + fxExp (-z))

/-- tanh z. -/
def fxTanh (z : Int) : Int :=
  let e := fxExp (2 * z)
  fxDiv (e - fxOne) (e + fxOne)

/-- φ(z) = e^(−z²/2) / √(2π). -/
def fxPhi (z : Int) : Int := fxDiv (fxExp (-(fxMul z z) / 2)) (fxSqrt (2 * fxPi))

/-- Φ(z) = ½ + φ(z) Σ z^(2n+1) / (1 · 3 · … · (2n + 1)), for |z| ≤ 16; 0 or 1 beyond. -/
def fxCdf (z : Int) : Int :=
  if 16 * fxOne < z then fxOne
  else if z < -16 * fxOne then 0
  else
    let z2 := fxMul z z
    fxOne / 2 + fxMul (fxPhi z) (fxSeries (fun i t => fxMul t z2 / (2 * i + 1 : Nat)) 700 0 z 0)

/-- 0.797 884 56 and 0.044715, 0.134145 of the tanh form of GELU. -/
def geluC : Int := fxFrac 79788456 100000000
def geluV (z : Int) : Int := fxMul geluC (z + fxMul (fxFrac 44715 1000000) (fxMul z (fxMul z z)))
def geluT (z : Int) : Int :=
  let v := geluV z
  if 128 * fxOne < v then fxOne else if v < -128 * fxOne then -fxOne else fxTanh v

/-- ln(1 + e^z). -/
def fxSoftplus (z : Int) : Num := (fxNum (fxOne + fxExp z)).ln

/-- f(z) of R116 for the functions that are not piecewise linear. -/
def fxAct (f : ActFunc) (z : Int) : Num :=
  match f with
  | .geluErf => fxNum (fxMul z (fxCdf z))
  | .geluTanh => fxNum (fxMul z (fxOne + geluT z) / 2)
  | .sigmoid => fxNum (fxSigmoid z)
  | .silu => fxNum (fxMul z (fxSigmoid z))
  | .tanh => fxNum (fxTanh z)
  | .softplus => fxSoftplus z
  | .relu => fxNum (max 0 z)
  | .sqRelu => fxNum (fxMul (max 0 z) (max 0 z))

/-- f′(z) of R116. -/
def fxActDeriv (f : ActFunc) (z : Int) : Num :=
  match f with
  | .geluErf => fxNum (fxCdf z + fxMul z (fxPhi z))
  | .geluTanh =>
    let t := geluT z
    fxNum ((fxOne + t) / 2 + fxMul (fxMul z (fxOne - fxMul t t) / 2) (fxMul geluC (fxOne + fxMul (fxFrac 134145 1000000) (fxMul z z))))
  | .sigmoid => let s := fxSigmoid z; fxNum (fxMul s (fxOne - s))
  | .silu => let s := fxSigmoid z; fxNum (fxMul s (fxOne + fxMul z (fxOne - s)))
  | .tanh => let t := fxTanh z; fxNum (fxOne - fxMul t t)
  | .softplus => fxNum (fxSigmoid z)
  | .relu => fxNum (if 0 < z then fxOne else 0)
  | .sqRelu => fxNum (2 * max 0 z)

end Sys2Proof.Machine
end

