-- ==== Sys2Proof/Machine/Func.lean ====
section
/-! DEFINITION. The functions of the pull pipeline and of the vector unit (R116, R117, R131). -/

namespace Sys2Proof

/-- The func code of an activation function (R168). -/
def ActFunc.code : ActFunc → Nat
  | .relu => 0 | .sqRelu => 1 | .geluErf => 2 | .geluTanh => 3 | .sigmoid => 4 | .silu => 5 | .tanh => 6 | .softplus => 7

end Sys2Proof

namespace Sys2Proof.Machine

open Sys2Proof

/-- The largest distance from the exact value that R117 allows: 4 units in the last place, or 2^−126. -/
def actTolerance (v : Num) : Num :=
  match v with
  | .fin _ m e => Num.max (.fin false 4 (max (floorLog2 m e - 23) (-149))) (.fin false 1 (-126))
  | _ => .fin false 1 (-126)

/-- The result of a stage-3 function with the exact value `v`: the unpublished bits where they lie within the bound. -/
def withinBound (v : Num) (bits : Nat) : Nat :=
  let y := f32 (bits % 2 ^ 32)
  if y.isFinite && v.isFinite && !(Num.lt (actTolerance v) (y.sub v).abs) then bits % 2 ^ 32 else toF32 v

/-- max(0, z). -/
def posPart (z : Num) : Num := if z.isNeg then .zero false else z

/-- f(z) of R116 for a finite z, to some 300 bits; beyond 64 the functions are their limits or z to far more than FP32 holds. -/
def actExact (f : ActFunc) (z : Num) : Num :=
  let big := Num.lt (.fin false 64 0) z.abs
  match f with
  | .relu => posPart z
  | .sqRelu => (posPart z).mul (posPart z)
  | .softplus => if Num.lt (.fin false 20 0) z then z else if big then .zero false else fxAct f (fxOf z)
  | .geluErf | .geluTanh | .silu => if big then (if z.isNeg then .zero true else z) else fxAct f (fxOf z)
  | .sigmoid => if big then (if z.isNeg then .zero false else .fin false 1 0) else fxAct f (fxOf z)
  | .tanh => if big then .fin z.isNeg 1 0 else fxAct f (fxOf z)

/-- f′(z) of R116 for a finite z. -/
def actDerivExact (f : ActFunc) (z : Num) : Num :=
  let big := Num.lt (.fin false 64 0) z.abs
  match f with
  | .relu => if Num.lt (.zero false) z then .fin false 1 0 else .zero false
  | .sqRelu => (posPart z).scale 1
  | .softplus | .geluErf | .geluTanh | .silu => if big then (if z.isNeg then .zero false else .fin false 1 0) else fxActDeriv f (fxOf z)
  | .sigmoid | .tanh => if big then .zero false else fxActDeriv f (fxOf z)

/-- f(z) of R116 on a finite input: the unpublished algorithm's bits, which lie within the bound of R117. -/
def actFinite (f : ActFunc) (z : Nat) : Nat := withinBound (actExact f (f32 z)) (Config.actBits f.code false z)

/-- f(z) of R116, with the special inputs of R117. -/
def act (f : ActFunc) (z : Nat) : Nat :=
  match f32 z with
  | .nan => f32Nan
  | .inf false => match f with
    | .sigmoid | .tanh => f32One
    | _ => fp32.signed false fp32.infMag
  | .inf true => match f with
    | .relu | .sqRelu | .sigmoid | .softplus => 0
    | .geluErf | .geluTanh | .silu => fp32.signed true 0
    | .tanh => f32Neg f32One
  | _ => actFinite f z

/-- f′(z) of R116, with the special inputs of R117. -/
def actDeriv (f : ActFunc) (z : Nat) : Nat :=
  match f32 z with
  | .nan => f32Nan
  | .inf false => match f with
    | .sqRelu => fp32.signed false fp32.infMag
    | .sigmoid | .tanh => 0
    | _ => f32One
  | .inf true => match f with
    | .geluErf | .geluTanh | .silu => fp32.signed (Config.limitSign f.code) 0
    | _ => 0
  | v => withinBound (actDerivExact f v) (Config.actBits f.code true z)

/-- e^x rounded once to FP32 (R125, R126, R131). -/
def f32Exp (x : Nat) : Nat := toF32 (f32 x).exp

/-- ln x rounded once to FP32 (R125, R128, R131). The specification gives no result at and below zero. -/
def f32Log (x : Nat) : Nat :=
  match f32 x with
  | .nan => f32Nan
  | .inf false => fp32.signed false fp32.infMag
  | .fin false m e => toF32 (Num.fin false m e).ln
  | _ => Config.logBits x % 2 ^ 32

/-- β^t rounded once to FP32 (R132). -/
def f32Pow (b t : Nat) : Nat := toF32 ((f32 b).pow t)

/-- An FP32 word as the device hands it on: a NaN loses its sign and payload (R34). -/
def f32Canon (w : Nat) : Nat := if f32 w == .nan then f32Nan else w

/-- 1 / √x, good enough for one correct rounding to at most 24 bits. -/
def Num.rsqrt : Num → Num
  | .nan => .nan
  | .zero b => .inf b
  | .inf false => .zero false
  | .inf true => .nan
  | .fin true _ _ => .nan
  | .fin false m e =>
    let odd := e % 2 = 1
    let m' := if odd then 2 * m else m
    let e' := if odd then e - 1 else e
    let k := 64 + Nat.log2 m'
    let r := isqrt (2 ^ (2 * k) / m')
    .fin false (2 * r + (if r * r * m' = 2 ^ (2 * k) then 0 else 1)) (-(e' / 2) - k - 1)

def f32Rsqrt (x : Nat) : Nat := toF32 (f32 x).rsqrt
def f32Recip (x : Nat) : Nat := f32Div f32One x

/-- The larger or smaller of two FP32 words: NaN when either is NaN, −0 below +0. -/
def f32Max (a b : Nat) : Nat :=
  match f32 a, f32 b with
  | .nan, _ => f32Nan
  | _, .nan => f32Nan
  | .zero x, .zero y => fp32.signed (x && y) 0
  | x, y => if x.lt y then b else a
def f32Min (a b : Nat) : Nat :=
  match f32 a, f32 b with
  | .nan, _ => f32Nan
  | _, .nan => f32Nan
  | .zero x, .zero y => fp32.signed (x || y) 0
  | x, y => if y.lt x then b else a

def f32Inf (neg : Bool) : Nat := fp32.signed neg fp32.infMag
def f32IsNan (a : Nat) : Bool := f32 a == .nan
def f32Finite (a : Nat) : Bool := (f32 a).isFinite
def f32Lt (a b : Nat) : Bool := (f32 a).lt (f32 b)
def f32Zero (a : Nat) : Bool := (f32 a).isZero

end Sys2Proof.Machine
end

