-- ==== Sys2Proof/Machine/Operands.lean ====
section
/-! DEFINITION. Operand forms: where the elements of a loop nest lie, how they are read and written, and which scratchpad lines
they touch (R35, R164 to R166). -/

namespace Sys2Proof

/-- Whether the strides of an operand count bits (R165). -/
def Fmt.packed (f : Fmt) : Bool := decide (f.bits < 8)

/-- Bytes of an element of a format of 8 bits or more. -/
def Fmt.bytes (f : Fmt) : Nat := f.bits / 8

/-- Iteration count of a level; an unused level runs once. -/
def OperandRec.count (r : OperandRec) (l : Nat) : Nat := if l < r.levels then r.counts.getD l 1 else 1

/-- Σ i_l × step_l. -/
def stepSum (idx : List Nat) (steps : List Int) : Int :=
  (idx.zip steps).foldl (fun a p => a + (p.1 : Int) * p.2) 0

/-- The bit at which the element of a loop index begins (R165). -/
def OperandRec.bitAt (r : OperandRec) (idx : List Nat) : Nat :=
  let s := stepSum idx r.strides
  Int.toNat (if r.fmt.packed then 8 * (r.base : Int) + s else 8 * ((r.base : Int) + s))

/-- The scale byte of the element of a loop index (R165). -/
def OperandRec.scaleAt (r : OperandRec) (idx : List Nat) : Nat :=
  let js := (idx.zip (List.range idx.length)).map fun p => if p.2 = r.blockLevel then p.1 / 32 else p.1
  Int.toNat ((r.scaleBase : Int) + stepSum js r.sstrides)

/-- Iterations of the levels `lo` and above. -/
def OperandRec.size (r : OperandRec) (lo : Nat) : Nat :=
  ((List.range 6).drop lo).foldl (fun a l => a * r.count l) 1

/-- The loop indices of the `n`-th iteration of the levels `lo` and above, the lowest innermost; lower levels at 0. -/
def OperandRec.indexFrom (r : OperandRec) (lo n : Nat) : List Nat :=
  ((List.range 6).foldl (fun (acc : List Nat × Nat) l =>
    if l < lo then (acc.1 ++ [0], acc.2) else (acc.1 ++ [acc.2 % r.count l], acc.2 / r.count l)) ([], n)).1

/-- The lowest and highest byte that an operand record can touch: elements and scale bytes; MX outputs reach the whole of every
block that they touch (R122, R166). `roundUp` lists levels whose count is taken up to a multiple of 32. -/
def OperandRec.bounds (r : OperandRec) (whole : Option Nat) : Int × Int :=
  let last := fun l => match whole with
    | some b => if b = l then roundUp32 (r.count l) - 1 else r.count l - 1
    | none => r.count l - 1
  let reach := fun (steps : List Int) (div : Nat → Nat → Nat) =>
    (List.range 6).foldl (fun (a : Int × Int) l =>
      let d : Int := (div l (last l) : Nat) * steps.getD l 0
      (a.1 + min d 0, a.2 + max d 0)) (0, 0)
  let e := reach r.strides fun _ n => n
  let base := if r.fmt.packed then 8 * (r.base : Int) else r.base
  let lo := if r.fmt.packed then (base + e.1) / 8 else base + e.1
  let hi := if r.fmt.packed then (base + e.2 + r.fmt.bits - 1) / 8 else base + e.2 + r.fmt.bytes - 1
  if r.fmt.isMx then
    let s := reach r.sstrides fun l n => if l = r.blockLevel then n / 32 else n
    (min lo (r.scaleBase + s.1), max hi (r.scaleBase + s.2))
  else (lo, hi)
where
  /-- `n` up to a multiple of 32. -/
  roundUp32 (n : Nat) : Nat := (n + 31) / 32 * 32

/-- A loop index kept within the counts of a record. -/
def OperandRec.clamp (r : OperandRec) (idx : List Nat) : List Nat :=
  (idx.zip (List.range idx.length)).map fun e => min e.1 (r.count e.2 - 1)

/-- Whether a row and a column of a tile are present in a record. -/
def OperandRec.hasCell (r : OperandRec) (i j : Nat) : Bool := decide (j < r.count 0) && decide (i < r.count 1)

end Sys2Proof

namespace Sys2Proof.Machine

open Sys2Proof

/-! ## Reading -/

/-- `n` bits that begin at bit `b` of a memory. -/
def readBits (m : Sparse Byte) (b n : Nat) : Nat := field (leNat (readBytes m (b / 8) ((b % 8 + n + 7) / 8))) (b % 8) n

/-- The bytes that `n` bits at bit `b` touch. -/
def bitBytes (b n : Nat) : List Nat := (List.range ((b % 8 + n + 7) / 8)).map fun i => b / 8 + i

end Sys2Proof.Machine

namespace Sys2Proof

open Machine

/-- The bytes that reading the element of a loop index touches, scale byte included. -/
def OperandRec.touch (r : OperandRec) (idx : List Nat) : List Nat :=
  bitBytes (r.bitAt idx) r.fmt.bits ++ (if r.fmt.isMx then [r.scaleAt idx] else [])

/-- The stored element of a loop index. -/
def OperandRec.raw (r : OperandRec) (m : Sparse Byte) (idx : List Nat) : Nat := readBits m (r.bitAt idx) r.fmt.bits

/-- The scale byte of a loop index; 0x7F for a format without scales. -/
def OperandRec.scale (r : OperandRec) (m : Sparse Byte) (idx : List Nat) : Nat :=
  if r.fmt.isMx then (sget 0 m (r.scaleAt idx)).toNat else 0x7F

/-- A stored element as the array takes it: its own value without block scale, NaN under a scale of 0xFF (R36, R50, R93). -/
def arrayNum (f : Fmt) (scale w : Nat) : Machine.Num := if f.isMx && scale == 255 then .nan else f.elem w

/-- An element as FP32: MX with its block scale, plain formats as stored (R56); a NaN is canonical (R34). R56 calls the conversion exact
and gives no result where element times block scale exceeds the range of FP32: DESIGN CHOICE, it enters as an infinity (see the log). -/
def OperandRec.word (r : OperandRec) (m : Sparse Byte) (idx : List Nat) : Nat :=
  let w := r.raw m idx
  match r.fmt with
  | .fp32 | .fp32x2 => f32Canon (w % 2 ^ 32)
  | f => if f.isMx then toF32 (mxValue f (r.scale m idx) w) else toF32 (f.elem w)

/-! ## Writing -/

end Sys2Proof

namespace Sys2Proof.Machine

open Sys2Proof

/-- `n` bits of a memory from bit `b` set to `v`. -/
def writeBits (m : Sparse Byte) (b n v : Nat) : Sparse Byte :=
  let len := (b % 8 + n + 7) / 8
  let old := leNat (readBytes m (b / 8) len)
  let new := old % 2 ^ (b % 8) + 2 ^ (b % 8) * (v % 2 ^ n) + old / 2 ^ (b % 8 + n) * 2 ^ (b % 8 + n)
  writeBytes m (b / 8) (leBytes len new)

/-- One element or scale byte on its way to the scratchpad: its first bit, its width, its value, and the cycle after the
issue at which it lands (R68, R70). -/
structure Put where
  bit : Nat
  n : Nat
  v : Nat
  lands : Nat
deriving DecidableEq, Repr, Inhabited

/-- Everything that lands, in order. -/
def applyPuts (m : Sparse Byte) : List Put → Sparse Byte
  | [] => m
  | p :: ps => applyPuts (writeBits m p.bit p.n p.v) ps

/-- The 128-byte line of a byte address. -/
def lineOf (a : Nat) : Nat := a / 128

/-- Entry `k` raised to at least `v`; lists of lines stay short. -/
def raiseTo (l : List (Nat × Nat)) (k v : Nat) : List (Nat × Nat) :=
  match assoc? k l with
  | some w => assocSet k (max v w) l
  | none => l ++ [(k, v)]

/-- The lines that puts write and the cycle at which the last of each lands (R70). -/
def putLines (ps : List Put) : List (Nat × Nat) :=
  ps.foldl (fun l p => (bitBytes p.bit p.n).foldl (fun l a => raiseTo l (lineOf a) p.lands) l) []

/-- The lines that a list of byte addresses touches. -/
def linesOf (as : List Nat) : List Nat := (as.map lineOf).dedup

end Sys2Proof.Machine

namespace Sys2Proof

open Machine

/-- A plain element written to the place of a loop index. -/
def OperandRec.put (r : OperandRec) (idx : List Nat) (v lands : Nat) : Put := ⟨r.bitAt idx, r.fmt.bits, v, lands⟩

/-- The scale byte of a loop index written. -/
def OperandRec.putScale (r : OperandRec) (idx : List Nat) (v lands : Nat) : Put := ⟨8 * r.scaleAt idx, 8, v, lands⟩

end Sys2Proof
end

