-- ==== Sys2Proof/Machine/Pull.lean ====
section
/-! DEFINITION. What the pull pipeline does to the values that pass through it (R110 to R123, R508). -/

namespace Sys2Proof.Machine

open Sys2Proof

/-- What a pull works on: its descriptor, the walk indices of its levels 2 to 5, the words of the tile that are present, its
side streams, and what it read at its issue. -/
structure PullIn where
  p : PullP
  walk : List Nat            -- loop indices with levels 0 and 1 at 0
  plateNo : Nat              -- plates pulled before by this operation (R48)
  rows : Nat                 -- rows and columns present (R508)
  cols : Nat
  word : Nat → Nat → Nat     -- FP32 word of row r, column c
  side0 : Nat → Nat → Nat
  side1 : Nat → Nat → Nat
  phi : Nat                  -- R114
  sOut : Nat                 -- scale of the record rec_out (R50)
  key : Nat
  epoch : Nat
  order : List Nat           -- rows in the order in which they arrive
  lands : Nat → Nat          -- cycle at which row r lands
  landsAll : Nat             -- cycle at which a column-orientation write lands
  oldTaps : List (List Nat)  -- the tap vectors before the pull, for merge mode (R121)

/-- The side-stream element with a role, at (r, c). -/
def PullIn.side (x : PullIn) (role : Role) (r c : Nat) : Nat :=
  if x.p.role0 = role then x.side0 r c else if x.p.role1 = role then x.side1 r c else 0

/-- The values of a word after stage 2, after stage 3, and du (R114, R115). -/
def PullIn.stages (x : PullIn) (r c : Nat) : Nat × Nat × Nat :=
  let v := x.word r c
  let v := if x.p.enScale then f32Mul v x.phi else v
  let v := if x.p.enAdd then f32Add v (x.side .add r c) else v
  if !x.p.enFunc then (v, v, 0)
  else match x.p.form with
    | .none => (v, v, 0)
    | .act => (v, act x.p.func v, 0)
    | .deriv => (v, f32Mul v (actDeriv x.p.func (x.side .pre r c)), 0)
    | .gateFwd => (v, f32Mul (act x.p.func v) (x.side .other r c), 0)
    | .gateBwd =>
      let g := x.side .gateG r c
      (v, f32Mul (f32Mul v (x.side .gateU r c)) (actDeriv x.p.func g), f32Mul v (act x.p.func g))

/-- The value that stage 5 converts for the main output, and for the second output (R118). -/
def PullIn.main (x : PullIn) (r c : Nat) : Nat := (x.stages r c).2.1
def PullIn.second (x : PullIn) (r c : Nat) : Nat :=
  match x.p.second with
  | .teePre => (x.stages r c).1
  | .gateDu => (x.stages r c).2.2
  | _ => (x.stages r c).2.1

/-! ## Conversion and write -/

/-- One output of a pull: its record, format, orientation, stochastic-rounding stream and values. -/
structure OutSpec where
  opRec : OperandRec
  fmt : Fmt
  col : Bool
  conv : Bool                -- stage 5 converts it; without stage 5 FP32 words are written as they are (R110)
  stream : Nat
  val : Nat → Nat → Nat

/-- The rounding mode of the element at (r, c) (R48). -/
def PullIn.rnd (x : PullIn) (o : OutSpec) (r c : Nat) : Rnd :=
  if x.p.sr then .sr (srValue x.key o.stream x.epoch (x.plateNo * 65536 + r * 256 + c)) else .rne

/-- The cycle at which the element at (r, c) lands (R68, R70). -/
def PullIn.landAt (x : PullIn) (o : OutSpec) (r : Nat) : Nat := if o.col then x.landsAll else x.lands r

/-- The loop index of the element at (r, c): level 0 walks columns, level 1 rows (R168); levels 2 to 5 stay within the output's counts. -/
def PullIn.index (x : PullIn) (o : OutSpec) (r c : Nat) : List Nat := ((o.opRec.clamp x.walk).set 0 c).set 1 r

/-- A plain element written (R50, R122). -/
def PullIn.putPlain (x : PullIn) (o : OutSpec) (r c : Nat) : Put :=
  let v := f32 (o.val r c)
  let v := if o.fmt.isF8 then v.mul (f32 x.sOut) else v
  let w := if o.conv then encodeTo o.fmt (x.rnd o r c) x.p.ieee v else o.val r c
  o.opRec.put (x.index o r c) w (x.landAt o r)

/-- The positions of an MX block: 32 columns of a row, or 32 rows of a column (R122). -/
def blockCells (col : Bool) (line b : Nat) : List (Nat × Nat) :=
  (List.range 32).map fun i => if col then (32 * b + i, line) else (line, 32 * b + i)

/-- The scale byte and elements of a block; absent positions enter as +0 (R45, R122). -/
def PullIn.block (x : PullIn) (o : OutSpec) (line b : Nat) : Nat × List Nat :=
  let cells := blockCells o.col line b
  let vs := cells.map fun rc => if rc.1 < x.rows && rc.2 < x.cols then f32 (o.val rc.1 rc.2) else .zero false
  mxBlock o.fmt x.p.sr (cells.map fun rc => match x.rnd o rc.1 rc.2 with
    | .sr u => u
    | .rne => 0) vs

/-- A whole MX block written: 32 elements and the scale byte (R122). -/
def PullIn.putBlock (x : PullIn) (o : OutSpec) (line b : Nat) : List Put :=
  let blk := x.block o line b
  let cells := blockCells o.col line b
  let at_ := fun (rc : Nat × Nat) => if o.col then x.landsAll else x.lands (min rc.1 (x.rows - 1))
  let first := cells.headD (0, 0)
  (o.opRec.putScale (x.index o first.1 first.2) blk.1 (at_ first)) ::
    (cells.zip blk.2).map fun e => o.opRec.put (x.index o e.1.1 e.1.2) e.2 (at_ e.1)

/-- The stored rows of an output, and the blocks along one of them; nothing beyond the output's counts is written (R166). -/
def PullIn.lines (x : PullIn) (o : OutSpec) : Nat := if o.col then min x.cols (o.opRec.count 0) else min x.rows (o.opRec.count 1)
def PullIn.blocks (x : PullIn) (o : OutSpec) : Nat :=
  ceilDiv (if o.col then min x.rows (o.opRec.count 1) else min x.cols (o.opRec.count 0)) 32

/-- Everything that one output writes. -/
def PullIn.puts (x : PullIn) (o : OutSpec) : List Put :=
  if o.fmt.isMx then
    (List.range (x.lines o)).flatMap fun l => (List.range (x.blocks o)).flatMap fun b => x.putBlock o l b
  else (List.range (min x.rows (o.opRec.count 1))).flatMap fun r => (List.range (min x.cols (o.opRec.count 0))).map fun c => x.putPlain o r c

/-- The main output and the second output, where the descriptor has them (R110, R118). -/
def PullIn.outMain (x : PullIn) : Option OutSpec :=
  if x.p.enWrite then x.p.out.map fun r => ⟨r, if x.p.enConv then x.p.outFmt else .fp32, x.p.orient, x.p.enConv, x.p.srStream.toNat, x.main⟩
  else none
def PullIn.outSecond (x : PullIn) : Option OutSpec :=
  match x.p.second, x.p.out2, x.p.out2Fmt with
  | .none, _, _ => none
  | _, some r, some f => some ⟨r, f, x.p.orient2, true, x.p.srStream.toNat ^^^ 0x80000000, x.second⟩
  | _, _, _ => none

/-! ## Reduction taps -/

/-- One level of a tree: neighbours joined, a value without a partner passed on through `alone` (R120, R508). -/
def treeLevel {α : Type} (join : α → α → α) (alone : α → α) : List (Option α) → List (Option α)
  | a :: b :: l => (match a, b with
    | some x, some y => some (join x y)
    | some x, none => some (alone x)
    | none, some y => some (alone y)
    | none, none => none) :: treeLevel join alone l
  | [a] => [a.map alone]
  | [] => []

/-- The fixed tree of `n` levels (R120, R126). -/
def treeFold {α : Type} (join : α → α → α) (alone : α → α) : Nat → List (Option α) → Option α
  | 0, l => l.headD none
  | n + 1, l => treeFold join alone n (treeLevel join alone l)

/-- The running combination of a column, in arrival order (R120). -/
def chainFold {α : Type} (join : α → α → α) (alone : α → α) : List α → Option α
  | [] => none
  | a :: l => some (l.foldl join (alone a))

/-- A triple of count, mean and sum of squared deviations, as FP32 words, and its merge (R120). -/
abbrev Triple := Nat × Nat × Nat

def mergeTriple (a b : Triple) : Triple :=
  if f32Zero a.1 then (if f32Zero b.1 then (0, 0, 0) else b) else if f32Zero b.1 then a
  else
    let n := f32Add a.1 b.1
    let d := f32Sub b.2.1 a.2.1
    let mu := f32Add a.2.1 (f32Mul d (f32Div b.1 n))
    let m2 := f32Add (f32Add a.2.2 b.2.2) (f32Div (f32Mul (f32Mul (f32Mul d d) a.1) b.1) n)
    (n, mu, m2)

/-- A tap over the present values of a lane: in the tree when `tree` gives the lane positions, else in order. -/
def tapOf {α : Type} (perRow : Bool) (join : α → α → α) (alone : α → α) (vs : List (Option α)) : Option α :=
  if perRow then treeFold join alone 8 vs else chainFold join alone (vs.filterMap id)

/-- The values of a lane: the 256 columns of a row, or the rows of a column in the order of arrival. -/
def PullIn.lane (x : PullIn) (k : Nat) : List (Option Nat) :=
  if x.p.tapAxis then
    if k < x.cols then x.order.map fun r => if r < x.rows then some (x.main r k) else none else []
  else (List.range 256).map fun c => if k < x.rows && c < x.cols then some (x.main k c) else none

def roundSq (v : Num) : Num := f32 (toF32 v)

/-- The number of MX blocks of the main output with scale 0xFF whose first element lies in lane `k` (R119). -/
def PullIn.badBlocks (x : PullIn) (k : Nat) : Nat :=
  match x.outMain with
  | none => 0
  | some o => if !o.fmt.isMx then 0 else
    ((List.range (x.lines o)).map fun l => ((List.range (x.blocks o)).filter fun b =>
      let first := (blockCells o.col l b).headD (0, 0)
      (if x.p.tapAxis then first.2 else first.1) == k && (x.block o l b).1 == 255).length).sum

/-- The two saturating 16-bit counts of the NONFINITE tap. -/
def packCounts (a b : Nat) : Nat := satAt 0xFFFF a + 65536 * satAt 0xFFFF b

/-- The selected tap vectors, entry `k` of each, in the order of R119. -/
def PullIn.tapEntry (x : PullIn) (k : Nat) : List Nat :=
  let vs := x.lane k
  let row := !x.p.tapAxis
  let sum := (tapOf row f32Add id vs).getD 0
  let sq := ((tapOf row (fun a b => roundSq (a.add b)) roundSq (vs.map fun v => v.map fun w => (f32 w).mul (f32 w))).map toF32).getD 0
  let mx := (tapOf row f32Max id vs).getD (f32Inf true)
  let am := (tapOf row f32Max id (vs.map fun v => v.map f32Abs)).getD 0
  let mv := (tapOf row mergeTriple id (vs.map fun v => v.map fun w => (f32One, w, 0))).getD (0, 0, 0)
  let nf := packCounts ((vs.filterMap id).filter fun w => !f32Finite w).length (x.badBlocks k)
  (if bit x.p.taps 0 then [sum] else []) ++ (if bit x.p.taps 1 then [sq] else []) ++ (if bit x.p.taps 2 then [mx] else []) ++
  (if bit x.p.taps 3 then [am] else []) ++ (if bit x.p.taps 4 then [mv.1, mv.2.1, mv.2.2] else []) ++
  (if bit x.p.taps 5 then [nf] else [])

/-- Merge mode: the existing entries as operand A (R121). -/
def mergeEntry (taps : Nat) (old new : List Nat) : List Nat :=
  let o := fun i => nthD 0 old i
  let n := fun i => nthD 0 new i
  let i1 := bitOf (bit taps 0)
  let i2 := i1 + bitOf (bit taps 1)
  let i3 := i2 + bitOf (bit taps 2)
  let i4 := i3 + bitOf (bit taps 3)
  let i5 := i4 + 3 * bitOf (bit taps 4)
  let mv := mergeTriple (o i4, o (i4 + 1), o (i4 + 2)) (n i4, n (i4 + 1), n (i4 + 2))
  (if bit taps 0 then [f32Add (o 0) (n 0)] else []) ++ (if bit taps 1 then [f32Add (o i1) (n i1)] else []) ++
  (if bit taps 2 then [f32Max (o i2) (n i2)] else []) ++ (if bit taps 3 then [f32Max (o i3) (n i3)] else []) ++
  (if bit taps 4 then [mv.1, mv.2.1, mv.2.2] else []) ++
  (if bit taps 5 then [packCounts (o i5 % 65536 + n i5 % 65536) (o i5 / 65536 + n i5 / 65536)] else [])

/-- How many 1 KiB vectors the selected taps fill. -/
def tapVectors (taps : Nat) : Nat :=
  bitOf (bit taps 0) + bitOf (bit taps 1) + bitOf (bit taps 2) + bitOf (bit taps 3) + 3 * bitOf (bit taps 4) + bitOf (bit taps 5)

/-- The first byte of the tap vectors of this tile. -/
def PullIn.tapBase (x : PullIn) (t : OperandRec) : Nat := t.bitAt (t.clamp x.walk) / 8

/-- Everything that the taps write; line k of a per-row vector clears at 310 − 32k (R121). -/
def PullIn.tapPuts (x : PullIn) : List Put :=
  match x.p.tap with
  | none => []
  | some t => if !x.p.enTaps then [] else
    (List.range 256).flatMap fun k =>
      let new := x.tapEntry k
      let es := if x.p.merge then mergeEntry x.p.taps (x.oldTaps.map fun v => nthD 0 v k) new else new
      let at_ := if x.p.tapAxis then x.landsAll else x.lands (k / 32 * 32)
      ((List.range es.length).zip es).map fun e => ⟨8 * (x.tapBase t + 1024 * e.1 + 4 * k), 32, e.2, at_⟩

/-- Everything that the pull writes to the scratchpad, but for the scale record. -/
def PullIn.allPuts (x : PullIn) : List Put :=
  (match x.outMain with
   | some o => x.puts o
   | none => []) ++
  (match x.outSecond with
   | some o => x.puts o
   | none => []) ++ x.tapPuts

/-- The absmax of the main output's values in the tensor's own units (R52). -/
def PullIn.absmax (x : PullIn) : Nat :=
  (List.range x.rows).foldl (fun a r => (List.range x.cols).foldl (fun a c => f32Max a (f32Abs (x.main r c))) a) 0

/-! ## Scale records -/

/-- Whether a scale record may be used: its reserved fields are 0 and its margin is in range (R51). -/
def recordOk (b : List Byte) : Bool :=
  let margin := fieldAt b 2 1
  bit (fieldAt b 1 1) 5 == false && bit (fieldAt b 1 1) 6 == false && bit (fieldAt b 1 1) 7 == false &&
  (margin ≤ 16 || 240 ≤ margin) && fieldAt b 3 1 == 0 && fieldAt b 84 44 == 0

/-- φ (R114). -/
def scaleFactor (alpha invA invB : Nat) : Nat := f32Mul (f32Mul alpha invA) invB

/-- ⌊log2(fmt_max / H)⌋; for an infinite H, −∞, which the clamp takes to −126 (R53). -/
def commitExp (fmtMax h : Nat) : Int :=
  match (Num.fin false fmtMax 0).div (f32 h) with
  | .fin _ m e => floorLog2 m e
  | _ => -1000

/-- SCALE_COMMIT on the 128 bytes of a record (R53). -/
def scaleCommit (b : List Byte) : List Byte :=
  let h := fieldAt b 12 4
  let bad := !f32Finite h
  let h := if bad then 0 else h
  let pos := fieldAt b 1 1 % 16
  let b := putAt b (20 + 4 * pos) (leBytes 4 h)
  let flags := fieldAt b 1 1
  let nf := bad || bit flags 4
  let b := putAt b 1 (leBytes 1 ((pos + 1) % 16 + 16 * bitOf nf))
  let top := (List.range 16).foldl (fun a i => f32Max a (fieldAt b (20 + 4 * i) 4)) 0
  let b := if Num.lt (.zero false) (f32 top) then
      let margin : Int := if 128 ≤ fieldAt b 2 1 then (fieldAt b 2 1 : Nat) - 256 else (fieldAt b 2 1 : Nat)
      let t := match fieldAt b 0 1 with
        | 0x10 => commitExp 448 top - margin
        | 0x11 => commitExp 57344 top - margin
        | code => (Config.mxCommitExp code top : Nat) - 126
      let t := max (-126) (min 127 t)
      putAt (putAt b 4 (leBytes 4 (toF32 (.fin false 1 t)))) 8 (leBytes 4 (toF32 (.fin false 1 (-t))))
    else b
  let b := putAt b 12 (leBytes 4 0)
  putAt b 16 (leBytes 4 ((fieldAt b 16 4 + 1) % 2 ^ 32))

/-- A merge of `a` into pending_amax (R52). -/
def mergeAmax (b : List Byte) (a : Nat) : List Byte := putAt b 12 (leBytes 4 (f32Max (fieldAt b 12 4) a))

end Sys2Proof.Machine
end

