-- ==== Sys2Proof/Machine/RowVec.lean ====
section
/-! DEFINITION. The arithmetic of the row unit (R125 to R130) and of the vector unit (R131 to R134, R150). Everything is in FP32
words; every operation rounds by RNE. -/

namespace Sys2Proof.Machine

open Sys2Proof

/-! ## Row unit -/

/-- The 64 lanes of a pass; a lane that no element has reached holds nothing (R126). -/
abbrev Lanes := List (Option (List Nat))

def Lanes.empty : Lanes := List.replicate 64 none

/-- Element `k` with its leaf value enters its lane. -/
def Lanes.enter (join : List Nat → List Nat → List Nat) (ls : Lanes) (k : Nat) (leaf : List Nat) : Lanes :=
  ls.set (k % 64) (some (match ls.getD (k % 64) none with
    | some v => join v leaf
    | none => leaf))

/-- The 64 lane results combined in the fixed tree (R126). -/
def Lanes.total (join : List Nat → List Nat → List Nat) (ls : Lanes) : List Nat := (treeFold join id 6 ls).getD []

/-- exp(a − m), with exp(−∞ − m) = 0 also where m is −∞. -/
def expDiff (a m : Nat) : Nat := if f32 a == .inf true then 0 else f32Exp (f32Sub a m)

/-- Online softmax states: maximum and rescaled sums (R126, R127). -/
def joinSoft (a b : List Nat) : List Nat :=
  let m := f32Max (nthD 0 a 0) (nthD 0 b 0)
  let ea := expDiff (nthD 0 a 0) m
  let eb := expDiff (nthD 0 b 0) m
  m :: ((a.drop 1).zip (b.drop 1)).map fun p => f32Add (f32Mul p.1 ea) (f32Mul p.2 eb)

def joinAdd (a b : List Nat) : List Nat := (a.zip b).map fun p => f32Add p.1 p.2

def one? (y : Nat) : Nat := if f32 y == .inf true then 0 else f32One

/-- What an element brings to pass 1: its input words `i`, τ. -/
def RowFunc.leaf (f : RowFunc) (tau : Nat) (i : List Nat) : List Nat :=
  let x := nthD 0 i 0
  let y := nthD 0 i 1
  match f with
  | .rmsFwd => [f32Mul x x]
  | .lnFwd => [f32One, x, 0]
  | .smFwd => let z := f32Div x tau; [z, one? z]
  | .rmsBwd | .lnBwd =>
    let g := f32Mul y (nthD 0 i 2)
    (if f = .rmsBwd then [f32One, 0, f32Mul x x] else [f32One, x, 0]) ++ [g, f32Mul g x]
  | .smBwd => let z := f32Div x tau; [z, one? z, f32Mul (one? z) y]
  | .online => [x]
  | .kl =>
    let s := f32Div x tau
    let t := f32Div y tau
    [s, one? s, t, one? t, f32Mul (one? t) (f32Div (f32Sub y x) tau)]
  | .mse => let d := f32Sub x y; [f32Mul d d]
  | .cosine => [f32Mul x y, f32Mul x x, f32Mul y y]

/-- How two partial results of pass 1 combine. -/
def RowFunc.join (f : RowFunc) (a b : List Nat) : List Nat :=
  match f with
  | .smFwd | .smBwd => joinSoft a b
  | .lnFwd =>
    let t := mergeTriple (nthD 0 a 0, nthD 0 a 1, nthD 0 a 2) (nthD 0 b 0, nthD 0 b 1, nthD 0 b 2)
    [t.1, t.2.1, t.2.2]
  | .lnBwd =>
    let t := mergeTriple (nthD 0 a 0, nthD 0 a 1, nthD 0 a 2) (nthD 0 b 0, nthD 0 b 1, nthD 0 b 2)
    [t.1, t.2.1, t.2.2] ++ joinAdd (a.drop 3) (b.drop 3)
  | .online => [f32Max (nthD 0 a 0) (nthD 0 b 0)]
  | .kl => joinSoft (a.take 2) (b.take 2) ++ joinSoft (a.drop 2) (b.drop 2)
  | .rmsFwd | .rmsBwd | .mse | .cosine => joinAdd a b

/-- 1 / √(v + ε), one rounding per step. -/
def invStd (v eps : Nat) : Nat := f32Div f32One (f32Sqrt (f32Add v eps))

/-- The totals of pass 1 turned into what pass 2 uses; `st` is the incoming state of an online-softmax row (R127 to R129). -/
def RowFunc.finish (f : RowFunc) (n : Nat) (eps : Nat) (st : List Nat) (t : List Nat) : List Nat :=
  let w := fun i => nthD 0 t i
  let fn := f32OfNat n
  match f with
  | .rmsFwd => [invStd (f32Div (w 0) fn) eps]
  | .lnFwd => [w 1, invStd (f32Div (w 2) fn) eps]
  | .smFwd => [w 0, w 1]
  | .rmsBwd | .lnBwd =>
    let r := invStd (f32Div (w 2) fn) eps
    let mu := if f = .rmsBwd then 0 else w 1
    [mu, r, f32Div (w 3) fn, f32Div (f32Mul r (f32Sub (w 4) (f32Mul mu (w 3)))) fn]
  | .smBwd => [w 0, w 1, f32Div (w 2) (w 1)]
  | .online =>
    let m := nthD 0 st 0
    let m' := f32Max m (w 0)
    let dead := f32 m' == .inf true
    [m', if dead then f32One else expDiff m m', nthD 0 st 1]
  | .kl | .mse | .cosine => t

/-- The value that pass 2 writes for an element, by output, before the output rounding; `acc` are the column accumulators. -/
def RowFunc.elem (f : RowFunc) (tau n w : Nat) (fin i acc : List Nat) : List Nat :=
  let x := nthD 0 i 0
  let y := nthD 0 i 1
  let g := nthD 0 fin
  let fn := f32OfNat n
  match f with
  | .rmsFwd => [f32Mul (f32Mul x (g 0)) y]
  | .lnFwd => [f32Add (f32Mul (f32Mul (f32Sub x (g 0)) (g 1)) y) (nthD 0 i 2)]
  | .smFwd => [f32Div (expDiff (f32Div x tau) (g 0)) (g 1)]
  | .rmsBwd | .lnBwd =>
    let xh := f32Mul (f32Sub x (g 0)) (g 1)
    let dx := f32Mul (g 1) (f32Sub (f32Sub (f32Mul y (nthD 0 i 2)) (g 2)) (f32Mul xh (g 3)))
    [dx, f32Add (nthD 0 acc 0) (f32Mul y xh)] ++ (if f = .lnBwd then [f32Add (nthD 0 acc 1) y] else [])
  | .smBwd =>
    let p := f32Div (expDiff (f32Div x tau) (g 0)) (g 1)
    [f32Mul (f32Div p tau) (f32Sub y (g 2))]
  | .online => [if f32 (g 0) == .inf true then 0 else expDiff x (g 0)]
  | .kl =>
    let q := f32Div (expDiff (f32Div x tau) (g 0)) (g 1)
    let p := f32Div (expDiff (f32Div y tau) (g 2)) (g 3)
    [f32Mul (f32Mul w tau) (f32Sub q p)]
  | .mse => [f32Mul (f32Mul w (f32Div (f32OfNat 2) fn)) (f32Sub x y)]
  | .cosine =>
    let ns := f32Sqrt (g 1)
    let nt := f32Sqrt (g 2)
    if f32Zero (g 1) || f32Zero (g 2) then [0]
    else
      let a := f32Div y (f32Mul ns nt)
      let b := f32Div (f32Mul (g 0) x) (f32Mul (f32Mul (f32Mul ns ns) ns) nt)
      [f32Mul (f32Neg w) (f32Sub a b)]

/-- The per-row outputs after pass 2: the loss of a loss row, c, m and l of an online row. `ps` is the sum of its p. -/
def RowFunc.perRow (f : RowFunc) (tau n w : Nat) (fin : List Nat) (ps : Nat) : List Nat :=
  let g := nthD 0 fin
  match f with
  | .kl =>
    let a := f32Div (g 4) (g 3)
    let lnp := f32Add (g 2) (f32Log (g 3))
    let lnq := f32Add (g 0) (f32Log (g 1))
    [f32Mul (f32Mul w (f32Mul tau tau)) (f32Add (f32Sub a lnp) lnq)]
  | .mse => [f32Mul (f32Mul w (f32Div f32One (f32OfNat n))) (g 0)]
  | .cosine =>
    if f32Zero (g 1) || f32Zero (g 2) then [w]
    else [f32Mul w (f32Sub f32One (f32Div (g 0) (f32Mul (f32Sqrt (g 1)) (f32Sqrt (g 2)))))]
  | .online => [g 1, g 0, f32Add (f32Mul (g 2) (g 1)) ps]
  | _ => []

/-- Inputs and outputs of a row function, in the order of the table of R126: how many inputs walk the elements of every row,
how many are vectors along the row, how many are one value per row; the same of the outputs. -/
structure RowShape where
  perElem : Nat
  perCol : Nat
  perRow : Nat
  outElem : Nat
  outCol : Nat
  outRow : Nat
deriving DecidableEq, Repr

def RowFunc.shape : RowFunc → RowShape
  | .rmsFwd => ⟨1, 1, 0, 1, 0, 0⟩
  | .lnFwd => ⟨1, 2, 0, 1, 0, 0⟩
  | .smFwd => ⟨1, 0, 0, 1, 0, 0⟩
  | .rmsBwd => ⟨2, 1, 0, 1, 1, 0⟩
  | .lnBwd => ⟨2, 1, 0, 1, 2, 0⟩
  | .smBwd => ⟨2, 0, 0, 1, 0, 0⟩
  | .online => ⟨1, 0, 2, 1, 0, 3⟩
  | .kl | .mse | .cosine => ⟨2, 0, 0, 1, 0, 1⟩

/-- Where the outputs stand among the records: a loss vector comes before ds (R126). -/
def RowFunc.lossFirst : RowFunc → Bool
  | .kl | .mse | .cosine => true
  | _ => false

/-- The duration of a ROW of `r` rows of `n` elements, all with P = 2 (R126). -/
def rowCycles (r n : Nat) : Nat :=
  if n ≤ 16384 then 52 + r * (2 * ceilDiv n 64) + 40 else r * 2 * (52 + ceilDiv n 64) + 40

/-! ## Vector unit -/

/-- The words of a param block (R169). -/
structure VecParams where
  lr : Nat
  b1 : Nat
  b2 : Nat
  eps : Nat
  lambda : Nat
  gammaS : Nat
  maxNorm : Nat
  clip : Nat
  t : Nat
deriving DecidableEq, Repr

/-- Elements per C-cycle (R131); SCALE_COMMIT counts records. -/
def VecFunc.rate : VecFunc → Nat
  | .add | .sub | .mul | .fma | .min | .max | .abs | .neg | .convert | .accAdd | .clip => 64
  | .exp | .log | .recip | .rsqrt | .act _ | .split3 | .lion | .sgd | .nesterov => 32
  | .adamW => 16
  | .scaleCommit => 1

/-- The duration of a VEC over `e` elements (R131, R173). -/
def vecCycles (f : VecFunc) (e : Nat) : Nat :=
  match f with
  | .scaleCommit => 52 + 64 * e + 24
  | f => 52 + ceilDiv e (VecFunc.rate f) + 24

/-- 1 − β^t. -/
def biasCorr (b t : Nat) : Nat := f32Sub f32One (f32Pow b t)

/-- The sign of an FP32 word, with sign(0) = 0 (R132). -/
def f32Sign (a : Nat) : Nat :=
  match f32 a with
  | .nan => f32Nan
  | .zero _ => 0
  | v => if v.isNeg then f32Neg f32One else f32One

/-- One optimizer step: the new w and the new moments, from g_in, the moments and w (R132). -/
def optStep (f : VecFunc) (p : VecParams) (g0 : Nat) (mom : List Nat) (w : Nat) : Nat × List Nat :=
  let g := f32Mul (f32Mul g0 p.gammaS) p.clip
  let m := nthD 0 mom 0
  let v := nthD 0 mom 1
  match f with
  | .adamW =>
    let m' := f32Add (f32Mul p.b1 m) (f32Mul (f32Sub f32One p.b1) g)
    let v' := f32Add (f32Mul p.b2 v) (f32Mul (f32Sub f32One p.b2) (f32Mul g g))
    let mh := f32Div m' (biasCorr p.b1 p.t)
    let vh := f32Div v' (biasCorr p.b2 p.t)
    let upd := f32Div (f32Mul p.lr mh) (f32Add (f32Sqrt vh) p.eps)
    (f32Sub (f32Sub w upd) (f32Mul (f32Mul p.lr p.lambda) w), [m', v'])
  | .lion =>
    let u := f32Sign (f32Add (f32Mul p.b1 m) (f32Mul (f32Sub f32One p.b1) g))
    (f32Sub w (f32Mul p.lr (f32Add u (f32Mul p.lambda w))),
      [f32Add (f32Mul p.b2 m) (f32Mul (f32Sub f32One p.b2) g)])
  | f =>
    let b := f32Add (f32Mul p.b1 m) g
    let d := if f = .nesterov then f32Add g (f32Mul p.b1 b) else b
    (f32Sub w (f32Mul p.lr (f32Add d (f32Mul p.lambda w))), [b])

def VecFunc.isOpt : VecFunc → Bool
  | .adamW | .lion | .sgd | .nesterov => true
  | _ => false

/-- BF16 rounding to nearest in an overflow mode, as an FP32 word; a non-finite word stays non-finite (R79). -/
def bf16Part (ieee : Bool) (x : Nat) : Nat := toF32 (bf16.decode (bf16.encode .rne (ieee || !(f32 x).isFinite) (f32 x)))

/-- hi, mid and lo of SPLIT3 as FP32 words (R79), each rounded in the operation's overflow mode. -/
def split3 (ieee : Bool) (x : Nat) : List Nat :=
  let hi := bf16Part ieee x
  let r := f32Sub x hi
  let mid := bf16Part ieee r
  [hi, mid, bf16Part ieee (f32Sub r mid)]

/-- The FP32 result of an elementwise function; `old` is what the destination holds (R131). -/
def VecFunc.value (f : VecFunc) (i : List Nat) (old : Nat) : Nat :=
  let x := nthD 0 i 0
  let y := nthD 0 i 1
  match f with
  | .add => f32Add x y
  | .sub => f32Sub x y
  | .mul => f32Mul x y
  | .fma => f32Fma x y (nthD 0 i 2)
  | .min => f32Min x y
  | .max => f32Max x y
  | .abs => f32Abs x
  | .neg => f32Neg x
  | .accAdd => f32Add old x
  | .exp => f32Exp x
  | .log => f32Log x
  | .recip => f32Recip x
  | .rsqrt => f32Rsqrt x
  | .act a => act a x
  | _ => x

/-- c of CLIP from the sums of squares; a norm that is not finite gives a factor that is not finite (R133). -/
def clipFactor (maxNorm : Nat) (sums : List Nat) : Nat :=
  let g := f32Sqrt (match sums with
    | [] => 0
    | s :: l => l.foldl f32Add s)
  let c := f32Div maxNorm (f32Add g (toF32 ((Num.fin false 1 0).div (.fin false 1000000 0))))
  match f32 g with
  | .nan => f32Nan
  | .inf _ => if Config.clipNan then f32Nan else f32Inf false
  | _ => f32Min f32One c

/-- One element over the slots of a GRAD_GATHER, slot 0 first, added to the destination when it accumulates (R150). -/
def gatherSum (dest : Option Nat) (slots : List Nat) : Nat :=
  let acc := match slots with
    | [] => 0
    | s :: l => l.foldl f32Add s
  match dest with
  | some d => f32Add d acc
  | none => acc

end Sys2Proof.Machine
end

