-- ==== Sys2Proof/Machine/Sequencer.lean ====
section
/-! DEFINITION. The sequencer of a core: which queue head is eligible, issue, end and completion of operations, signals, and the
wet-ink check (R152 to R155, R161 to R163, R172 to R189). -/

namespace Sys2Proof

/-- The AKI opcodes (R162). -/
def AkiOp.code : AkiOp → Nat
  | .outer _ => 0x01 | .pull _ => 0x02 | .preload _ => 0x03 | .stylus _ => 0x04 | .vec _ => 0x05 | .row _ => 0x06
  | .move _ => 0x10 | .mcast _ => 0x11 | .atomicAdd _ => 0x12
  | .stashPush _ => 0x20 | .stashPop _ => 0x21 | .gradGather _ => 0x22
  | .bucketSend _ => 0x30 | .signal => 0x40 | .wait => 0x41 | .barrier _ => 0x42 | .clipDraw _ => 0x50 | .stopMark _ => 0x7F

/-- The epoch counter that an operation names (R186). -/
def AkiOp.epochCtr : AkiOp → Fin 64
  | .pull p => p.epochCtr
  | .outer p => (p.att.map fun a => a.epochCtr).getD 0
  | .stylus p => p.pull.epochCtr
  | .vec p => p.epochCtr
  | .gradGather p => p.epochCtr
  | _ => 0

end Sys2Proof

/-! ## Sizes -/

namespace Sys2Proof

open Machine

/-- Loop products: iterations of levels `lo` to `hi − 1` of a record. -/
def levelsSize (r : OperandRec) (lo hi : Nat) : Nat :=
  ((List.range hi).drop lo).foldl (fun a l => a * r.count l) 1

/-- Reduction length and bites per tile of an OUTER (R86, R166). -/
def OuterP.k (p : OuterP) : Nat := levelsSize p.a 1 p.tileLevel
def OuterP.bites (p : OuterP) : Nat := max 1 (ceilDiv (p.k) 32)
def OuterP.tiles (p : OuterP) : Nat := p.a.size p.tileLevel

end Sys2Proof

namespace Sys2Proof.Machine

open Sys2Proof

/-! ## Counters -/

def ctrKey (c : CoreId) (k : Fin 64) : Nat := 64 * c.val + k.val
def Ctx.counter (x : Ctx) (c : CoreId) (k : Fin 64) : Nat := (sget 0 x.counters (ctrKey c k)).toNat
def Ctx.setCounter (x : Ctx) (c : CoreId) (k : Fin 64) (v : Nat) : Ctx :=
  { x with counters := sset 0 x.counters (ctrKey c k) (BitVec.ofNat 32 v) }

/-- The wrap-safe comparison: c − t is not negative (R185). -/
def waitMet (c t : Nat) : Bool := (c + 2 ^ 32 - t % 2 ^ 32) % 2 ^ 32 < 2 ^ 31

/-- Whether the wait condition of a descriptor is met on its core. -/
def Ctx.met (x : Ctx) (c : CoreId) (d : Desc) : Bool := !d.waitEn || waitMet (x.counter c d.waitCtr) d.waitTarget.toNat

/-! ## Queues -/

/-- Whether a queue's head is eligible (R152, R192). -/
def Queue.eligible (q : Queue) (x : Ctx) (c : CoreId) : Bool :=
  match q.ops with
  | [] => false
  | d :: _ =>
    match q.wait with
    | .held _ | .broken | .wet _ | .barrier | .reentry => false
    | .released => q.run.isNone
    | .none | .counter =>
      match q.run with
      | some r => r.suspended && (r.outcome.isNone || r.outcome == some .ok)
      | none => match d.op with
        | .barrier _ => false
        | _ => x.met c d

/-- The eligible queue of the highest priority: Q3 first (R153). -/
def Core.pick (k : Core) (x : Ctx) (c : CoreId) : Option QueueId :=
  ([3, 2, 1, 0] : List QueueId).find? fun q => (k.queue q).eligible x c

/-- A wait that begins at device time `now` under the limit then in force (R196). -/
def Queue.beginWait (q : Queue) (kind : WaitKind) (limit now : Nat) : Queue :=
  { q with wait := kind, waitUs := 0, waitFrom := some now, waitLimit := limit }

/-- What a queue's new head waits for when it is not eligible, with the limit then in force (R196). -/
def Queue.newHead (q : Queue) (x : Ctx) (c : CoreId) (limit now : Nat) : Queue :=
  let q := { q with run := none, wait := .none, waitUs := 0, waitFrom := none, waitLimit := limit }
  match q.ops with
  | [] => q
  | d :: _ => if x.met c d then q else q.beginWait .counter limit now

/-- Whether a queue is in a wait that is measured (R196). -/
def Queue.waits (q : Queue) : Bool :=
  match q.wait with
  | .counter | .barrier | .reentry | .wet _ => true
  | _ => false

/-- The measured length of a queue's wait at device time `now`: time in which the context runs and the core is not frozen, so `a`
sixteenths of it under rationing and none of it during a reclaim (R196, R202, R476). -/
def Core.measured (k : Core) (now : Nat) (q : Queue) : Nat :=
  q.waitUs + match q.waitFrom with
    | some f => if k.pw.reclaiming then 0 else (now - f) * min 16 k.pw.allowance / 16
    | none => 0

/-- What a core's waits have come to is kept, and they are measured on from `now` where `runs`. -/
def Core.bankWaits (k : Core) (now : Nat) (runs : Bool) : Core :=
  { k with queues := k.queues.map fun q => { q with waitUs := k.measured now q, waitFrom := if runs && q.waits then some now else none } }

/-- The waits of every core kept at the device time of the state. -/
def State.bankWaits (s : State) (runs : Bool) : State := s.mapCores fun _ k => k.bankWaits s.timeNs runs

/-- The core and context of the running program in which a core may act: the core is in the map, its die serves, and neither
the core nor the context is stopping, stopped or frozen. -/
def State.acting (s : State) (c : CoreId) : Option (CtxId × Ctx × Exec) :=
  if !s.ticking || s.fenced (.c c.die) then none
  else
    let k := s.core c
    if k.stopping || k.stopped || k.pw.reclaiming then none
    else match s.runCtx with
      | some (n, x) => match x.exec with
        | some e => if inMap e.coreMap c && e.stopSt.isNone && !x.faulted then some (n, x, e) else none
        | none => none
      | none => none

/-- An operation in progress on a core. -/
structure Cur where
  ctx : CtxId
  x : Ctx
  exec : Exec
  q : QueueId
  desc : Desc
  run : Run

/-- The operation that occupies a core and has not ended; the core is not frozen. A core that is asked to stop still finishes
the unit in hand (R179). -/
def State.current (s : State) (c : CoreId) : Option Cur :=
  if !s.ticking || s.fenced (.c c.die) || (s.core c).pw.reclaiming then none
  else match (s.core c).cur, s.runCtx with
    | some q, some (n, x) =>
      match x.exec, ((s.core c).queue q).ops, ((s.core c).queue q).run with
      | some e, d :: _, some r => if r.outcome.isNone then some ⟨n, x, e, q, d, r⟩ else none
      | _, _, _ => none
    | _, _ => none

/-- The current operation of a core where it is `op` and may take further units. -/
def State.currentIs (s : State) (c : CoreId) (op : AkiOp) : Option Cur :=
  match s.current c with
  | some u => if u.desc.op = op && !(s.core c).stopping && u.exec.stopSt.isNone &&
      (match ((s.core c).queue u.q).wait with
       | .wet _ | .held _ => false
       | _ => true) then some u else none
  | none => none

/-- The current operation of a core where it is `op`, a PULL or PRELOAD, which runs to completion even when a stop is requested
(R179). -/
def State.currentRun (s : State) (c : CoreId) (op : AkiOp) : Option Cur :=
  match s.current c with
  | some u => if u.desc.op = op && (match ((s.core c).queue u.q).wait with
       | .wet _ | .held _ => false
       | _ => true) then some u else none
  | none => none

def State.setRun (s : State) (c : CoreId) (q : QueueId) (r : Run) : State := s.modQueue c q fun k => { k with run := some r }

/-! ## Clocks and stalls -/

/-- C-cycles charged to a cause (R455). -/
def CoreCounters.charge (k : CoreCounters) (cause : Fin 16) (n : Nat) : CoreCounters :=
  { k with stall := vmod k.stall cause fun v => (v + n) % 2 ^ 48 }
def CoreCounters.work (k : CoreCounters) (n : Nat) : CoreCounters := { k with busy := (k.busy + n) % 2 ^ 48 }

def State.charge (s : State) (c : CoreId) (cause : Fin 16) (n : Nat) : State :=
  s.modCore c fun k => { k with ctr := k.ctr.charge cause n }

/-- A core after `n` cycles in which it was not frozen: of every block of 16 C-cycles it runs the first `a` and is frozen for the
others, which count as POWER_RATION (R26, R455, R476). -/
def Core.passed (k : Core) (n : Nat) : Core :=
  let a := max 1 (min 16 k.pw.allowance)
  let run := k.pw.blockPos + n
  let pw := { k.pw with blockPos := run % a }
  { k with cyc := k.cyc + n, pw := pw, ctr := if a = 16 then k.ctr else k.ctr.charge 9 (run / a * (16 - a)) }

/-- The clock of a core moved up to a cycle; the cycles count as BUSY. -/
def State.busyTo (s : State) (c : CoreId) (t : Nat) : State :=
  s.modCore c fun k => if k.cyc < t then { k.passed (t - k.cyc) with ctr := (k.passed (t - k.cyc)).ctr.work (t - k.cyc) } else k

/-- The clock of a core moved up to a cycle; the cycles count under a stall cause. -/
def State.stallTo (s : State) (c : CoreId) (cause : Fin 16) (t : Nat) : State :=
  s.modCore c fun k => if k.cyc < t then { k.passed (t - k.cyc) with ctr := (k.passed (t - k.cyc)).ctr.charge cause (t - k.cyc) } else k

/-- A plate whose pull has reached cycle 257 is free (R68, R73). -/
def Core.settle (k : Core) (t : Nat) : Core :=
  match k.shift with
  | some sh =>
    if sh.start + 257 ≤ t then
      { k with shift := none, plate := k.plate.map fun p => if p.st = .shifting then { p with st := .free, dword := false } else p }
    else k
  | none => k

/-- The tile that a transfer of the core waits for, for the stall causes of transfers. -/
def Piece.waitsTag (p : Piece) : Bool := p.st == .waitRead || p.st == .waitWrite

/-- Tags of a bed in use for a pseudo-channel (R215). -/
def Bed.pcTags (b : Bed) (stack : Fin 3) (pc : Fin 64) : Nat := (b.tags.filter fun t => t.stack == stack && t.pc == pc).length

/-- The stack and pseudo-channel of a bed offset, as the bed numbers them. -/
def stackOf (off : Nat) : Fin 3 := ⟨(stackPc off).1 % 3, by omega⟩
def pcOf (off : Nat) : Fin 64 := ⟨(stackPc off).2 % 64, by omega⟩

/-- The bed place at which a piece waits for its tag. -/
def Piece.tagPlace (p : Piece) : Option (Nat × Nat) :=
  match p.st, p.src, p.dst with
  | .waitRead, .hbm b o, _ => some (b.val, o)
  | .waitWrite, _, .hbm b o => some (b.val, o)
  | _, _, _ => none

/-- Whether a piece waits at a per-pseudo-channel cap (R215). -/
def State.atCap (s : State) (p : Piece) : Bool :=
  match p.tagPlace with
  | some (b, o) => 32 ≤ (s.bed ⟨b % 4, by omega⟩).pcTags (stackOf o) (pcOf o)
  | none => false

/-- Whether a scheduled tile waits for its slot, in a stop or in its engine (R252). -/
def State.rasterWait (s : State) (x : Xfer) : Bool :=
  x.flow.isSome && (x.pieces.any (fun p => p.st == .waitStop) || s.fabric.pkts.any fun p => p.xfer == x.id && (match p.pos with
    | .queued _ _ => true
    | .flying _ => false))

/-- The cause under which a cycle of a core that issues nothing counts, by the precedence of R455. -/
def State.idleCause (s : State) (c : CoreId) (x : Ctx) : Fin 16 :=
  let k := s.core c
  let qs := allQueues.map k.queue
  let wet := qs.any fun q => match q.wait with
    | .wet _ => true
    | _ => false
  let held := qs.any fun q => match q.wait with
    | .held _ => true
    | _ => false
  let xf := (k.cur.bind fun q => ((k.queue q).run.bind fun r => r.xfer)).bind fun i => s.fabric.xfers.find? fun f => f.id == i
  let op : Option AkiOp := (k.cur.bind fun q => ((k.queue q).ops.head?)).map fun d => d.op
  match k.idleAs with
  | some cause => cause
  | none =>
  if k.pw.reclaiming then 9
  else if wet then 15
  else if held && (k.pick x c).isNone && k.cur.isNone then 8
  else match xf with
    | some f =>
      if f.pieces.any s.atCap then 6
      else if f.pieces.any Piece.waitsTag then 5
      else if s.rasterWait f then 7
      else match op with
        | some (.stashPush _) | some (.stashPop _) => 13
        | _ => 4
    | none =>
      match op with
      | some (.clipDraw _) => 14
      | some (.bucketSend _) => 4
      | _ =>
        if qs.any fun q => q.wait == .reentry then 3
        else if qs.any fun q => q.wait == .barrier then 2
        else if qs.any fun q => q.wait == .counter || (!q.ops.isEmpty && q.run.isNone) then 1
        else 0

/-! ## Progress and fault information -/

/-- The progress word of an operation that stopped (R389). -/
def progressWord (op : AkiOp) (c : CoreId) (q : QueueId) (done : Nat) : Nat :=
  op.code + 256 * c.val + 2 ^ 14 * q.val + 2 ^ 16 * (done % 2 ^ 48)

/-- Chunks of a row pass (R125, R130). -/
def rowChunks (n : Nat) : Nat := if n ≤ 16384 then 1 else ceilDiv n 16384

/-- The `done` field of the progress word (R389). -/
def doneField (op : AkiOp) (r : Run) : Nat :=
  match op with
  | .outer p => r.unit / p.bites % 2 ^ 24 + 2 ^ 24 * (r.unit % p.bites)
  | .stylus _ => r.unit / 256 % 2 ^ 24 + 2 ^ 24 * (r.unit % 256)
  | .row p => r.unit / (2 * rowChunks p.n) % 2 ^ 32 + 2 ^ 32 * (r.unit % (2 * rowChunks p.n))
  | .vec _ | .gradGather _ => r.unit
  | .move _ | .mcast _ | .atomicAdd _ | .stashPush _ | .stashPop _ => r.doneBytes
  | .clipDraw _ => r.seq % 32 + 32 * r.doneBytes
  | _ => 0

/-- What a record says of an operation. -/
def Cur.info (u : Cur) (c : CoreId) (st : Status) (struct_ address : Nat) (selftest : Bool := false) : FaultInfo :=
  { status := st, cls := 4, selftest := selftest, struct_ := struct_, ctx := u.ctx.val, die := c.die.val, core := c.val,
    queue := u.q.val, opTag := u.desc.opTag.toNat, progress := progressWord u.desc.op c u.q (doneField u.desc.op u.run),
    address := address }

/-- An operation ends with a fault status: it leaves the core, a record is written and the program stops as class D (R380). -/
def State.failOp (s : State) (c : CoreId) (u : Cur) (f : FaultInfo) (body : List (List Byte)) : State :=
  let s := s.modCore c fun k =>
    { (k.modQueue u.q fun q => { q with run := (q.run.map fun r => { r with outcome := some (.fault f.status) }) }) with
      cur := if k.cur = some u.q then none else k.cur }
  s.faultOp u.ctx f body

/-- An operation has done its work and ends at cycle `t` (R163). -/
def State.endOp (s : State) (c : CoreId) (q : QueueId) (t : Nat) : State :=
  s.modQueue c q fun k => { k with run := (k.run.map fun r => { r with outcome := some .ok, endAt := some t }) }

/-! ## The wet-ink check -/

/-- Whether a mark is still set when a request of core `c` leaves at its cycle `t` (R175, R176). Marks of other cores are seen
by those cores' own clocks. -/
def State.markHits (s : State) (c : CoreId) (t : Nat) (m : WetMark) : Bool :=
  match m.clearAt with
  | none => true
  | some e => if m.core = c then decide (m.setAt ≤ t) && decide (t < e) else decide ((s.core m.core).cyc < e)

/-- Whether a mark was set by this operation. -/
def WetMark.own (m : WetMark) (c : CoreId) (q : QueueId) (op : Nat) : Bool := m.core == c && m.queue == q && m.op == op

/-- The first mark that lines meet, but for the operation's own (R176). -/
def State.wetHit (s : State) (c : CoreId) (q : QueueId) (op : Nat) (t : Nat) (lines : List Nat) : Option WetMark :=
  (s.slice c.die).wet.find? fun m => decide (m.line ∈ lines) && !m.own c q op && s.markHits c t m

/-- C-cycles that remained before a line would have cleared, on the clock of the core that marked it; all ones for a variable
writer (R176). -/
def State.remaining (s : State) (c : CoreId) (t : Nat) (m : WetMark) : Nat :=
  match m.clearAt with
  | none => 0xFFFFFFFF
  | some e => e - if m.core = c then t else (s.core m.core).cyc

/-- A hit: HAZARD_WET_READ with its record, or under interlock emulation the operation is held (R176, R178). -/
def State.hazard (s : State) (c : CoreId) (u : Cur) (t : Nat) (m : WetMark) : State :=
  if u.exec.interlock then
    (s.stallTo c 15 t).modQueue c u.q fun q =>
      { q.beginWait (.wet m.line) s.regs.waitLimit s.timeNs with run := q.run.map fun r => { r with fetch := false } }
  else
    s.failOp c u (u.info c .hazardWetRead 0x10 (128 * m.line))
      [record 64 [(0, 1, 3), (4, 4, u.desc.opTag.toNat), (8, 4, 128 * m.line), (12, 4, m.opTag.toNat), (16, 4, s.remaining c t m)]]

/-- The marks of an operation whose lines clear after cycle `base` moved: later, or to no fixed cycle (R174, R175). -/
def State.moveMarks (s : State) (c : CoreId) (q : QueueId) (op base : Nat) (f : Nat → Option Nat) : State :=
  let move := fun (m : WetMark) => match m.clearAt with
    | some e => if m.own c q op && decide (base < e) then { m with clearAt := f e } else m
    | none => m
  s.modSlice c.die fun k => { k with wet := k.wet.map move }

/-- The marks of an operation that is put off by `d` cycles clear later by as much (R174). -/
def State.delayMarks (s : State) (c : CoreId) (q : QueueId) (op base d : Nat) : State :=
  if d = 0 then s else s.moveMarks c q op base fun e => some (e + d)

/-- C-cycles from the end of an operation's unit until what the unit wrote has landed (R173). -/
def AkiOp.tail : AkiOp → Nat
  | .stylus _ => 70
  | .row _ => 40
  | .vec _ | .gradGather _ => 24
  | _ => 0

/-- Lines marked wet by the operation in hand (R175). -/
def State.markWet (s : State) (d : DieId) (c : CoreId) (q : QueueId) (op : Nat) (tag : Word32) (t : Nat)
    (lines : List (Nat × Option Nat)) : State :=
  s.modSlice d fun k => { k with wet := k.wet ++ lines.map fun l => ⟨l.1, c, q, op, tag, t, l.2⟩ }

/-- The marks of an operation cleared on every die. -/
def State.clearMarks (s : State) (c : CoreId) (q : QueueId) (op : Nat) : State :=
  { s with slices := s.slices.map fun k => { k with wet := k.wet.filter fun m => !m.own c q op } }

/-- Marks of a core that have cleared by its cycle `t` removed. -/
def State.pruneMarks (s : State) (c : CoreId) (t : Nat) : State :=
  s.modSlice c.die fun k => { k with wet := k.wet.filter fun m => !(m.core == c && (match m.clearAt with
    | some e => decide (e ≤ t)
    | none => false)) }

/-! ## Channels -/

/-- The channel whose full counter an operation's signal names, and its place in the table (R189). -/
def findChan (p : Channel → Bool) : List Channel → Nat → Option (Nat × Channel)
  | [], _ => none
  | k :: ks, i => if p k then some (i, k) else findChan p ks (i + 1)

def Ctx.setChan (x : Ctx) (i : Nat) (k : Channel) : Ctx := { x with channels := x.channels.set i k }

/-- The record of a channel overrun (R189, R435). -/
def chanBody (i : Nat) (k : Channel) (inc : Nat) : List Byte :=
  record 64 [(0, 1, 4), (4, 4, i), (8, 4, k.occ), (12, 4, inc), (16, 1, k.consumer.val)]

def syncTimeout : Nat := 0
def syncOverrun : Nat := 1
def syncOwner : Nat := 2
def syncBroken : Nat := 3
/-- A bit of SYNC_STATUS set (R204). -/
def State.setSync (s : State) (b : Nat) : State :=
  { s with regs := { s.regs with syncStatus := s.regs.syncStatus ||| 2 ^ b } }

/-! ## Signals -/

/-- The common signal of an operation on its way to its counter (R183). -/
def State.sendSignal (s : State) (n : CtxId) (c : CoreId) (d : Desc) : State :=
  if d.sigEn then
    s.modFabric fun f => { f with vc4 := f.vc4 ++ [.signal n d.sigCtr d.sigCore d.sigInc (some c.die) (some c)] }
  else s

/-- A signal applied at its counter, with the occupancy check of an ack (R183, R189). -/
def State.applySignal (s : State) (n : CtxId) (k : Fin 64) (c : CoreId) (inc : Nat) : State :=
  match s.ctx? n with
  | none => s
  | some x =>
    let x := x.setCounter c k (x.counter c k + inc)
    match findChan (fun h => h.ack == k && h.producer == c) x.channels 0 with
    | none => s.putCtx n x
    | some (i, h) =>
      if inc ≤ h.occ then s.putCtx n (x.setChan i { h with occ := h.occ - inc })
      else
        let s := (s.putCtx n x).setSync syncOverrun
        let f : FaultInfo := { status := .syncOverrun, cls := 4, struct_ := 0x10, ctx := n.val, die := c.die.val, core := c.val }
        s.faultOp n f [chanBody i h inc]

/-! ## The end of a program -/

/-- Whether nothing of a program is left on its cores. -/
def State.drained (s : State) (m : Nat) : Bool :=
  allCores.all fun c => !inMap m c || ((s.core c).trailing.isEmpty && allQueues.all fun q => ((s.core c).queue q).ops.isEmpty)

/-- The EXEC of the running context completes when its last operation has. -/
def State.finishExec (s : State) (n : CtxId) : State :=
  match s.ctx? n with
  | some x => match x.exec with
    | some e => if s.running = some n && e.stopSt.isNone && s.drained e.coreMap then s.endExec n else s
    | none => s
  | none => s

end Sys2Proof.Machine
end

