-- ==== Sys2Proof/Machine/PullOps.lean ====
section
/-! DEFINITION. Plates and the issue of a pull, direct or attached (R65 to R74, R112, R113, R123). -/

namespace Sys2Proof.Machine

open Sys2Proof

/-! ## Plates -/

def plateKey (p i j : Nat) : Nat := 65536 * p + 256 * i + j
def Core.word (k : Core) (p i j : Nat) : Nat := (sget 0 k.plates (plateKey p i j)).toNat
def Core.setWord (k : Core) (p i j v : Nat) : Core :=
  { k with plates := sset 0 k.plates (plateKey p i j) (BitVec.ofNat 32 v) }
def plateIx (p : Nat) : Fin 8 := ⟨p % 8, by omega⟩
def Core.info (k : Core) (p : Nat) : PlateInfo := k.plate.get (plateIx p)
def Core.setInfo (k : Core) (p : Nat) (f : PlateInfo → PlateInfo) : Core := { k with plate := vmod k.plate (plateIx p) f }

/-- The plate whose ownership an operation meets: plate p for p + 4 while p holds a double-word total (R65). -/
def Core.owner (k : Core) (p : Nat) (dword : Bool) : Nat :=
  if !dword && 4 ≤ p && (k.info (p - 4)).dword then p - 4 else p

/-- Every word of a plate back to +0; both halves of a double-word plate. -/
def Core.zeroPlate (k : Core) (p : Nat) (dword : Bool) : Core :=
  let k := { k with plates := sclear k.plates (65536 * p) 65536 }
  if dword then { k with plates := sclear k.plates (65536 * (p + 4)) 65536 } else k

/-- A plate word as it enters the pull pipeline; the pair of a double-word plate is added and rounded once (R65). -/
def Core.pulled (k : Core) (p : Nat) (dword : Bool) (i j : Nat) : Nat :=
  if dword then f32Add (k.word p i j) (k.word (p + 4) i j) else k.word p i j

/-! ## Checks of reads and writes -/

/-- The first of several timed reads that meets a wet line: its place in the list, its cycle and the mark (R176). -/
def State.firstHit (s : State) (c : CoreId) (q : QueueId) (op : Nat) : List (Nat × List Nat) → Nat → Option (Nat × Nat × WetMark)
  | [], _ => none
  | (t, ls) :: rest, i =>
    match s.wetHit c q op t ls with
    | some m => some (i, t, m)
    | none => s.firstHit c q op rest (i + 1)

/-- The bytes of a scale record. -/
def State.scaleRec (s : State) (c : CoreId) (a : Nat) : List Byte := readBytes (s.slice c.die).mem a 128

/-- Why a pull cannot issue. -/
inductive PullStop where
  | wet (t : Nat) (m : WetMark)
  | overlap (line : Nat)
  | conflict
  | badRecord
  | overrun (i : Nat) (k : Channel) (inc : Nat)
deriving Repr

/-- What a pull takes its words from: a plate, or gathered Stylus rows. -/
structure PullSrc where
  rows : Nat
  cols : Nat
  word : Nat → Nat → Nat
  order : List Nat
  lands : Nat → Nat
  landsAll : Nat
  fetchAt : Nat              -- cycle at which the side fetch starts

/-- The loop nest that gives a pull its walk: the output, or the taps of a pull that writes nothing else. -/
def PullP.nest (p : PullP) : Option OperandRec :=
  match p.out with
  | some r => some r
  | none => p.tap

/-- Iterations of a pull's walk (R168). -/
def PullP.walks (p : PullP) : Nat := ((PullP.nest p).map fun r => r.size 2).getD 1

/-- The walk indices of iteration `i`. -/
def PullP.walkAt (p : PullP) (i : Nat) : List Nat := ((PullP.nest p).map fun r => r.indexFrom 2 i).getD (List.replicate 6 0)

/-- The scale records that a pull names, with what each gives (R50 to R52). -/
def PullP.records (p : PullP) : List Nat := [p.recOut, p.recA, p.recB].filterMap id

/-- The rows that a side fetch leaves in the buffer: the words of S0 and S1 of each array row (R112, R113). -/
def PullP.fetched (p : PullP) (m : Sparse Byte) (walk : List Nat) (rows cols : Nat) : List (List (Nat × Nat)) :=
  let word := fun (r : Option OperandRec) (i j : Nat) => match r with
    | some r => if r.hasCell i j then r.word m (r.clamp ((walk.set 0 j).set 1 i)) else 0
    | none => 0
  if p.s0.isSome || p.s1.isSome then
    (List.range rows).map fun i => (List.range cols).map fun j => (word p.s0 i j, word p.s1 i j)
  else []

/-- A pull put together from what it reads at its issue and what its side fetch brought (R50, R113, R114, R121). -/
def State.pullIn (s : State) (c : CoreId) (x : Ctx) (p : PullP) (walk : List Nat) (no epoch : Nat) (src : PullSrc) : PullIn :=
  let m := (s.slice c.die).mem
  let side := PullP.fetched p m walk src.rows src.cols
  let inv := fun (r : Option Nat) => match r with
    | some a => fieldAt (s.scaleRec c a) 8 4
    | none => f32One
  { p := p, walk := walk, plateNo := no, rows := src.rows, cols := src.cols, word := src.word,
    side0 := fun i j => ((side.getD i []).getD j (0, 0)).1, side1 := fun i j => ((side.getD i []).getD j (0, 0)).2, phi := scaleFactor p.alpha.toNat (inv p.recA) (inv p.recB),
    sOut := (match p.recOut with
      | some a => fieldAt (s.scaleRec c a) 4 4
      | none => f32One),
    key := x.srKey, epoch := epoch, order := src.order, lands := src.lands, landsAll := src.landsAll,
    oldTaps := (match p.tap with
      | some t => (List.range (tapVectors p.taps)).map fun v => (List.range 256).map fun k =>
          readBits m (8 * (t.bitAt (t.clamp walk) / 8 + 1024 * v + 4 * k)) 32
      | none => []) }

/-- The lines of the side row of array row `i`; no element beyond a stream's counts is read (R166). -/
def PullP.sideLines (p : PullP) (walk : List Nat) (cols i : Nat) : List Nat :=
  let touch := fun (j : Nat) (r : OperandRec) => if r.hasCell i j then r.touch (r.clamp ((walk.set 0 j).set 1 i)) else []
  linesOf ((List.range cols).flatMap fun j => ((p.s0.map (touch j)).getD []) ++ ((p.s1.map (touch j)).getD []))

/-- The side reads of a pull, row by row, with the cycle at which they are checked: the start of the fetch (R113). -/
def PullP.sideReads (p : PullP) (walk : List Nat) (src : PullSrc) : List (Nat × List Nat) :=
  src.order.map fun i => (src.fetchAt, PullP.sideLines p walk src.cols i)

/-- The first side row whose read, one row per C-cycle from the start of the fetch, leaves while a line that the pull itself writes
is wet: an overlap found at run time (R113, R123). `lines` are the lines written, each with the cycle of its landing from the issue
at `t`. -/
def PullP.sideOverlap (p : PullP) (walk : List Nat) (src : PullSrc) (t : Nat) (lines : List (Nat × Nat)) : Option Nat :=
  if p.s0.isSome || p.s1.isSome then
    ((src.order.zip (List.range src.order.length)).filterMap fun e =>
      (PullP.sideLines p walk src.cols e.1).find? fun l =>
        decide (t ≤ src.fetchAt + e.2) && lines.any fun w => w.1 == l && decide (src.fetchAt + e.2 < t + w.2)).head?
  else none

/-- The first mark of another operation that lines meet at cycle `t`; an OUTER and the pulls that it issues are one operation (R176). -/
def State.wetOther (s : State) (c : CoreId) (u : Cur) (t : Nat) (lines : List Nat) : Option WetMark :=
  (s.slice c.die).wet.find? fun m =>
    decide (m.line ∈ lines) && !(m.core == c && m.queue == u.q && decide (u.run.op ≤ m.op)) && s.markHits c t m

/-- A pull issues at cycle `t`: side reads, scale records and destinations are checked, everything it writes is marked and
written, and the record's pending amax is merged (R52, R70, R113, R121, R123). `op` names the instance; a scale record that any
other pull, or commit, still holds wet is a hit, an earlier attached pull of the same OUTER among them (R52). -/
def State.issuePull (s : State) (c : CoreId) (u : Cur) (op : Nat) (p : PullP) (walk : List Nat) (no : Nat) (src : PullSrc)
    (t : Nat) : Except PullStop State :=
  match s.firstHit c u.q op (PullP.sideReads p walk src) 0 with
  | some (_, t', m) => .error (.wet t' m)
  | none =>
    let recs := PullP.records p
    match s.wetHit c u.q op t (recs.map lineOf) with
    | some m => .error (.wet t m)
    | none =>
      if recs.any fun a => !recordOk (s.scaleRec c a) then .error .badRecord
      else
        let before := (s.slice c.die).mem
        let x := s.pullIn c u.x p walk no u.run.epoch src
        let puts := x.allPuts
        let lines := putLines puts ++ (match p.recOut with
          | some a => [(lineOf a, src.landsAll)]
          | none => [])
        match s.wetOther c u t (lines.map fun l => l.1) with
        | some m => .error (.wet t m)
        | none =>
        match PullP.sideOverlap p walk src t lines with
        | some l => .error (.overlap l)
        | none =>
          let s := s.markWet c.die c u.q op u.desc.opTag t (lines.map fun l => (l.1, some (t + l.2)))
          let mem := applyPuts (s.slice c.die).mem puts
          let mem := match p.recOut with
            | some a => writeBytes mem a (mergeAmax (readBytes mem a 128) x.absmax)
            | none => mem
          let s := s.modSlice c.die fun k => { k with mem := mem }
          .ok (if p.s0.isSome || p.s1.isSome then s.modCore c fun k => { k with ports := { k.ports with side := PullP.fetched p before walk src.rows src.cols } }
            else s)

/-- How a pull that cannot issue ends its operation (R51, R74, R123, R176). An overlap of its own side stream with its destination
can never clear, so it ends the operation under interlock emulation too. -/
def State.stopPull (s : State) (c : CoreId) (u : Cur) (e : PullStop) : State :=
  match e with
  | .wet t m => ((s.stallTo c 10 t).hazard c u t m).modQueue c u.q fun q => { q with run := q.run.map fun r => { r with fetch := true } }
  | .overlap line => s.failOp c u (u.info c .hazardWetRead 0x10 (128 * line))
      [record 64 [(0, 1, 3), (4, 4, u.desc.opTag.toNat), (8, 4, 128 * line), (12, 4, u.desc.opTag.toNat), (16, 4, 0)]]
  | .conflict => s.failOp c u (u.info c .plateConflict 0x10 0) []
  | .badRecord => s.failOp c u (u.info c .reservedNonzero 0x10 0) []
  | .overrun i k inc => (s.setSync syncOverrun).failOp c u (u.info c .syncOverrun 0x10 0) [chanBody i k inc]

/-- The rows of a plate as a pull that issues at cycle `t` takes them (R68). -/
def Core.plateSrc (k : Core) (p : PullP) (plate : Nat) (dword : Bool) (fetch : Nat) : PullSrc :=
  let rows := ((p.out.map fun r => r.count 1).getD 256)
  { rows := rows, cols := ((p.out.map fun r => r.count 0).getD 256), word := k.pulled plate dword,
    order := (List.range rows).reverse, lands := fun r => 310 - r, landsAll := 310, fetchAt := fetch }

/-- A pull of a plate at cycle `t`: the plate shifts out and holds +0 (R68, R73, R92). -/
def State.pullPlate (s : State) (c : CoreId) (u : Cur) (op : Nat) (p : PullP) (plate : Nat) (dword : Bool) (walk : List Nat)
    (no t fetch : Nat) : Except PullStop State :=
  let s := s.modCore c fun k => k.settle t
  let k := s.core c
  let own := k.owner plate dword
  match (k.info own).st with
  | .shifting => .error .conflict
  | st =>
    if st ≠ .free ∧ st ≠ .owned u.q then .error .conflict
    else match s.issuePull c u op p walk no (k.plateSrc p plate dword fetch) t with
      | .error e => .error e
      | .ok s => .ok (s.modCore c fun k =>
          { ((k.zeroPlate plate dword).setInfo own fun i => ⟨.shifting, none, i.dword⟩) with
            shift := some ⟨own, t⟩, ctr := { k.ctr with pulls := (k.ctr.pulls + 1) % 2 ^ 48 } })

end Sys2Proof.Machine

namespace Sys2Proof

open Machine

/-- The plate of an output tile (R67). -/
def OuterP.plateOf (p : OuterP) (tile : Nat) : Nat :=
  let i := tile % max 1 p.set
  if p.dword then (p.plate + i) % 4 else (p.plate + i) % 8

end Sys2Proof

namespace Sys2Proof.Machine

open Sys2Proof

/-! ## Attached pulls -/

/-- The descriptor under which an attached pull runs: its own signal and tag (R161, R163, R167). -/
def attDesc (d : Desc) (h : AttHdr) : Desc :=
  { d with sigEn := h.sigEn, sigCtr := h.sigCtr, sigCore := h.sigCore, sigInc := h.sigInc, opTag := h.opTag }

/-- The channel check at the issue of an attached pull (R189). -/
def State.attSignal (s : State) (u : Cur) (h : AttHdr) : Except PullStop State :=
  let chans := ((s.ctx? u.ctx).map fun x => x.channels).getD []
  match (if h.sigEn then findChan (fun k => k.full == h.sigCtr && k.consumer == h.sigCore) chans 0 else none) with
  | none => .ok s
  | some (i, k) =>
    if k.depth < k.occ + h.sigInc then .error (.overrun i k h.sigInc)
    else .ok (s.modCtx u.ctx fun x => x.setChan i { k with occ := k.occ + h.sigInc })

/-- The cycle from which the side fetch of an attached pull runs: 52 before the shift as it stood planned when the fetch began. A
replay of the last bite that is known only after that leaves the rows in the buffer; one known before it moves the fetch (R113).
Where a wet line held the fetch, it runs from its new departure (R178). -/
def AttDue.fetchAt (a : AttDue) (start free : Nat) (left : Option Nat) : Nat :=
  let plan := max a.planned free
  match left with
  | some l => l
  | none => (if plan ≤ a.known + 52 then plan else start) - 52

/-- An attached pull that is due at or before cycle `t` issues (R67); it takes a new instance name. The number is by how many cycles a
pull that is still shifting or a wet line holds it, for which the OUTER waits (R69, R113). The pull runs in the mode of its OUTER:
the dword bit of its own descriptor is not looked at (see the log). -/
def State.duePull (s : State) (c : CoreId) (u : Cur) (p : OuterP) (t : Nat) : Except PullStop (State × Nat) :=
  match u.run.att, p.att with
  | some d0, some a =>
    if t < d0.due && !u.run.fetch then .ok (s, 0)
    else match s.attSignal u p.attHdr with
      | .error e => .error e
      | .ok s =>
        let k := s.core c
        let side := if a.s0.isSome || a.s1.isSome then 52 else 0
        let free := (k.shift.map fun sh => sh.start + 257).getD 0
        let left := if u.run.fetch then u.run.leaveAt else none
        let start := max (max d0.due free) ((left.map fun l => l + side).getD 0)
        let s := s.modCore c fun k => { k with nextOp := k.nextOp + 1 }
        let d := attDesc u.desc p.attHdr
        match s.pullPlate c { u with desc := d } k.nextOp a (p.plateOf d0.tile) p.dword (PullP.walkAt a d0.tile) d0.tile start
            (d0.fetchAt start free left) with
        | .error e => .error e
        | .ok s' =>
          let tr : Trailing := ⟨k.nextOp, u.q, d, none, some (start + 310)⟩
          let r := { u.run with att := none, leaveAt := if u.run.fetch then none else u.run.leaveAt, fetch := false }
          .ok ((s'.modCore c fun k => { k with trailing := k.trailing ++ [tr] }).setRun c u.q r, start - d0.due)
  | _, _ => .ok (s, 0)

/-- The attached pull of a completed tile issues where its OUTER goes no further for now: it is displaced, stops, fails, or meets a
conflict at the tile boundary (R67, R74, R84, R101). The number is the cycle at which the pull begins to shift. -/
def State.flushAtt (s : State) (c : CoreId) (u : Cur) : Except State (State × Nat) :=
  match u.desc.op, u.run.att with
  | .outer p, some a => match s.duePull c u p a.due with
    | .error e => .error (s.stopPull c u e)
    | .ok (s, hold) => .ok (s, a.due + hold)
  | _, _ => .ok (s, 0)

end Sys2Proof.Machine
end

