-- ==== Sys2Proof/Machine/Reservoir.lean ====
section
/-! DEFINITION. The shuffle reservoir: its generator, its permutation, its slots, the void table and the draw positions
(R327 to R332, R336). -/

namespace Sys2Proof.Machine

open Sys2Proof

/-! ## The generator and the permutation -/

/-- The generator G(d, a, x) of R331. -/
def gWords (seed d a x : Nat) : Nat × Nat × Nat × Nat :=
  let hi := (d % 256 * 2 ^ 56 + a % 2 ^ 56) ^^^ field seed 64 64
  philox (field seed 0 64) (hi * 2 ^ 64 + x % 2 ^ 64)

/-- ⌈log2 n⌉. -/
def log2Up (n : Nat) : Nat := if n ≤ 1 then 0 else Nat.log2 (n - 1) + 1

/-- The half width of the Feistel network over `s` slots (R332). -/
def feistelWidth (s : Nat) : Nat := max 1 (ceilDiv (log2Up s) 2)

/-- Four rounds over the halves of `y`. -/
def feistelRounds (seed e m : Nat) : Nat → Nat × Nat → Nat × Nat
  | 0, p => p
  | n + 1, (lo, hi) =>
    let r := 3 - n
    let f := field (gWords seed 1 e (r * 2 ^ 32 + lo)).1 0 m
    feistelRounds seed e m n (hi ^^^ f, lo)
def feistel (seed e m y : Nat) : Nat :=
  let (lo, hi) := feistelRounds seed e m 4 (field y 0 m, y / 2 ^ m)
  hi * 2 ^ m + lo

/-- Cycle walking until the value lies below `s`; the fuel bounds the walk. -/
def cycleWalk (seed e m s : Nat) : Nat → Nat → Nat
  | 0, y => y
  | n + 1, y =>
    let y' := feistel seed e m y
    if y' < s then y' else cycleWalk seed e m s n y'

/-- The bijection on 0 to s − 1 of generation `e` (R332). -/
def permute (seed s e i : Nat) : Nat := let m := feistelWidth s
  cycleWalk seed e m s (2 ^ (2 * m)) i

/-! ## Slots -/

def Reservoir.lane? (r : Reservoir) (c : CoreId) : Option Nat :=
  match r.cfg.lane[c.val]? with
  | some l => if l < r.cfg.lanes then some l else none
  | none => none

/-- Bytes of the state area, and the address of a slot (R328). -/
def ShuffleState.area (size : Nat) : Nat := size * 2 ^ 30 / 256
def Reservoir.slotAddr (r : Reservoir) (slot : Nat) : Nat := r.cfg.base + ShuffleState.area r.cfg.size + slot * r.cfg.slotBytes

def Reservoir.gen (r : Reservoir) (slot : Nat) : Nat := sget 0 r.gens slot
def Reservoir.slot (r : Reservoir) (slot : Nat) : SlotState := (assoc? slot r.sts).getD .empty
def Reservoir.setSlot (r : Reservoir) (slot : Nat) (st : SlotState) : Reservoir :=
  { r with sts := match st with
    | .empty => assocDel slot r.sts
    | st => assocSet slot st r.sts }

/-- Whether the slot of a number holds its clip. -/
def Reservoir.holds (r : Reservoir) (q : Nat) : Bool := r.gen (q % r.slots) == q / r.slots && r.slot (q % r.slots) == .filled

/-- Whether a number is voided; a slot filled with it stays filled (R330, R336). -/
def Reservoir.voided (r : Reservoir) (q : Nat) : Bool := (r.voids.any fun v => v.1 ≤ q && q < v.2) && !r.holds q

/-- A slot advanced past generations that lanes have passed already; the fuel is the number of those. -/
def Reservoir.catchUp (r : Reservoir) (slot : Nat) : Nat → Reservoir
  | 0 => r
  | n + 1 =>
    let g := r.gen slot
    if decide ((slot, g) ∈ r.early) then
      { (r.setSlot slot .empty) with gens := sset 0 r.gens slot (g + 1), early := r.early.filter fun e => e ≠ (slot, g) }.catchUp slot n
    else r

/-- The slot of a number is passed: it becomes empty in the next generation (R330). -/
def Reservoir.pass (r : Reservoir) (q : Nat) : Reservoir :=
  let slot := q % r.slots
  let e := q / r.slots
  if r.gen slot = e then { (r.setSlot slot .empty) with gens := sset 0 r.gens slot (e + 1) }.catchUp slot r.early.length
  else if r.gen slot < e then { r with early := r.early ++ [(slot, e)] }
  else r

/-! ## The void table -/

/-- A range added to the table; ranges that meet or touch are merged (R330). -/
def addVoid (a b : Nat) : List (Nat × Nat) → List (Nat × Nat)
  | [] => [(a, b)]
  | (c, d) :: l =>
    if b < c then (a, b) :: (c, d) :: l
    else if d < a then (c, d) :: addVoid a b l
    else addVoid (min a c) (max b d) l

/-- Ranges that the void table holds at most (R330). -/
def voidRoom : Nat := 8192

/-- Whether every lane's next position lies beyond the generation of a range's last number (R330). -/
def Reservoir.past (r : Reservoir) (v : Nat × Nat) : Bool :=
  r.pos.zipIdx.all fun (k, l) => (v.2 - 1) / r.slots < (k * r.cfg.lanes + l) / r.slots

/-! ## Draws -/

/-- The number at a lane's draw position (R332). -/
def Reservoir.number (r : Reservoir) (lane : Nat) : Nat :=
  let n := nthD 0 r.pos lane * r.cfg.lanes + lane
  let e := n / r.slots
  e * r.slots + permute r.cfg.seed r.slots e (n % r.slots)

/-- A lane moves to its next position. -/
def Reservoir.advance (r : Reservoir) (lane : Nat) : Reservoir := { r with pos := r.pos.modify lane fun k => k + 1 }

/-- The number that a lane draws next: voided ones are passed over, at most `fuel` of them (R332). -/
def Reservoir.seek (r : Reservoir) (lane : Nat) : Nat → Reservoir × Option Nat
  | 0 => (r, none)
  | n + 1 =>
    let q := r.number lane
    if r.voided q then ((r.pass q).advance lane).seek lane n else (r, some q)

/-- A draw is complete: its slot is passed and its lane moves on (R332, R335). -/
def Reservoir.drawn (r : Reservoir) (lane : Nat) : Reservoir :=
  let q := r.number lane
  let r := (r.pass q).advance lane
  { r with want := r.want.filter fun w => w.1 ≠ lane }

/-- A configured reservoir with every slot empty in generation 0 (R327). -/
def Reservoir.fresh (p : ShuffleConfigP) : Reservoir :=
  ⟨p, (p.size * 2 ^ 30 - ShuffleState.area p.size) / p.slotBytes, [], [], List.replicate p.lanes 0, [], [], []⟩

/-- The smallest generation that a lane still needs. -/
def Reservoir.lowGen (r : Reservoir) : Nat :=
  match r.pos.zipIdx.map fun (k, l) => (k * r.cfg.lanes + l) / r.slots with
  | [] => 0
  | a :: as => as.foldl min a

/-- Every slot emptied at the lowest generation that a lane needs, and the slots that positions below the lanes' already cover
passed (R336). -/
def Reservoir.reseat (r : Reservoir) : Reservoir :=
  let low := r.lowGen
  let top := (r.pos.zipIdx.map fun (k, l) => k * r.cfg.lanes + l).foldl max 0
  let base : Reservoir := { r with sts := [], early := [], want := [],
                                   gens := if low = 0 then [] else (List.range r.slots).map fun i => (i, low) }
  let covered := (List.range (top - low * r.slots)).filterMap fun i =>
    let n := low * r.slots + i
    if n / r.cfg.lanes < nthD 0 r.pos (n % r.cfg.lanes) then
      some (n / r.slots * r.slots + permute r.cfg.seed r.slots (n / r.slots) (n % r.slots))
    else none
  covered.foldl (fun r q => r.pass q) base

/-- A context reset of the reservoir: configuration kept (R338). -/
def Reservoir.emptied (r : Reservoir) : Reservoir := Reservoir.fresh r.cfg

def State.modShuffle (s : State) (n : CtxId) (f : Reservoir → Reservoir) : State :=
  s.modCtx n fun x => { x with shuffle := x.shuffle.map f }

end Sys2Proof.Machine
end

