-- ==== Sys2Proof/Machine/CoreCtl.lean ====
section
/-! DEFINITION. Meanings: dispatch, end and completion of operations, signals, waits, barriers and lending (R152 to R155, R163,
R178, R181 to R203). -/

namespace Sys2Proof.Machine

open Sys2Proof

/-! ## Dispatch -/

/-- Whether the operation in hand is at a dispatch point (R154). A unit in which a read is held is not at one. -/
def State.atPoint (s : State) (c : CoreId) (u : Cur) : Bool :=
  u.run.endAt.isNone && (match ((s.core c).queue u.q).wait with
    | .wet _ => false
    | _ => true) &&
  match u.desc.op with
  | .outer _ => !u.run.first && (s.core c).ports.replayCol.isEmpty
  | .row _ | .vec _ | .gradGather _ => !u.run.first
  | .stylus _ => !u.run.first && u.run.unit % 256 == 0
  | .move _ | .mcast _ | .atomicAdd _ | .stashPush _ | .stashPop _ =>
    match u.run.xfer.bind fun i => s.fabric.xfers.find? fun f => f.id == i with
    | some f => decide (0 < f.next) && f.next % 2 ^ 22 == 0
    | none => false
  | _ => false

/-- The stop flag of a transfer: no further tile is issued while it is set (R153, R179). -/
def State.haltXfer (s : State) (x : Option Nat) (stop : Bool) : State :=
  match x with
  | none => s
  | some i => s.modFabric fun f => { f with xfers := f.xfers.map fun t => if t.id = i then { t with stop := stop } else t }

/-- The operation in hand is suspended: it keeps its indices and its plates (R153). The attached pull of its last tile issues first
(R67), and the lines that it has still to write keep their marks without a fixed cycle (R175). Where that pull cannot issue, the
state in which the operation has stopped. -/
def State.suspend (s : State) (c : CoreId) (u : Cur) : Except State State :=
  match s.flushAtt c u with
  | .error s => .error s
  | .ok (s, start) =>
    let r := (((s.core c).queue u.q).run).getD u.run
    let s := (s.haltXfer r.xfer true).moveMarks c u.q r.op (r.lastEnd + AkiOp.tail u.desc.op) fun _ => none
    .ok (s.modCore c fun k => { (k.modQueue u.q fun q => { q with run := some { r with suspended := true } }) with
      cur := none, freeAt := max (max k.freeAt start) (r.decided.headD k.cyc) })

/-- The counterproof buffers and replay buffers empty: an operation that issues fills its own (R61, R84). -/
def Ports.emptied (p : Ports) : Ports := { p with cpCol := [], cpRow := [], replayCol := [], replayRow := [] }

/-- A new run of an operation (R163, R186). -/
def Run.fresh (op t epoch : Nat) : Run where
  op := op
  issued := t
  unit := 0
  first := true
  lastEnd := t
  decided := []
  leaveAt := none
  fetch := false
  endAt := none
  epoch := epoch
  stepCtr := 0
  stats := []
  gather := []
  preds := []
  att := none
  xfer := none
  doneBytes := 0
  accept := []
  acks := []
  seq := 0
  resumed := false
  suspended := false
  outcome := none

/-- The first issue of an operation: the raster takes effect, the channel check, then the run (R163, R189, R253). -/
def State.issueNew (s : State) (c : CoreId) (n : CtxId) (x : Ctx) (e : Exec) (q : QueueId) (d : Desc) (t : Nat) : State :=
  let r := Run.fresh (s.core c).nextOp t (x.counter c d.op.epochCtr)
  let s := if e.rasterOn then s else s.modCtx n fun x => { x with exec := some { e with rasterOn := true } }
  let s := s.modCore c fun k => { (k.modQueue q fun w => { w with run := some r, wait := .none, waitFrom := none }) with
    cur := some q, cyc := t, nextOp := k.nextOp + 1, ports := k.ports.emptied }
  let u : Cur := ⟨n, x, e, q, d, r⟩
  let go := fun (s : State) => match d.op with
    | .barrier _ => s.endOp c q (t + 1)
    | _ => s
  match (if d.sigEn then findChan (fun h => h.full == d.sigCtr && h.consumer == d.sigCore) x.channels 0 else none) with
  | none => go s
  | some (i, h) =>
    if h.depth < h.occ + d.sigInc then
      (s.setSync syncOverrun).failOp c u (u.info c .syncOverrun 0x10 0) [chanBody i h d.sigInc]
    else go (s.modCtx n fun x => x.setChan i { h with occ := h.occ + d.sigInc })

/-- The re-issue of a suspended or stopped operation at its saved indices (R153, R180). -/
def State.reissue (s : State) (c : CoreId) (q : QueueId) (r : Run) (t : Nat) : State :=
  let s := s.haltXfer r.xfer false
  let r := { r with issued := t, first := true, lastEnd := t, decided := [], leaveAt := none, fetch := false, suspended := false }
  s.modCore c fun k => { (k.modQueue q fun w => { w with run := some r, wait := .none, waitFrom := none }) with
    cur := some q, cyc := t, ports := k.ports.emptied }

/-! ## SIGNAL, WAIT and STOP_MARK -/

/-- A SIGNAL ends 1 C-cycle after its issue; its completion applies the signal (R163, R173). -/
def execSignal (c : CoreId) (s : State) : Host.Outcome State Fault Refusal :=
  .next (match s.currentIs c .signal with
  | some u => if u.run.endAt.isNone then s.endOp c u.q (u.run.issued + 1) else s
  | none => s)

/-- A WAIT whose condition is met ends 1 C-cycle after its issue (R173, R185). -/
def execWait (c : CoreId) (s : State) : Host.Outcome State Fault Refusal :=
  .next (match s.currentIs c .wait with
  | some u => if u.run.endAt.isNone then s.endOp c u.q (u.run.issued + 1) else s
  | none => s)

/-- A STOP_MARK writes its mark; OPERATION_END stops the core where it halts (R181). -/
def execStopMark (c : CoreId) (p : MarkP) (s : State) : Host.Outcome State Fault Refusal :=
  .next (match s.currentIs c (.stopMark p) with
  | some u => if u.run.endAt.isNone then
      (s.modQueue c u.q fun q => { q with mark := p.mark }).endOp c u.q (u.run.issued + 1) else s
  | none => s)

/-! ## End and completion -/

/-- The cycle of completion, where the end fixes it; `mark` is the cycle at which the last line clears. -/
def completionAt (op : AkiOp) (r : Run) (t : Nat) : Option Nat :=
  match op with
  | .pull _ => some (r.lastEnd + 310)
  | .bucketSend _ => none
  | .atomicAdd p => if p.ordered && r.xfer.isSome then none else some t
  | _ => some t

/-- Whether the core stops at this end: STOP_AT, or a halting STOP_MARK with debug unlocked in its scope (R181, R422). -/
def stopCause (s : State) (x : Ctx) (c : CoreId) (q : QueueId) (count : Nat) (op : AkiOp) : Option Nat :=
  match op with
  | .stopMark p => if p.halt && !s.sec.locked && bit s.sec.scope 1 then some 1
      else if assoc? (4 * c.val + q.val) x.stops = some count then some 0 else none
  | _ => if assoc? (4 * c.val + q.val) x.stops = some count then some 0 else none

/-- Whether an operation uses the unit whose check fails. -/
def CoreFault.meets (f : CoreFault) (op : AkiOp) : Bool :=
  match f, op with
  | .stylus _, .stylus _ | .row _, .row _ | .vec _, .vec _ | .vec _, .gradGather _ | .control, _ => true
  | _, _ => false

/-- The body entry of such a check, and the structure its record names (R434, R435). -/
def CoreFault.body (f : CoreFault) (opTag : Nat) : List Byte :=
  let (unit, group) := match f with
    | .stylus g => (2, g)
    | .row g => (3, g)
    | .vec g => (4, g)
    | .control => (6, 0)
  record 64 [(0, 1, 12), (1, 1, unit), (4, 2, group), (8, 4, opTag)]
def CoreFault.struct_ (f : CoreFault) : Nat := if f = .control then 0x03 else 0x02

/-- A check of a core fails: the operation in hand ends with INTERNAL_ERROR before anything more of it is written and its program
stops; control state that fails between operations stops the program that uses the die, or none (R428, R431, R432). -/
def State.checkFails (s : State) (c : CoreId) (f : CoreFault) : State :=
  match s.current c with
  | some u =>
    if CoreFault.meets f u.desc.op then s.failOp c u (u.info c .internalError (CoreFault.struct_ f) 0 true) [CoreFault.body f u.desc.opTag.toNat] else s
  | none =>
    if f ≠ .control || s.fenced (.c c.die) then s
    else
      let info : FaultInfo := { status := .internalError, cls := 4, selftest := true, struct_ := 0x03, die := c.die.val, core := c.val }
      match s.runCtx with
      | some (n, x) => if x.program && dieInMap x.coreMap c.die then s.faultOp n info [CoreFault.body f 0] else (s.logFault info [CoreFault.body f 0]).2
      | none => (s.logFault info [CoreFault.body f 0]).2

/-- An operation that has done its work ends: the queue counts it and moves on, and its core is asked to stop where STOP_AT or
STOP_MARK says so; QUIESCE lets its pulls land and enters the stopped state (R163, R179, R181). Where a check of the core fails, it ends with a fault instead (R431). -/
def execOperationEnd (c : CoreId) (flt : Option CoreFault) (s : State) : Host.Outcome State Fault Refusal :=
  .next (if !s.ticking || (s.core c).pw.reclaiming then s else
  match flt with
  | some f => s.checkFails c f
  | none =>
  match (s.core c).cur, s.runCtx with
  | some q, some (_, x) =>
    let w := (s.core c).queue q
    match w.ops, w.run with
    | d :: rest, some r =>
      match r.outcome, r.endAt with
      | some .ok, some t =>
        let s := s.busyTo c t
        let count := (w.count + 1) % 2 ^ 32
        let tr : Trailing := ⟨r.op, q, d, r.xfer, completionAt d.op r t⟩
        let s := s.modCore c fun k =>
          { (k.modQueue q fun w => ({ w with ops := rest, index := w.index + 1, count := count }).newHead x c s.regs.waitLimit s.timeNs) with
            cur := none, freeAt := max k.freeAt t, trailing := k.trailing ++ [tr],
            ctr := { k.ctr with ops := (k.ctr.ops + 1) % 2 ^ 48 } }
        match stopCause s x c q count d.op with
        | some cause => s.modCore c fun k =>
          { (k.modQueue q fun w => { w with halted := cause = 1 || w.halted }) with stopping := true, stopBy := some (q, cause, d.opTag) }
        | none => s
      | _, _ => s
    | _, _ => s
  | _, _ => s)

/-- An ended operation completes once everything it writes has landed: its marks clear and its signal leaves (R163). -/
def execOperationCompletion (c : CoreId) (i : Nat) (s : State) : Host.Outcome State Fault Refusal :=
  .next (if !s.ticking || (s.core c).pw.reclaiming then s else
  match (s.core c).trailing[i]?, s.runCtx with
  | some t, some (n, _) =>
    match t.at_ with
    | some e =>
      if e ≤ (s.core c).cyc ∨ (s.core c).cur.isNone then
        let s := (s.stallTo c 0 e).modCore c fun k => { (k.settle (max e k.cyc)) with trailing := k.trailing.eraseIdx i }
        let s := (s.clearMarks c t.queue t.op).sendSignal n c t.desc
        s.finishExec n
      else s
    | none => s
  | _, _ => s)

/-- A signal in flight reaches its counter (R183). -/
def execSignalArrival (i : Nat) (s : State) : Host.Outcome State Fault Refusal :=
  .next (if !s.ticking then s else
  match s.fabric.vc4[i]? with
  | some (.signal n k c inc _ _) =>
    (s.modFabric fun f => { f with vc4 := f.vc4.eraseIdx i }).applySignal n k c inc
  | _ => s)

/-! ## Held reads -/

/-- Whether a line of a die is wet for a core at its cycle `t`. -/
def State.lineWet (s : State) (c : CoreId) (t line : Nat) : Bool :=
  (s.slice c.die).wet.any fun m => m.line == line && s.markHits c t m

/-- The cycles at which a core's own marks of a line clear. -/
def State.clearsAt (s : State) (c : CoreId) (line : Nat) : List Nat :=
  ((s.slice c.die).wet.filter fun m => m.line == line && m.core == c).filterMap fun m => m.clearAt

/-- A held read leaves again once its line is clear, `dt` C-cycles from now: in the same cycle for a line that a bond-side
write clears, within 2 for one cleared over the fabric (R178). -/
def execWetLineClear (c : CoreId) (dt : Nat) (s : State) : Host.Outcome State Fault Refusal :=
  .next (match s.current c with
  | none => s
  | some u =>
    match ((s.core c).queue u.q).wait with
    | .wet line =>
      let t := (s.core c).cyc + dt
      let ends := s.clearsAt c line
      if (ends.isEmpty || t == ends.foldl max (s.core c).cyc) && !s.lineWet c t line then
        (s.stallTo c 15 t).modQueue c u.q fun q =>
          { q with wait := .none, run := q.run.map fun r => { r with leaveAt := some t } }
      else s
    | _ => s)

/-! ## Barriers -/

def Ctx.line? (x : Ctx) (l : LineId) : Option HatchLine := assoc? l.val x.lines
def Ctx.setLine (x : Ctx) (l : LineId) (h : HatchLine) : Ctx := { x with lines := assocSet l.val h x.lines }

/-- The participants of a mask (R190). -/
def participants (mask : Nat) : List Nat := (List.range 68).filter fun i => bit mask i

/-- An arrival of a participant: its bit, or a re-entry held for the first generation it has none for (R192, R193). The number
is how many generations ahead it counts. -/
def HatchLine.arrive (h : HatchLine) (p now : Nat) : HatchLine × Nat :=
  if p ∈ h.arrived then
    let ahead := (h.held.filter fun e => e.1 = p).length + 1
    ({ h with held := h.held ++ [(p, ahead)] }, ahead)
  else ({ h with arrived := h.arrived ++ [p], times := h.times ++ [(p, now)] }, 0)

/-- The lane and the number that a CLIP_DRAW in hand waits for (R332, R334). -/
def Queue.drawWait (w : Queue) (x : Ctx) (c : CoreId) : Option (Nat × Nat × Nat) :=
  match w.ops, w.run, x.shuffle with
  | d :: _, some r, some v => match d.op with
    | .clipDraw _ => if r.xfer.isSome || r.outcome.isSome then none
        else (v.lane? c).bind fun l => (assoc? l v.want).map fun q => (l, nthD 0 v.pos l, q)
    | _ => none
  | _, _, _ => none

/-- What R197 lists of a queue that has waited for `elapsed` µs, as a record entry; a waiting draw is listed as kind 4 with its
lane, its draw position and its number, for which the specification gives no layout (R334). -/
def Queue.waitEntry (w : Queue) (elapsed : Nat) (x : Ctx) (c : CoreId) (q : QueueId) : Option (List Byte) :=
  match w.ops with
  | [] => none
  | d :: _ =>
    let base := fun (kind : Nat) => [(0, 1, 2), (1, 1, c.val), (2, 1, q.val), (3, 1, kind), (4, 4, d.opTag.toNat),
      (8, 4, satAt (2 ^ 32 - 1) elapsed)]
    let lineInfo := fun (kind : Nat) (l : LineId) =>
      match x.line? l with
      | some h =>
        let missing := (participants h.mask).filter fun p => p ∉ h.arrived
        let cores := ((missing.filter fun p => p < 64).map fun p => 2 ^ p).sum
        let media := ((missing.filter fun p => 64 ≤ p).map fun p => 2 ^ (p - 64)).sum
        some (record 64 (base kind ++ [(24, 1, l.val), (25, 1, bitOf h.gen), (32, 8, cores), (40, 1, media)]))
      | none => some (record 64 (base kind ++ [(24, 1, l.val)]))
    match w.wait, d.op with
    | .none, .clipDraw _ => (w.drawWait x c).map fun e =>
        record 64 (base 4 ++ [(24, 1, e.1), (32, 8, e.2.1), (52, 8, e.2.2)])
    | .wet line, _ => some (record 64 (base 3 ++ [(48, 4, 128 * line)]))
    | .barrier, .barrier l => lineInfo 1 l
    | .reentry, .barrier l => lineInfo 2 l
    | .held _, _ => none
    | _, _ => if w.run.isNone && !x.met c d then
        some (record 64 (base 0 ++ [(12, 1, d.waitCtr.val), (16, 4, d.waitTarget.toNat), (20, 4, x.counter c d.waitCtr)]))
      else none

/-- The entry of a queue of a core. -/
def State.waitEntry (s : State) (x : Ctx) (c : CoreId) (q : QueueId) : Option (List Byte) :=
  let w := (s.core c).queue q
  w.waitEntry ((s.core c).measured s.timeNs w / 1000) x c q

/-- The entries of every waiting queue of the running program (R197). -/
def State.waitEntries (s : State) (x : Ctx) : List (List Byte) :=
  allCores.flatMap fun c => if inMap x.coreMap c then allQueues.filterMap fun q => s.waitEntry x c q else []

/-- A queue head that has not issued ends with a status and its program stops (R191, R197, R199, R200). -/
def State.failHead (s : State) (n : CtxId) (c : CoreId) (q : QueueId) (st : Status) (struct_ : Nat)
    (body : List (List Byte)) : State :=
  match ((s.core c).queue q).ops with
  | [] => s
  | d :: _ =>
    let s := s.modQueue c q fun w => { w with wait := .broken }
    let f : FaultInfo :=
      { status := st, cls := 4, struct_ := struct_, ctx := n.val, die := c.die.val, core := c.val, queue := q.val,
        opTag := d.opTag.toNat, progress := progressWord d.op c q 0 }
    s.faultOp n f body

/-- Whether a queue's head waits on a counter that one of the dies can signal (R199). -/
def Queue.lostTo (w : Queue) (x : Ctx) (c : CoreId) (ds : List DieId) : Bool :=
  match w.ops with
  | d :: _ => w.run.isNone && (w.wait == .none || w.wait == .counter) && !x.met c d &&
      (((x.exec.bind fun e => assoc? (ctrKey c d.waitCtr) e.owners).getD []).any fun o => decide (o ∈ ds))
  | [] => false

/-- The entries of the waits of a program in progress on counters that one of the dies can signal, at the cores or in the save area
(R199). -/
def State.lostWaits (s : State) (n : CtxId) (x : Ctx) (ds : List DieId) : List (List Byte) :=
  if s.running = some n then
    allCores.flatMap fun c => if inMap x.coreMap c then allQueues.filterMap fun q =>
      if ((s.core c).queue q).lostTo x c ds then s.waitEntry x c q else none else []
  else match x.saved with
    | some v => v.queues.flatMap fun e => allQueues.filterMap fun q =>
        let c : CoreId := ⟨e.1 % 64, by omega⟩
        match e.2[q.val]? with
        | some w => if w.lostTo x c ds then w.waitEntry (w.waitUs / 1000) x c q else none
        | none => none
    | none => []

/-- At a dispatch point, `dt` C-cycles from now, the eligible head of the highest queue issues (R153). A wait on a counter
whose owner is lost ends instead (R199). -/
def execDispatch (c : CoreId) (dt : Nat) (s : State) : Host.Outcome State Fault Refusal :=
  .next (match s.acting c with
  | none => s
  | some (n, x, e) =>
    let k := s.core c
    match allQueues.find? fun q => (k.queue q).lostTo x c e.lost with
    | some q => (s.setSync syncOwner).failHead n c q .syncOwnerLost 0x10 (s.lostWaits n x e.lost)
    | none =>
    match k.pick x c with
    | none => s
    | some q =>
      let free : Option (Except State State) := match s.current c with
        | none => if k.cur.isNone then some (.ok s) else none
        | some u => if u.q.val < q.val && s.atPoint c u then some (s.suspend c u) else none
      match free with
      | none => s
      | some (.error s) => s
      | some (.ok s') =>
        if k.pw.lending then s
        else
          let s := s'
          let t := max (k.cyc + dt) (s.core c).freeAt
          let s := (s.stallTo c (s.idleCause c x) t).modCore c fun k => { k.settle t with idleAs := none }
          let s := s.pruneMarks c t
          match ((s.core c).queue q).ops, ((s.core c).queue q).run with
          | _, some r => s.reissue c q r t
          | d :: _, none => s.issueNew c n x e q d t
          | [], none => s)

/-- A BARRIER that reaches the head of its queue arrives (R191 to R193, R200). -/
def execBarrier (c : CoreId) (q : QueueId) (s : State) : Host.Outcome State Fault Refusal :=
  .next (match s.acting c with
  | none => s
  | some (n, x, _) =>
    let w := (s.core c).queue q
    match w.ops, w.run with
    | d :: _, none =>
      match d.op with
      | .barrier l =>
        if w.wait ≠ .none && w.wait ≠ .counter || !x.met c d then s
        else
          let bad := match x.line? l with
            | some h => h.broken || !bit h.mask c.val
            | none => true
          if bad then s.failHead n c q .barrierBroken 0x07 (s.waitEntries x)
          else match x.line? l with
            | none => s
            | some h =>
              let (h', ahead) := h.arrive c.val s.timeNs
              let kind := if ahead = 0 then WaitKind.barrier else .reentry
              (s.putCtx n (x.setLine l h')).modQueue c q fun w =>
                { w.beginWait kind s.regs.waitLimit s.timeNs with barGens := ahead }
      | _ => s
    | _, _ => s)

/-- A queue after the release of a line (R192, R193). -/
def Queue.released (w : Queue) (l : LineId) : Queue :=
  match w.ops with
  | d :: _ => match d.op with
    | .barrier l' =>
      if l' ≠ l || w.run.isSome then w
      else match w.wait with
        | .barrier => { w with wait := .released }
        | .reentry => if w.barGens ≤ 1 then { w with wait := .barrier, barGens := 0 } else { w with barGens := w.barGens - 1 }
        | _ => w
    | _ => w
  | [] => w

/-- The line after its release: G toggles and the re-entries held for the new generation arrive (R192, R193). -/
def HatchLine.release (h : HatchLine) (now : Nat) : HatchLine :=
  let next := h.held.filter fun e => e.2 = 1
  let later := (h.held.filter fun e => e.2 ≠ 1).map fun e => (e.1, e.2 - 1)
  { h with gen := !h.gen, arrived := next.map fun e => e.1, times := next.map fun e => (e.1, now), held := later }

/-- The arrival lag of a participant in units of 10 ns (R203). -/
def lagOf (times : List (Nat × Nat)) (p : Nat) : Nat :=
  let first := (times.map fun t => t.2).foldl min ((times.head?.map fun t => t.2).getD 0)
  satAt 0xFFFF (((assoc? p times).getD first - first) / 10)

/-- Lags recorded in the rings of the compute participants (R203), and for their dies in order of arrival (R452). -/
def State.pushLags (s : State) (mask : Nat) (times : List (Nat × Nat)) : State :=
  let s := s.mapCores fun i k => if bit mask i.val then
    { k with lags := (lagOf times i.val :: k.lags).take 64, lagCount := k.lagCount + 1 } else k
  let mine := fun (d : DieId) => ((times.filter fun t => t.1 / 4 = d.val ∧ bit mask t.1).map fun t => lagOf times t.1).reverse
  { s with log := { s.log with lagDie := Vector.ofFn fun d => (mine d ++ s.log.lagDie.get d).take 64 } }

/-- LAG_SCORE of a die: the mean of the last 64 lags of its participating cores (R452). -/
def State.lagScoreOf (s : State) (d : DieId) : Nat :=
  let ls := s.log.lagDie.get d
  if ls.isEmpty then 0 else ls.sum / ls.length

/-- LAG_PERIOD: the mean interval between the last 64 releases (R452). -/
def lagPeriodOf (ts : List Nat) : Nat :=
  match ts with
  | a :: _ :: _ => (a - ts.getLastD a) / (ts.length - 1) / 10
  | _ => 0

/-- The flag of one die: set with a record, or cleared (R453). -/
def State.flagLaggard (s : State) (d : DieId) : State :=
  let score := s.log.lagScore.get d
  let count := ((List.finRange 4).map fun k => (s.core (coreOf d k)).lagCount).sum
  if s.log.lagThresh < score && 64 ≤ count then
    if d ∈ s.log.lagFlags then s
    else
      let s := { s with log := { s.log with lagFlags := s.log.lagFlags ++ [d] } }
      (s.logFault { status := .done, cls := 0, struct_ := 0x0E, die := d.val }
        [record 64 [(0, 1, 10), (1, 1, d.val), (4, 4, score), (8, 4, s.log.lagPeriod)]]).2
  else { s with log := { s.log with lagFlags := s.log.lagFlags.filter fun e => e ≠ d } }

/-- Laggard scoring at a release (R452, R453). -/
def State.scoreLags (s : State) (mask : Nat) : State :=
  if mask % 2 ^ 64 = 0 then s
  else
    let ts := (s.timeNs :: s.log.releases).take 64
    let score := Vector.ofFn fun (d : DieId) => if field mask (4 * d.val) 4 = 0 then s.log.lagScore.get d else s.lagScoreOf d
    let s := { s with log := { s.log with releases := ts, lagPeriod := lagPeriodOf ts, lagScore := score } }
    allDies.foldl (fun s d => if field mask (4 * d.val) 4 = 0 then s else s.flagLaggard d) s

/-- BARRIERs of the running program that wait on one of the lines end with BARRIER_BROKEN (R200, R428). -/
def State.failWaiters (s : State) (n : CtxId) (hit : LineId → Bool) : State :=
  let x := s.ctxD n
  let waits := fun (c : CoreId) (q : QueueId) =>
    let w := (s.core c).queue q
    inMap x.coreMap c && w.run.isNone && (w.wait == .barrier || w.wait == .reentry) && match w.ops with
      | d :: _ => match d.op with
        | .barrier l => hit l
        | _ => false
      | [] => false
  let all := allCores.flatMap fun c => (allQueues.filter (waits c)).map fun q => (c, q)
  if all.isEmpty then s
  else all.foldl (fun s e => s.failHead n e.1 e.2 .barrierBroken 0x07 (s.waitEntries x)) s

/-- A line of which every participant has arrived releases (R192, R194). Where the easel die's count of arrivals disagrees with
the release, the waiters end instead (R428). -/
def execHatchRelease (l : LineId) (mismatch : Bool) (s : State) : Host.Outcome State Fault Refusal :=
  .next (if !s.ticking then s else
  match s.runCtx with
  | none => s
  | some (n, x) =>
    if mismatch then s.failWaiters n fun k => k == l
    else
    match x.line? l with
    | none => s
    | some h =>
      if h.mask = 0 || h.broken || !(participants h.mask).all (fun p => p ∈ h.arrived) then s
      else
        let s := s.stamp
        let s := s.putCtx n (x.setLine l (h.release s.timeNs))
        let s := s.mapCores fun _ k => { k with queues := k.queues.map fun w => w.released l }
        (s.pushLags h.mask h.times).scoreLags h.mask)

/-! ## Time-outs -/

/-- The device time at which a wait of a core has the measured length `elapsed`. -/
def Core.timeOf (k : Core) (now : Nat) (q : Queue) (elapsed : Nat) : Nat :=
  now + ceilDiv ((elapsed - k.measured now q) * 16) (max 1 (min 16 k.pw.allowance))

/-- A wait that has lasted longer than its limit ends with SYNC_TIMEOUT, or HAZARD_WET_READ for a held read; the record lists
every waiting queue (R196 to R198, R334). `elapsed` is its measured length in ns when it ends, within 10 µs after its limit and not
before what has been measured of it; device time moves up to that point. -/
def execWaitTimeout (c : CoreId) (q : QueueId) (elapsed : Nat) (s : State) : Host.Outcome State Fault Refusal :=
  .next (match s.acting c with
  | none => s
  | some (n, x, _) =>
    let w := (s.core c).queue q
    let limit := 100000 * w.waitLimit
    if elapsed ≤ limit || limit + 10000 < elapsed || elapsed < min ((s.core c).measured s.timeNs w) (limit + 10000) then s
    else
      let s1 : State := { s with timeNs := (s.core c).timeOf s.timeNs w elapsed }
      match s1.waitEntry x c q with
      | none => s
      | some _ =>
        let body := s1.waitEntries x
        match w.wait, s.current c with
        | .wet line, some u =>
          if u.q = q then s1.failOp c u (u.info c .hazardWetRead 0x10 (128 * line)) body else s
        | .wet _, none => s
        | _, some u => if u.q = q then (s1.setSync syncTimeout).failOp c u (u.info c .syncTimeout 0x10 0) body
            else (s1.setSync syncTimeout).failHead n c q .syncTimeout 0x10 body
        | _, none => (s1.setSync syncTimeout).failHead n c q .syncTimeout 0x10 body)

/-! ## Lending -/

/-- The stall causes that count towards the 2 µs after which a core lends (R201). -/
def lendCauses : List (Fin 16) := [0, 1, 2, 3, 4, 13, 5, 6, 7, 14]

/-- Whether nothing of a core is eligible, no operation but a transfer that it waits for is in progress, and its cycles count under
a cause of R201: a draw that waits for its slot and a BUCKET_SEND at a full queue are among them, a held fault or a held read is
not. -/
def State.idleFor (s : State) (c : CoreId) (x : Ctx) : Bool :=
  ((s.core c).pick x c).isNone && decide (s.idleCause c x ∈ lendCauses) && (match s.current c with
    | some u => u.run.outcome.isNone && (match u.desc.op with
      | .move _ | .mcast _ | .atomicAdd _ | .stashPush _ | .stashPop _ | .clipDraw _ | .bucketSend _ => true
      | _ => false)
    | none => (s.core c).cur.isNone)

/-- A core without an eligible head for 2 µs lends its power share (R201). -/
def execPowerLend (c : CoreId) (s : State) : Host.Outcome State Fault Refusal :=
  .next (match s.acting c with
  | none => s
  | some (_, x, _) =>
    if s.pw.lend && !(s.core c).pw.lending && s.idleFor c x then
      s.modCore c fun k => { k with pw := { k.pw with lending := true } }
    else s)

/-- A lending core with an eligible head asks for its share back and freezes until CONTROL_INTERVAL grants it (R202). -/
def execPowerReclaim (c : CoreId) (s : State) : Host.Outcome State Fault Refusal :=
  .next (match s.acting c with
  | none => s
  | some (_, x, _) =>
    if (s.core c).pw.lending && ((s.core c).pick x c).isSome then
      s.modCore c fun k =>
        { k.bankWaits s.timeNs true with pw := { k.pw with reclaiming := true } }
    else s)

end Sys2Proof.Machine
end

