-- ==== Sys2Proof/Machine/ArrayOps.lean ====
section
/-! DEFINITION. Meanings: the operations of the Burin array and of the pull pipeline: OUTER, PULL, PRELOAD and STYLUS (R57 to R104,
R110 to R124). -/

namespace Sys2Proof.Machine

open Sys2Proof

/-! ## PULL -/

/-- The cycle at which a pull selected at `t` issues: after its side fetch, and when the vertical path is free (R69, R113). -/
def Core.pullStart (k : Core) (p : PullP) (t : Nat) : Nat :=
  let t1 := if p.s0.isSome || p.s1.isSome then t + 52 else t
  match k.shift with
  | some sh => max t1 (sh.start + 257)
  | none => t1

/-- The plate that iteration `i` of an explicit pull takes (R168). -/
def PullP.plateAt (p : PullP) (i : Nat) : Nat := if p.dword then (p.plate + i) % 4 else (p.plate + i) % 8

/-- The iterations of a PULL, each when the one before has reached cycle 257: the last number is the cycle of the last issue, or
the iteration that could not issue. -/
def State.pullLoop (s : State) (c : CoreId) (u : Cur) (p : PullP) : Nat → Nat → Nat → State × Option PullStop × Nat
  | 0, _, t => (s, none, t)
  | n + 1, i, t =>
    let fetch := t
    let t := (s.core c).pullStart p t
    match s.pullPlate c u u.run.op p (PullP.plateAt p i) p.dword (PullP.walkAt p i) i t (if i = u.run.unit then fetch else t - 52) with
    | .error e => (s, some e, i)
    | .ok s' => if n = 0 then (s'.stallTo c 10 t, none, t) else (s'.stallTo c 10 t).pullLoop c u p n (i + 1) t

/-- The residue check of stages 0 to 5 finds a mismatch in a row of a pull: the pull completes and the context stops as class D
(R124). `plate` is 0 for gathered Stylus rows, which come from no plate. -/
def State.residueFault (s : State) (c : CoreId) (u : Cur) (p : PullP) (plate walk row : Nat) : State :=
  let addr := 128 * (((p.out.map fun r => r.bitAt (((PullP.walkAt p walk).set 0 0).set 1 row) / 8).getD 0) / 128)
  s.faultOp u.ctx (u.info c .internalError 0x02 addr true)
    [record 64 [(0, 1, 12), (1, 1, 1), (2, 1, plate), (4, 2, row), (8, 4, u.desc.opTag.toNat)]]

/-- A PULL: its rows pass the pull pipeline and land in the background; a residue mismatch in the iteration and row of `residue`
stops the context after the pull. A plate that still shifts when the PULL is selected is a conflict (R68 to R70, R73, R74, R110 to R124). -/
def execPull (c : CoreId) (p : PullP) (residue : Option (Nat × Nat)) (s : State) : Host.Outcome State Fault Refusal :=
  .next (match s.currentRun c (.pull p) with
  | none => s
  | some u =>
    if u.run.endAt.isSome then s
    else
      let t0 := u.run.leaveAt.getD u.run.issued
      let k := (s.core c).settle t0
      if (k.info (k.owner (PullP.plateAt p u.run.unit) p.dword)).st = .shifting then s.stopPull c u .conflict
      else
      match s.pullLoop c u p (PullP.walks p - u.run.unit) u.run.unit t0 with
      | (s', some e, i) => (s'.setRun c u.q { u.run with unit := i }).stopPull c { u with run := { u.run with unit := i } } e
      | (s', none, t) =>
        let s' := s'.setRun c u.q { u.run with lastEnd := t, first := false }
        let s' := s'.endOp c u.q (t + 1)
        match residue with
        | none => s'
        | some (i, row) => if i < u.run.unit ∨ PullP.walks p ≤ i then s' else s'.residueFault c u p (PullP.plateAt p i) i row)

/-! ## PRELOAD -/

/-- A PRELOAD shifts a tile into a plate from the top; the plate ends free (R71 to R73). Words beyond the source's counts hold +0 (see
the log). -/
def execPreload (c : CoreId) (p : PreloadP) (s : State) : Host.Outcome State Fault Refusal :=
  .next (match s.currentRun c (.preload p) with
  | none => s
  | some u =>
    if u.run.endAt.isSome then s
    else
      let k := s.core c
      let own := k.owner p.plate p.dword
      let st := (k.info own).st
      if st ≠ .free ∧ st ≠ .owned u.q then s.failOp c u (u.info c .plateConflict 0x10 0) []
      else
        let t0 := u.run.leaveAt.getD u.run.issued
        let t := match k.shift with
          | some sh => max t0 (sh.start + 257)
          | none => t0
        let s := (s.stallTo c 10 t).modCore c fun k => k.settle t
        let rows := List.range (p.src.count 1)
        let cols := List.range (p.src.count 0)
        let reads := rows.reverse.map fun r => (t + (255 - r), linesOf (cols.flatMap fun j => p.src.touch [j, r, 0, 0, 0, 0]))
        match s.firstHit c u.q u.run.op reads 0 with
        | some (_, t', m) => s.hazard c u t' m
        | none =>
          let mem := (s.slice c.die).mem
          let s := s.modCore c fun k =>
            let k := k.zeroPlate p.plate p.dword
            let k := rows.foldl (fun k r => cols.foldl (fun k j => k.setWord p.plate r j (p.src.word mem [j, r, 0, 0, 0, 0])) k) k
            k.setInfo own fun _ => ⟨.free, none, p.dword⟩
          (s.stallTo c 11 (t + 308)).endOp c u.q (t + 308))

/-! ## OUTER -/

end Sys2Proof.Machine

namespace Sys2Proof

open Machine

/-- The loop index of reduction step `k` of a tile, with level 0 at `i` (R166). -/
def OuterP.index (p : OuterP) (r : OperandRec) (tile k i : Nat) : List Nat :=
  ((List.range 6).foldl (fun (acc : List Nat × Nat × Nat) l =>
    if l = 0 then (acc.1 ++ [i], acc.2)
    else if l < p.tileLevel then (acc.1 ++ [acc.2.1 % r.count l], acc.2.1 / r.count l, acc.2.2)
    else (acc.1 ++ [acc.2.2 % r.count l], acc.2.1, acc.2.2 / r.count l)) ([], k, tile)).1

/-- One vector of an operand: stored elements with their scale bytes. -/
def OuterP.vector (p : OuterP) (r : OperandRec) (m : Sparse Byte) (tile k : Nat) : List (Nat × Nat) :=
  (List.range (r.count 0)).map fun i => (r.raw m (p.index r tile k i), r.scale m (p.index r tile k i))

/-- The lines that a vector touches. -/
def OuterP.vecLines (p : OuterP) (r : OperandRec) (tile k : Nat) : List Nat :=
  linesOf ((List.range (r.count 0)).flatMap fun i => r.touch (p.index r tile k i))

/-- The reads of a counterproof block that begins at step `k0`: stored row i leaves 308 − i cycles before the block's first
step at `t`, and in MXF4 rows 2i and 2i + 1 do (R61). -/
def OuterP.fillReads (p : OuterP) (r : OperandRec) (tile k0 n t : Nat) : List (Nat × List Nat) :=
  (List.range (r.count 0)).map fun i => (t + (if r.fmt == .mxf4 then i / 2 else i) - 308, linesOf ((List.range n).flatMap fun j => r.touch (p.index r tile (k0 + j) i)))

/-- C-cycle at which step `j` of a bite enters (R25). -/
def OuterP.stepAt (p : OuterP) (t j : Nat) : Nat := t + stepCycles p.a.fmt p.b.fmt j

/-- The array's view of a bite from the replay buffers (R83, R95). -/
def OuterP.bite (p : OuterP) (as bs : List (List (Nat × Nat))) : BiteIn where
  fa := p.a.fmt
  fb := p.b.fmt
  neg := p.neg
  steps := (as.zip bs).map fun s =>
    (s.1.map fun e => arrayNum p.a.fmt e.2 e.1, s.2.map fun e => arrayNum p.b.fmt e.2 e.1)

end Sys2Proof

namespace Sys2Proof.Machine

open Sys2Proof

/-- The block-scale exponent of a cell (R59, R96). -/
def biteScale (p : OuterP) (as bs : List (List (Nat × Nat))) (i j : Nat) : Int :=
  let e := fun (f : Fmt) (v : List (List (Nat × Nat))) (k : Nat) =>
    if f.isMx then (((v.headD []).getD k (0, 127)).2 : Int) - 127 else 0
  e p.a.fmt as i + e p.b.fmt bs j

/-- Every cell of a bite promoted into its plate word (R96, R97). -/
def Core.promote (k : Core) (p : OuterP) (plate : Nat) (as bs : List (List (Nat × Nat))) (w : Win) (cells : List (List Bite)) : Core :=
  (List.range cells.length).foldl (fun k i =>
    let row := cells.getD i []
    (List.range row.length).foldl (fun k j =>
      let b := row.getD j Bite.zero
      let s := biteScale p as bs i j
      if p.dword then
        let v := promotePair w s b (k.word plate i j) (k.word (plate + 4) i j)
        (k.setWord plate i j v.1).setWord (plate + 4) i j v.2
      else k.setWord plate i j (promoteWord w s b (k.word plate i j))) k) k

/-- The bite registers after a bite, in one of the two banks (R87). -/
def biteRegs (cells : List (List Bite)) : Sparse Int :=
  (List.range cells.length).flatMap fun i => (List.range (cells.getD i []).length).filterMap fun j =>
    let v := ((cells.getD i []).getD j Bite.zero).sum
    if v = 0 then none else some (256 * i + j, v)

end Sys2Proof.Machine

namespace Sys2Proof

open Machine

/-- The loop indices of a bite, for its record (R101). -/
def OuterP.loopBytes (p : OuterP) (tile k : Nat) : List (Nat × Nat × Nat) :=
  ((p.index p.a tile k 0).zip (List.range 6)).map fun e => (24 + 2 * e.2, 2, e.1)

end Sys2Proof

namespace Sys2Proof.Machine

open Sys2Proof

/-- The record of an array check (R101, R435). -/
def checkBody (p : OuterP) (plate tile k passes : Nat) (rows cols : List Nat) : List Byte :=
  record 64 ([(0, 1, 1), (1, 1, plate), (2, 2, rows.length), (4, 2, cols.length),
    (8, 2, nthD 0 rows 0), (10, 2, nthD 0 rows 1), (12, 2, nthD 0 rows 2), (14, 2, nthD 0 rows 3),
    (16, 2, nthD 0 cols 0), (18, 2, nthD 0 cols 1), (20, 2, nthD 0 cols 2), (22, 2, nthD 0 cols 3), (36, 1, passes)] ++
    p.loopBytes tile k)

/-- The cycle at which the attached pull of the tile before the next one is due, where both tiles have one plate (R67). -/
def samePlate (p : OuterP) (r : Run) (tile : Nat) : Option Nat :=
  match r.att with
  | some a => if p.plateOf a.tile = p.plateOf tile then some a.due else none
  | none => none

/-- The vectors of a bite as far as they have been read, and the step at which a read met a wet line. -/
def State.gatherBite (s : State) (c : CoreId) (u : Cur) (p : OuterP) (tile k0 t : Nat) :
    Nat → Nat → List (List (Nat × Nat)) → List (List (Nat × Nat)) → (List (List (Nat × Nat)) × List (List (Nat × Nat))) × Option (Nat × WetMark)
  | 0, _, as, bs => ((as, bs), none)
  | n + 1, j, as, bs =>
    let m := (s.slice c.die).mem
    let lines := (if p.a.across then [] else p.vecLines p.a tile (k0 + j)) ++ (if p.b.across then [] else p.vecLines p.b tile (k0 + j))
    match s.wetHit c u.q u.run.op (p.stepAt t j - 52) lines with
    | some w => ((as, bs), some (p.stepAt t j - 52, w))
    | none =>
      let k := s.core c
      let a := if p.a.across then k.ports.cpCol.getD j [] else p.vector p.a m tile (k0 + j)
      let b := if p.b.across then k.ports.cpRow.getD j [] else p.vector p.b m tile (k0 + j)
      s.gatherBite c u p tile k0 t n (j + 1) (as ++ [a]) (bs ++ [b])

/-- The counterproof blocks that a bite needs and the port does not hold are filled (R61). -/
def State.fillBlocks (s : State) (c : CoreId) (u : Cur) (p : OuterP) (tile k0 t : Nat) : Except (Nat × Nat × WetMark) State :=
  let n := min (256 - k0 % 256) (p.k - k0)
  let need := fun (r : OperandRec) (have_ : List (List (Nat × Nat))) => r.across && have_.isEmpty
  let k := s.core c
  let reads := (if need p.a k.ports.cpCol then p.fillReads p.a tile k0 n t else []) ++
    (if need p.b k.ports.cpRow then p.fillReads p.b tile k0 n t else [])
  match s.firstHit c u.q u.run.op reads 0 with
  | some (i, t', m) => .error (i % 256, t', m)
  | none =>
    let m := (s.slice c.die).mem
    let vecs := fun (r : OperandRec) => (List.range n).map fun j => p.vector r m tile (k0 + j)
    let fill := fun (k : Ports) =>
      { k with cpCol := if need p.a k.cpCol then vecs p.a else k.cpCol, cpRow := if need p.b k.cpRow then vecs p.b else k.cpRow }
    .ok (s.modCore c fun k => { k with ports := fill k.ports })

/-- The plate of a tile at its first bite: its state, and the cycle from which it may be used. The first plate is checked as it
stands at the issue, a later one of the rotation waits while it shifts (R67, R73, R74). A plate that its queue owns holds a
double-word total from the first dword OUTER on (R65). Only the state of the plate named is looked at, not that of plate p + 4,
whatever queue owns it (see the log). -/
def Core.claim (k : Core) (p : OuterP) (u : Cur) (tile t : Nat) : Option (Core × Nat) :=
  let plate := p.plateOf tile
  let own := k.owner plate p.dword
  let t' := match k.shift with
    | some sh => if sh.plate = own ∧ (0 < tile) then max t (sh.start + 257) else t
    | none => t
  let named := (k.info own).st
  let k := k.settle t'
  if tile = 0 ∧ named = .shifting then none
  else match (k.info own).st with
  | .shifting => none
  | .free => some (k.setInfo own fun i => { i with st := .owned u.q, dword := if own = plate then p.dword else i.dword }, t')
  | .owned q => if q = u.q then some (k.setInfo own fun i => { i with dword := i.dword || (own == plate && p.dword) }, t') else none

end Sys2Proof.Machine

namespace Sys2Proof

open Machine

/-- The first cycle of the next bite: after the last step, the decision on the bite before the last, and the port's latency
where it has just issued (R60, R61, R88). -/
def OuterP.biteStart (p : OuterP) (r : Run) (held : Nat) : Nat :=
  let lat := if p.a.across || p.b.across then 308 else 52
  let next := if r.first then r.issued + lat else max r.lastEnd (r.decided.getD 1 0)
  match r.leaveAt with
  | some t => if r.fetch then next else t + 52 - stepCycles p.a.fmt p.b.fmt held
  | none => next

end Sys2Proof

namespace Sys2Proof.Machine

open Sys2Proof

/-- The rest of a bite's vectors, with an attached pull that falls due between their reads (R67, R69). -/
def State.biteRest (s : State) (c : CoreId) (u : Cur) (p : OuterP) (tile k0 t n held : Nat) (as bs : List (List (Nat × Nat))) :
    Except State (State × Nat × List (List (Nat × Nat)) × List (List (Nat × Nat))) :=
  let stop := fun (s : State) (as bs : List (List (Nat × Nat))) (t' : Nat) (m : WetMark) =>
    let keep := fun (q : Ports) => { q with replayCol := as, replayRow := bs }
    (s.modCore c fun k => { k with ports := keep k.ports }).hazard c u t' m
  let early := match u.run.att with
    | some a => ((List.range n).filter fun j => held ≤ j && p.stepAt t j < a.due + 52).length
    | none => n - held
  match s.gatherBite c u p tile k0 t early held as bs with
  | ((as, bs), some (t', m)) => .error (stop s as bs t' m)
  | ((as, bs), none) =>
    if held + early = n then .ok (s, t, as, bs)
    else match s.duePull c u p (p.stepAt t (held + early)) with
      | .error e => .error (s.stopPull c u e)
      | .ok (s, hold) =>
        match s.gatherBite c u p tile k0 (t + hold) (n - held - early) (held + early) as bs with
        | ((as, bs), some (t', m)) => .error (stop s as bs t' m)
        | ((as, bs), none) => .ok (s, t + hold, as, bs)

/-- Everything but the decision of one bite: the state and the vectors, or the state in which the operation has stopped. -/
def State.biteReads (s : State) (c : CoreId) (u : Cur) (p : OuterP) :
    Except State (State × Nat × List (List (Nat × Nat)) × List (List (Nat × Nat))) :=
  let tile := u.run.unit / p.bites
  let k0 := 32 * (u.run.unit % p.bites)
  let n := min 32 (p.k - k0)
  let k := s.core c
  let held := k.ports.replayCol.length
  let t0 := p.biteStart u.run held
  let opens := k0 = 0 ∧ held = 0
  match s.duePull c u p (if opens then max (t0 - 52) ((samePlate p u.run tile).getD 0) else t0 - 52) with
  | .error e => .error (s.stopPull c u e)
  | .ok (s, hold) =>
    let t0 := t0 + hold
    let r := (((s.core c).queue u.q).run).getD u.run
    let u := { u with run := r }
    let claim := if opens then (s.core c).claim p u tile t0 else some (s.core c, t0)
    match claim with
    | none => .error (match s.flushAtt c u with
      | .error s => s
      | .ok (s, _) =>
        let u := { u with run := (((s.core c).queue u.q).run).getD u.run }
        s.failOp c u (u.info c .plateConflict 0x10 0) [])
    | some (k', t) =>
      let s := s.modCore c fun _ => k'
      match s.fillBlocks c u p tile k0 t with
      | .error (i, t', m) => .error (s.hazard c { u with run := { u.run with seq := i } } t' m)
      | .ok s =>
        let ports := (s.core c).ports
        match s.biteRest c u p tile k0 t n held ports.replayCol ports.replayRow with
        | .error s => .error s
        | .ok (s, t', as, bs) => .ok (s.stallTo c 10 (if t' = t0 - hold then 0 else t'), t', as, bs)

/-- The end of an OUTER after its last bite: its last attached pull has issued (R67, R69). -/
def State.outerEnd (s : State) (c : CoreId) (u : Cur) (p : OuterP) : State :=
  let t := u.run.lastEnd + 12
  match s.duePull c u p t with
  | .error e => s.stopPull c u e
  | .ok (s, hold) => (if hold = 0 then s else (s.busyTo c t).stallTo c 10 (t + hold)).endOp c u.q (t + hold)

/-- One bite of an OUTER; `true` where a further one may follow (R86 to R101). -/
def State.outerBite (s : State) (c : CoreId) (u : Cur) (p : OuterP) (flt : Option ArrayFault) : State × Bool :=
  match s.biteReads c u p with
  | .error s' => (s', false)
  | .ok (s, t, as, bs) =>
    let r := (((s.core c).queue u.q).run).getD u.run
    let u := { u with run := r }
    let tile := r.unit / p.bites
    let k0 := 32 * (r.unit % p.bites)
    let plate := p.plateOf tile
    let own := (s.core c).owner plate p.dword
    let pred := ((s.core c).info own).pred
    let b := p.bite as bs
    let d := b.decide flt pred
    let dur := stepCycles p.a.fmt p.b.fmt as.length
    let again := (d.passes - 1) * (dur + 8)
    let next := r.unit + 1
    let tileEnd := next % p.bites = 0
    let due := ((r.att.map fun a => a.due).getD 0)
    match (if tileEnd then s.duePull c u p (max (t + dur + again) due) else .ok (s, 0)) with
    | .error e => (s.stopPull c u e, false)
    | .ok (s, hold) =>
      let r := (((s.core c).queue u.q).run).getD r
      let u := { u with run := r }
      let last := t + dur + again + hold
      let s := ((s.busyTo c (t + dur)).stallTo c 12 (t + dur + again)).stallTo c 10 last
      let count := fun (k : CoreCounters) =>
        { k with steps := (k.steps + as.length) % 2 ^ 48, replays := (k.replays + d.replays) % 2 ^ 48 }
      let s := s.modCore c fun k => { k with ctr := count k.ctr }
      match d.d with
      | .fail rows cols =>
        let s := s.setRun c u.q { r with lastEnd := last }
        match s.flushAtt c { u with run := { r with lastEnd := last } } with
        | .error s => (s, false)
        | .ok (s, _) =>
        (s.failOp c u (u.info c .arrayCheckFail 0x01 0 true) [checkBody p plate tile k0 d.passes rows cols], false)
      | .promote w cells top =>
        let drop := fun (q : Ports) =>
          { q with cpCol := q.cpCol.drop as.length, cpRow := q.cpRow.drop as.length, replayCol := [], replayRow := [],
                   bite0 := if r.unit % 2 = 0 then biteRegs cells else q.bite0,
                   bite1 := if r.unit % 2 = 1 then biteRegs cells else q.bite1 }
        let masked := d.margins
        let s := s.modCore c fun k =>
          let k := (k.promote p plate as bs w cells).setInfo own fun i => { i with pred := predAfter pred (firstPred b) top }
          { k with ports := drop k.ports, ctr := { k.ctr with bites := (k.ctr.bites + 1) % 2 ^ 48, masked := (k.ctr.masked + masked) % 2 ^ 48 } }
        let s := if masked = 0 then s else s.countA
        let att := if tileEnd then (if p.att.isSome then some ⟨last + 12, tile, t + hold + dur + 12, t + dur + 8⟩ else none) else r.att
        let r := { r with unit := next, first := false, lastEnd := last, decided := (last + 12) :: r.decided.take 1, leaveAt := none, att := att }
        let s := s.setRun c u.q r
        if next = p.bites * p.tiles then (s.outerEnd c { u with run := r } p, false) else (s, true)

/-- Up to `n` bites; the fault strikes the bite of this run that it names. -/
def State.outerLoop (s : State) (c : CoreId) (p : OuterP) (flt : Option ArrayFault) : Nat → Nat → State
  | 0, _ => s
  | n + 1, i =>
    match s.currentIs c (.outer p) with
    | none => s
    | some u =>
      if u.run.endAt.isSome then s
      else if u.run.unit = p.bites * p.tiles then s.outerEnd c u p
      else
        let f := flt.bind fun f => if f.bite = i then some f else none
        let (s', go) := s.outerBite c u p f
        if go then s'.outerLoop c p flt n (i + 1) else s'

/-- Whether the attached pull of a tile has issued. -/
def OuterP.pulledTile (p : OuterP) (r : Run) (tile : Nat) : Bool :=
  p.att.isSome && decide ((tile + 1) * p.bites ≤ r.unit) && (r.att.map fun a => a.tile) != some tile

/-- An OUTER runs up to `bites` bites of its nest into its plates, with an attached pull at the end of each tile (R66, R67). A residue
mismatch stops the context after the attached pull that meets it (R124). -/
def execOuter (c : CoreId) (p : OuterP) (bites : Nat) (flt : OuterFaults) (s : State) : Host.Outcome State Fault Refusal :=
  .next (
    let t := s.outerLoop c p flt.array bites 0
    match flt.residue, s.currentIs c (.outer p), p.att with
    | some (tile, row), some u, some a =>
      match ((t.core c).queue u.q).run with
      | some r => if r.op = u.run.op && OuterP.pulledTile p r tile && !OuterP.pulledTile p u.run tile then
          t.residueFault c { u with desc := attDesc u.desc p.attHdr, run := r } a (p.plateOf tile) tile row else t
      | none => t
    | _, _, _ => t)

/-! ## STYLUS -/

end Sys2Proof.Machine

namespace Sys2Proof

open Machine

/-- Elements along the reduction, at most 8,192 (R82), and matrix rows (R80). -/
def StylusP.k (p : StylusP) : Nat := p.w.count 0
def StylusP.rows (p : StylusP) : Nat := p.w.size 1

/-- C-cycles to load the vectors and for one matrix row (R81, R82, R173). -/
def StylusP.loadCycles (p : StylusP) : Nat := ceilDiv (p.vectors * p.k * p.v.fmt.bits / 8) 512
def StylusP.rowCycles (p : StylusP) : Nat := max 1 (ceilDiv (p.k * p.w.fmt.bits / 8) 1024)

/-- The loop index of element `i` of vector `t` for matrix row `r`: the vectors follow the matrix in levels 2 to 5, so that a nest
which splits a long reduction meets the slices of its own (R82, R166). A level that the vector record does not count stays at 0. -/
def StylusP.vecIx (p : StylusP) (r t i : Nat) : List Nat :=
  (((p.w.indexFrom 1 r).zip (List.range 6)).map fun e => min e.1 (p.v.count e.2 - 1)).set 1 t |>.set 0 i

/-- Whether matrix row `r` takes other vectors than the row before it. -/
def StylusP.reloads (p : StylusP) (r : Nat) : Bool := decide (0 < r) && p.vecIx r 0 0 != p.vecIx (r - 1) 0 0

/-- C-cycles that the rows from `a` up to `b` take, with the loads of new vectors between them. -/
def StylusP.spanCycles (p : StylusP) (a b : Nat) : Nat :=
  ((List.range b).drop a).foldl (fun n r => n + p.rowCycles + if a < r && p.reloads r then p.loadCycles else 0) 0

/-- The bytes of vector `t` for matrix row `r`; nothing beyond the counts of the vector record is read (R166). -/
def StylusP.vecBytes (p : StylusP) (r t : Nat) : List Nat :=
  if t < p.v.count 1 then (List.range (min p.k (p.v.count 0))).flatMap fun i => p.v.touch (p.vecIx r t i) else []

/-- Stored elements of vector `t` for matrix row `r`, +0 beyond the vector record's counts, and of matrix row `r`. -/
def StylusP.vec (p : StylusP) (m : Sparse Byte) (r t : Nat) : List (Nat × Nat) :=
  (List.range p.k).map fun i => if i < p.v.count 0 ∧ t < p.v.count 1 then (p.v.raw m (p.vecIx r t i), p.v.scale m (p.vecIx r t i)) else (0, 0x7F)
def StylusP.mat (p : StylusP) (m : Sparse Byte) (r : Nat) : List (Nat × Nat) :=
  (List.range p.k).map fun i => let ix := (p.w.indexFrom 1 r).set 0 i; (p.w.raw m ix, p.w.scale m ix)

end Sys2Proof

namespace Sys2Proof.Machine

open Sys2Proof

/-- One dot product in bites of 32: the FP32 result, the predicted exponent after it and the window replays; none where 8
replays did not suffice (R80, R104). -/
def stylusDot (fw fv : Fmt) : Nat → List (Nat × Nat) → List (Nat × Nat) → Nat → Option Int → Nat → Option (Nat × Option Int × Nat)
  | 0, _, _, acc, pr, rep => some (acc, pr, rep)
  | n + 1, ws, vs, acc, pr, rep =>
    let w := ws.take 32
    let v := vs.take 32
    let steps := (w.zip v).map fun e => (arrayNum fw e.1.2 e.1.1, arrayNum fv e.2.2 e.2.1)
    let sc : Int := (if fw.isMx then ((w.headD (0, 127)).2 : Int) - 127 else 0) + (if fv.isMx then ((v.headD (0, 127)).2 : Int) - 127 else 0)
    let first := match steps.head? with
      | some (a, b) => match vecTop [a], vecTop [b] with
        | some x, some y => x + y
        | _, _ => 0
      | none => 0
    match laneDecide fw fv steps 10 (Win.first fw fv (pr.getD first)) 0 with
    | (none, _) => none
    | (some (win, b), k) =>
      stylusDot fw fv n (ws.drop 32) (vs.drop 32) (promoteWord win sc b acc) (predAfter pr first b.top) (rep + k)

/-- The gathered rows of a group as the pull pipeline takes them; they land 70 cycles after the group's last element (R82). -/
def stylusSrc (g : List (List Nat)) (n t : Nat) : PullSrc where
  rows := g.length
  cols := n
  word := fun i j => (g.getD i []).getD j 0
  order := List.range g.length
  lands := fun _ => 70
  landsAll := 70
  fetchAt := t + 16 - 52

/-- The vectors of matrix row `r` loaded into the register (R82). -/
def State.loadVectors (s : State) (c : CoreId) (p : StylusP) (r : Nat) : State :=
  let m := (s.slice c.die).mem
  s.modCore c fun k => { k with ports := { k.ports with vecReg := (List.range p.vectors).map fun t => p.vec m r t } }


/-- The lines of every result row still to come are marked at the issue, with the cycle at which they would clear without a
replay (R175). -/
def State.markStylus (s : State) (c : CoreId) (u : Cur) (p : StylusP) (t0 : Nat) : Except PullStop State :=
  let s := s.clearMarks c u.q u.run.op
  let groups := (List.range (ceilDiv p.rows 256)).drop (u.run.unit / 256)
  let lines := groups.flatMap fun g =>
    let n := min 256 (p.rows - 256 * g)
    let at_ := t0 + p.spanCycles u.run.unit (256 * g + n) + 70
    let x := s.pullIn c u.x p.pull (PullP.walkAt p.pull g) g u.run.epoch (stylusSrc (List.replicate p.vectors []) n t0)
    (putLines x.allPuts).map fun l => (l.1, some at_)
  match s.wetHit c u.q u.run.op u.run.issued (lines.map fun l => l.1) with
  | some m => .error (.wet u.run.issued m)
  | none => .ok (s.markWet c.die c u.q u.run.op u.desc.opTag u.run.issued lines)

/-- One matrix row of a STYLUS, and its group when the row is the group's last; `true` where a further one may follow. A window
replay of a lane takes another pass of the row's bite, for which the model charges 9 C-cycles, summed over lanes and vectors (R104;
see the log). -/
def State.stylusRow (s : State) (c : CoreId) (u : Cur) (p : StylusP) : State × Bool :=
  let r := u.run
  let loads := r.first || p.reloads r.unit
  let fresh := if !r.first && p.reloads r.unit then p.loadCycles else 0
  let asked := if r.first && r.fetch then r.leaveAt.getD r.issued else r.issued
  let issue := match (s.core c).shift with
    | some sh => max asked (sh.start + 257)
    | none => asked
  let t := match r.leaveAt with
    | some l => if !r.fetch then l + 52 else if r.first then issue + 52 + p.loadCycles else l + 36 - p.rowCycles
    | none => if r.first then issue + 52 + p.loadCycles else r.lastEnd + fresh
  let prep : Except PullStop State := if r.first && (r.leaveAt.isNone || r.fetch) then
      (s.stallTo c 10 issue).markStylus c u p (issue + 52 + p.loadCycles) else .ok s
  match prep with
  | .error e => (s.stopPull c u e, false)
  | .ok s =>
    let reads := (if loads then [(if r.first then issue else t - 52 - p.loadCycles, linesOf ((List.range p.vectors).flatMap fun v =>
        p.vecBytes r.unit v))] else []) ++
      [(t - 52, linesOf ((List.range p.k).flatMap fun i => p.w.touch ((p.w.indexFrom 1 r.unit).set 0 i)))]
    match s.firstHit c u.q r.op reads 0 with
    | some (_, t', m) => (s.hazard c u t' m, false)
    | none =>
      let s := if loads then s.loadVectors c p r.unit else s
      let row := p.mat (s.slice c.die).mem r.unit
      let outs := ((s.core c).ports.vecReg.zip (List.range p.vectors)).map fun e =>
        stylusDot p.w.fmt p.v.fmt (ceilDiv p.k 32) row e.1 0 (r.preds.getD e.2 none) 0
      if outs.any Option.isNone then
        (s.failOp c u (u.info c .arrayCheckFail 0x01 0 true) [], false)
      else
        let vals := outs.map fun o => o.getD (0, none, 0)
        let reps := (vals.map fun v => v.2.2).sum
        let last := t + p.rowCycles + 9 * reps
        let old := if r.unit % 256 = 0 then [] else r.gather
        let g := (vals.zip (List.range p.vectors)).map fun e => old.getD e.2 [] ++ [e.1.1]
        let r' := { r with unit := r.unit + 1, first := false, lastEnd := last, leaveAt := none, fetch := false, gather := g,
                           preds := vals.map fun v => v.2.1 }
        let again := r.fetch && !r.first
        let count := fun (k : CoreCounters) => if again then k else { k with replays := (k.replays + reps) % 2 ^ 48 }
        let s := ((s.busyTo c (t + p.rowCycles)).stallTo c 12 last).modCore c fun k => { k with ctr := count k.ctr }
        let planned := if r.first then issue + 52 + p.loadCycles + p.rowCycles else r.lastEnd + fresh + p.rowCycles
        let s := s.delayMarks c u.q r.op (planned + 69 - p.rowCycles) (last - planned)
        let done := r'.unit = p.rows
        if r'.unit % 256 = 0 ∨ done then
          let grp := r.unit / 256
          let n := r'.unit - 256 * grp
          let d := attDesc u.desc p.pullHdr
          let issued : Except PullStop State := (s.attSignal u p.pullHdr).bind fun s =>
            s.issuePull c { u with run := r' } r.op p.pull (PullP.walkAt p.pull grp) grp (stylusSrc g n last) last
          match issued with
          | .error e => (s.stopPull c u e, false)
          | .ok s =>
            let tr := fun (k : Core) => (⟨k.nextOp, u.q, d, none, some (last + 70)⟩ : Trailing)
            let s := if p.pullHdr.sigEn then s.modCore c fun k => { k with trailing := k.trailing ++ [tr k], nextOp := k.nextOp + 1 } else s
            let s := s.setRun c u.q r'
            if done then (s.endOp c u.q (last + 70), false) else (s, true)
        else (s.setRun c u.q r', true)

def State.stylusLoop (s : State) (c : CoreId) (p : StylusP) : Nat → State
  | 0 => s
  | n + 1 =>
    match s.currentIs c (.stylus p) with
    | none => s
    | some u =>
      if u.run.endAt.isSome then s
      else
        let (s', go) := s.stylusRow c u p
        if go then s'.stylusLoop c p n else s'

/-- Whether the gathered rows of a group have entered the pull pipeline. -/
def StylusP.pulledGroup (p : StylusP) (r : Run) (g : Nat) : Bool := decide (256 * g < p.rows) && decide (min (256 * (g + 1)) p.rows ≤ r.unit)

/-- A STYLUS takes up to the matrix rows of its run (R80 to R84). A residue mismatch stops the context once the group that meets it has
passed (R124). -/
def execStylus (c : CoreId) (p : StylusP) (run : StylusRun) (s : State) : Host.Outcome State Fault Refusal :=
  .next (
    let t := s.stylusLoop c p run.rows
    match run.residue, s.currentIs c (.stylus p) with
    | some (g, row), some u =>
      match ((t.core c).queue u.q).run with
      | some r => if r.op = u.run.op && StylusP.pulledGroup p r g && !StylusP.pulledGroup p u.run g then
          t.residueFault c { u with run := r } p.pull 0 g row else t
      | none => t
    | _, _ => t)

end Sys2Proof.Machine
end

