-- ==== Sys2Proof/Machine/Demux.lean ====
section
/-! DEFINITION. The demultiplexer of an ingest job: sync lock, sections, PAT and PMT, access units, continuity and clock
discontinuities (R297 to R300). The layouts of packets, sections and PES headers are those of ISO/IEC 13818-1. -/

namespace Sys2Proof.Machine

open Sys2Proof

/-! ## Packets (R297) -/

/-- A transport packet: its offset in the segment and its 188 bytes. -/
structure TsPacket where
  off : Nat
  bytes : List Byte

def TsPacket.at (p : TsPacket) (i : Nat) : Nat := (p.bytes.getD i 0).toNat
def TsPacket.pid (p : TsPacket) : Nat := field (p.at 1) 0 5 * 256 + p.at 2
def TsPacket.pusi (p : TsPacket) : Bool := bit (p.at 1) 6
def TsPacket.error (p : TsPacket) : Bool := bit (p.at 1) 7
def TsPacket.scrambled (p : TsPacket) : Bool := field (p.at 3) 6 2 ≠ 0
def TsPacket.counter (p : TsPacket) : Nat := field (p.at 3) 0 4
def TsPacket.hasPayload (p : TsPacket) : Bool := bit (p.at 3) 4
/-- Whether an adaptation field with flags is there, its discontinuity_indicator, and its PCR in 27 MHz ticks (R299). -/
def TsPacket.adapted (p : TsPacket) : Bool := bit (p.at 3) 5 && decide (0 < p.at 4)
def TsPacket.marked (p : TsPacket) : Bool := p.adapted && bit (p.at 5) 7
def TsPacket.pcr (p : TsPacket) : Option Nat :=
  if p.adapted && bit (p.at 5) 4 && decide (7 ≤ p.at 4) then
    some ((p.at 6 * 2 ^ 25 + p.at 7 * 2 ^ 17 + p.at 8 * 2 ^ 9 + p.at 9 * 2 + field (p.at 10) 7 1) * 300 + field (p.at 10) 0 1 * 256 + p.at 11)
  else none
/-- The payload after the adaptation field. -/
def TsPacket.payload (p : TsPacket) : List Byte :=
  match field (p.at 3) 4 2 with
  | 1 => p.bytes.drop 4
  | 3 => p.bytes.drop (5 + p.at 4)
  | _ => []

/-- Where the lock stands: unlocked, or locked with the positions missed in succession. -/
inductive SyncSt where
  | unlocked | locked (missed : Nat)
deriving DecidableEq, Repr

/-- Packets found from position `pos` on, and the offsets of the bytes passed over while unlocked. `size` is the distance of packets and
`lead` the bytes before a sync byte; the fuel bounds the steps. -/
def scanPackets (size lead : Nat) : Nat → SyncSt → Nat → List Byte → List TsPacket × List Nat
  | 0, _, _, _ => ([], [])
  | n + 1, st, pos, l =>
    let sync := fun (k : Nat) => l[lead + k * size]? == some (0x47 : Byte)
    match l with
    | [] => ([], [])
    | _ :: tl =>
      match st with
      | .unlocked =>
        if sync 0 && sync 1 && sync 2 then scanPackets size lead n (.locked 0) pos l
        else
          let (ps, k) := scanPackets size lead n .unlocked (pos + 1) tl
          (ps, pos :: k)
      | .locked missed =>
        if l.length < size then ([], [])
        else if sync 0 then
          let (ps, k) := scanPackets size lead n (.locked 0) (pos + size) (l.drop size)
          (⟨pos, (l.drop lead).take 188⟩ :: ps, k)
        else if missed = 0 then scanPackets size lead n (.locked 1) (pos + size) (l.drop size)
        else scanPackets size lead n .unlocked pos l

/-! ## Sections (R298) -/

/-- The whole sections at the front of a buffer, and what is left of it. -/
def cutSections : Nat → List Byte → List (List Byte) × List Byte
  | 0, l => ([], l)
  | n + 1, l =>
    let len := 3 + (field (l.getD 1 0).toNat 0 4 * 256 + (l.getD 2 0).toNat)
    if l.length < 3 || (l.getD 0 0) = 0xFF || l.length < len then ([], l)
    else
      let (ss, r) := cutSections n (l.drop len)
      (l.take len :: ss, r)

/-- The sections that the packets of one PID carry, with the offset of the packet that completes each. -/
def sectionsOf : List TsPacket → Option (List Byte) → List (Nat × List Byte)
  | [], _ => []
  | p :: ps, cur =>
    let pay := p.payload
    let tag := fun (l : List (List Byte)) => l.map fun b => (p.off, b)
    if p.pusi then
      let ptr := (pay.headD 0).toNat
      let old := match cur with
        | some b => (cutSections 4096 (b ++ (pay.drop 1).take ptr)).1
        | none => []
      let (ss, r) := cutSections 4096 (pay.drop (1 + ptr))
      tag (old ++ ss) ++ sectionsOf ps (some r)
    else match cur with
      | some b =>
        let (ss, r) := cutSections 4096 (b ++ pay)
        tag ss ++ sectionsOf ps (some r)
      | none => sectionsOf ps none

def byteAt (l : List Byte) (i : Nat) : Nat := (l.getD i 0).toNat

/-- The PMT PID of a program in a PAT section. -/
def patPid (sec : List Byte) (program : Nat) : Option Nat :=
  ((List.range ((sec.length - 12) / 4)).find? fun i => byteAt sec (8 + 4 * i) * 256 + byteAt sec (9 + 4 * i) = program).map fun i =>
    field (byteAt sec (10 + 4 * i)) 0 5 * 256 + byteAt sec (11 + 4 * i)

/-- An elementary stream of a PMT: its type, its PID and its descriptors. -/
structure EsEntry where
  typ : Nat
  pid : Nat
  desc : List Byte

def esEntries : Nat → List Byte → List EsEntry
  | 0, _ => []
  | n + 1, l =>
    if l.length < 5 then []
    else
      let k := field (byteAt l 3) 0 4 * 256 + byteAt l 4
      ⟨byteAt l 0, field (byteAt l 1) 0 5 * 256 + byteAt l 2, (l.drop 5).take k⟩ :: esEntries n (l.drop (5 + k))

/-- The bodies of the descriptors of a tag. -/
def descriptors (tag : Nat) : Nat → List Byte → List (List Byte)
  | 0, _ => []
  | n + 1, l =>
    if l.length < 2 then []
    else
      let k := byteAt l 1
      let rest := descriptors tag n (l.drop (2 + k))
      if byteAt l 0 = tag then (l.drop 2).take k :: rest else rest

def EsEntry.has (e : EsEntry) (tag : Nat) : Bool := !(descriptors tag e.desc.length e.desc).isEmpty

/-- The codec of a stream, as es_codec numbers it; none where it is no supported video (R298). -/
def EsEntry.video (e : EsEntry) : Option Nat :=
  match e.typ with
  | 0x02 => some 1
  | 0x1B => some 2
  | 0x24 => some 3
  | 0x33 => some 5
  | 0x06 => if (descriptors 0x05 e.desc.length e.desc).any fun b => b.take 4 = [0x41, 0x56, 0x30, 0x31] then some 4 else none
  | _ => none

/-- Whether a stream is supported audio; 0x6A and 0x7A are the DVB descriptors of AC-3 and enhanced AC-3 (R298). -/
def EsEntry.audio (e : EsEntry) : Bool :=
  decide (e.typ ∈ [0x03, 0x04, 0x0F, 0x11, 0x81, 0x87]) || (e.typ == 0x06 && (e.has 0x6A || e.has 0x7A))

/-! ## Continuity and clock (R299) -/

/-- The packets of one PID whose payload counts: one duplicate with a repeated counter is discarded. Each goes with whether its counter
fails to follow its predecessor's. -/
def follow : Option (Nat × Bool) → List TsPacket → List (TsPacket × Bool)
  | _, [] => []
  | last, p :: ps =>
    if !p.hasPayload then (p, false) :: follow last ps
    else match last with
      | none => (p, false) :: follow (some (p.counter, false)) ps
      | some (k, twice) =>
        if p.counter = k ∧ ¬ twice ∧ ¬ p.marked then follow (some (k, true)) ps
        else (p, !p.marked && p.counter ≠ (k + 1) % 16) :: follow (some (p.counter, false)) ps

/-- The discontinuities that the packets of the PCR PID show: an indicator, a PCR below its predecessor, or one more than 100 ms from the
value that the two before it give at its position. `old` holds these two, the newer first. -/
def clockJumps : List (Nat × Nat) → List TsPacket → List Nat
  | _, [] => []
  | old, p :: ps =>
    match p.pcr with
    | none => (if p.marked then [p.off] else []) ++ clockJumps (if p.marked then [] else old) ps
    | some c =>
      let jump := p.marked || (match old with
        | (o1, c1) :: rest => c < c1 || (match rest with
          | (o0, c0) :: _ =>
            let want := c1 + (c1 - c0) * (p.off - o1) / max 1 (o1 - o0)
            2700000 < c - want || 2700000 < want - c
          | [] => false)
        | [] => false)
      if jump then p.off :: clockJumps [(p.off, c)] ps else clockJumps ((p.off, c) :: old.take 1) ps

/-! ## Access units (R299) -/

/-- The time stamp of a PES header, if it has one, and the bytes after the header. -/
def pesBody (l : List Byte) : Option Nat × List Byte :=
  let pts := if bit (byteAt l 7) 7 && decide (5 ≤ byteAt l 8) then
      some (field (byteAt l 9) 1 3 * 2 ^ 30 + byteAt l 10 * 2 ^ 22 + field (byteAt l 11) 1 7 * 2 ^ 15 + byteAt l 12 * 2 ^ 7 + field (byteAt l 13) 1 7)
    else none
  (pts, l.drop (9 + byteAt l 8))

/-- A PES packet being assembled. -/
structure PesPart where
  off : Nat
  damaged : Bool
  bytes : List Byte

/-- The access unit of a whole PES packet, cut to the length that it states; none where its start code is missing. -/
def PesPart.unit (p : PesPart) : Option MediaUnit :=
  if p.bytes.take 3 = [0x00, 0x00, 0x01] then
    let len := byteAt p.bytes 4 * 256 + byteAt p.bytes 5
    let (pts, body) := pesBody (if len = 0 then p.bytes else p.bytes.take (6 + len))
    some ⟨p.off, pts, p.damaged || decide (p.bytes.length < 6 + len), body⟩
  else none

/-- The access units of a stream's packets: each runs up to the next payload_unit_start_indicator. -/
def unitsOf : Option PesPart → List (TsPacket × Bool) → List MediaUnit
  | cur, [] => (cur.bind PesPart.unit).toList
  | cur, (p, gap) :: ps =>
    if p.pusi then (cur.map fun c => { c with damaged := c.damaged || gap }).bind PesPart.unit |>.toList.append
      (unitsOf (some ⟨p.off, false, p.payload⟩) ps)
    else unitsOf (cur.map fun c => { c with damaged := c.damaged || gap, bytes := c.bytes ++ p.payload }) ps

/-! ## The choice -/

/-- Bytes within which a PAT has to arrive and scrambled video is recognised (R297, R298). -/
def demuxWindow : Nat := 4 * 2 ^ 20

/-- Whether the video PID carries only scrambled packets at the start of the segment (R297). -/
def onlyScrambled (ps : List TsPacket) (pid : Nat) : Bool :=
  let v := ps.filter fun p => p.pid == pid && !p.error && decide (p.off < demuxWindow)
  !v.isEmpty && v.all TsPacket.scrambled

/-- The PIDs of a program from an offset on. -/
structure Pids where
  off : Nat
  codec : Nat
  video : Nat
  audio : List (Nat × Nat)     -- stream type and PID of each track
  teletext : Nat
  subtitles : Nat
  clock : Nat

/-- The PIDs of the program that a PMT section describes; none where it has no supported video (R298). -/
def pmtPids (p : IngestOpenP) (off : Nat) (sec : List Byte) : Option Pids :=
  let info := field (byteAt sec 10) 0 4 * 256 + byteAt sec 11
  let es := esEntries sec.length (((sec.drop 12).take (sec.length - 16)).drop info)
  let with_ := fun (tag : Nat) => ((es.find? fun e => e.typ == 0x06 && e.has tag).map fun e => e.pid).getD 0x1FFF
  (es.find? fun e => e.video.isSome).map fun v =>
    ⟨off, v.video.getD 0, v.pid, ((es.filter EsEntry.audio).map fun e => (e.typ, e.pid)).take p.audioTracks, with_ 0x56, with_ 0x59,
     field (byteAt sec 8) 0 5 * 256 + byteAt sec 9⟩

/-- The PIDs in force at an offset: those of the last table version before it, or the first (R298). -/
def pidsAt (l : List Pids) (off : Nat) : Option Pids :=
  match (l.filter fun e => e.off ≤ off).getLast? with
  | some e => some e
  | none => l.head?

/-- The PIDs of a program as its tables give them, one entry for each version of its PMT; none where no PAT of the first 4 MiB or no PMT
gives them (R298). -/
def tablePids (p : IngestOpenP) (program : Nat) (good : List TsPacket) : Option (List Pids) :=
  let pats := (sectionsOf (good.filter fun q => q.pid == 0) none).filter fun e => byteAt e.2 0 = 0
  let maps := pats.filterMap fun e => (patPid e.2 program).map fun k => (e.1, k)
  match maps with
  | [] => none
  | first :: _ =>
    if demuxWindow ≤ first.1 then none
    else
      let pidAt := fun (off : Nat) => ((maps.filter fun m => m.1 ≤ off).getLast?.map fun m => m.2).getD first.2
      let pmts := (sectionsOf (good.filter fun q => q.pid == pidAt q.off) none).filter fun e =>
        byteAt e.2 0 = 2 && byteAt e.2 3 * 256 + byteAt e.2 4 = program
      match pmts with
      | [] => none
      | m :: ms => (pmtPids p m.1 m.2).map fun k => k :: ms.filterMap fun e => pmtPids p e.1 e.2

/-- The PIDs that pid_mode 1 gives (R291). -/
def givenPids (p : IngestOpenP) : List Pids :=
  let k := fun (i : Nat) => nthD 0x1FFF p.sel i % 8192
  [⟨0, 0, k 0, (([1, 2, 3, 4].map k).filter fun a => a ≠ 0x1FFF).take p.audioTracks |>.map fun a => (0, a), k 5, k 6, k 0⟩]

/-- What a job decodes of its segment, or the status with which it ends at its start (R297, R298, R300). -/
def demux (p : IngestOpenP) (prog : Nat) (src : List Byte) : Except Status Demux :=
  if p.input = 2 then .ok ⟨p.esCodec, [⟨0, none, false, src⟩], [], [], [], [], [], []⟩
  else
    let (size, lead) := if p.input = 1 then (192, 4) else (188, 0)
    let (ps, skipped) := scanPackets size lead (2 * src.length + 2) .unlocked 0 src
    let good := ps.filter fun q => !q.error && !q.scrambled
    match (if p.pidMode then some (givenPids p) else tablePids p (nthD 0 p.sel prog) good) with
    | none => .error .mediaStreamError
    | some pids =>
      let first := pids.head?
      if onlyScrambled ps ((first.map fun k => k.video).getD 0x1FFF) then .error .mediaUnsupported
      else
        let on := fun (sel : Pids → Nat) =>
          follow none (good.filter fun q => q.pid ≠ 0x1FFF && ((pidsAt pids q.off).map sel) == some q.pid)
        let audio := (first.map fun k => k.audio).getD []
        let track := fun (i : Nat) => on fun k => ((k.audio[i]?).map fun a => a.2).getD 0x1FFF
        let video := on fun k => k.video
        let tracks := (List.range audio.length).map track
        let tt := on fun k => k.teletext
        let sub := on fun k => k.subtitles
        let gaps := ((video :: tt :: sub :: tracks).flatten.filter fun e => e.2).map fun e => e.1.off
        .ok ⟨(first.map fun k => k.codec).getD 0, unitsOf none video, (audio.zip tracks).map fun a => (a.1.1, unitsOf none a.2),
          unitsOf none tt, unitsOf none sub, skipped, gaps,
          clockJumps [] (good.filter fun q => ((pidsAt pids q.off).map fun k => k.clock) == some q.pid)⟩

end Sys2Proof.Machine
end

