-- ==== Sys2Proof/Machine/Captions.lean ====
section
/-! DEFINITION. The auxiliary records of an ingest job: sound, log-mel frames and captions (R302, R310). Time stamps and payloads
follow from the access units of the segment and the stream's parameters alone (R296). -/

namespace Sys2Proof.Machine

open Sys2Proof

/-! ## Sound (R302) -/

/-- The rate of the output, in Hz; log-mel is computed from 16 kHz. -/
def audioRate (t : IngestOpenP) : Nat := if t.audioOut = 1 then 48000 else 16000

/-- Output sample `m` of a channel whose samples come at `rate`: the sample itself at the output's own rate, else the 64 taps of its
phase around it, whose coefficients are not published. -/
def resampleAt (out rate m : Nat) (l : List Nat) : Nat :=
  if rate = out then l.getD m 0
  else
    let pos := m * rate / out
    let taps := (List.range 64).map fun i => if pos + i < 31 then 0 else l.getD (pos + i - 31) 0
    Config.mediaValue 22 (m * rate % out :: taps) % 2 ^ 32

/-- A frame of one channel set: the stereo downmix of the channels by the frame's coefficients, then (L + R) / 2. How the coefficients
of more than two channels are rounded is not stated. -/
def monoOf (f : AudioFrame) (samples : List Nat) : Nat :=
  let half := fun (l r : Nat) => f32Mul (f32Add l r) 0x3F000000
  match samples with
  | [a] => a
  | [l, r] => half l r
  | _ => half (Config.mediaValue 21 (f.mixL ++ samples) % 2 ^ 32) (Config.mediaValue 21 (f.mixR ++ samples) % 2 ^ 32)

/-- Input samples of the frames before each frame of a track. -/
def starts : Nat → List AudioFrame → List (Nat × AudioFrame)
  | _, [] => []
  | n, f :: fs => (n, f) :: starts (n + ((f.chans.head?.map List.length).getD 0)) fs

/-- The output samples that fall into a frame which begins at input sample `n`: all channels of each, or one where `one` asks for it. -/
def frameOut (out : Nat) (one : Bool) (track : List AudioFrame) (n : Nat) (f : AudioFrame) : List (List Nat) :=
  let len := (f.chans.head?.map List.length).getD 0
  let first := ceilDiv (n * out) (max 1 f.rate)
  let last := ceilDiv ((n + len) * out) (max 1 f.rate)
  let chan := fun (c : Nat) => track.flatMap fun g => g.chans.getD c []
  (List.range (last - first)).map fun i =>
    let s := (List.range f.chans.length).map fun c => resampleAt out f.rate (first + i) (chan c)
    if one then [monoOf f s] else s

/-- A PCM sample as it is stored: FP32, or 16 bits by an unpublished conversion (R291). -/
def pcmBytes (fp32 : Bool) (w : Nat) : List Byte := if fp32 then leBytes 4 w else leBytes 2 (Config.mediaValue 23 [w] % 2 ^ 16)

/-- The PCM records of a track: one for each decoded frame. -/
def pcmRecords (t : IngestOpenP) (track : Nat) (fs : List AudioFrame) : List (Nat × AuxRec) :=
  (starts 0 fs).map fun e =>
    let out := frameOut (audioRate t) t.mono fs e.1 e.2
    (e.2.off, ⟨0, track, if t.mono then 1 else e.2.chans.length, e.2.pts, out.flatMap fun s => s.flatMap (pcmBytes t.pcmFp32)⟩)

/-- A band of a log-mel frame: the energy of its triangular filter over the power spectrum of the windowed samples, whose rounding is not
published, then ln(max(band, 2^-24)). -/
def melBand (t : IngestOpenP) (window : List Nat) (band : Nat) : Nat :=
  f32Log (f32Max (Config.mediaValue 24 ([512 * 2 ^ t.stftFft, t.mels, band] ++ window) % 2 ^ 32) 0x33800000)

/-- The log-mel records of a track: one for each decoded frame, with the frames of `stft_win` samples that begin in it. -/
def melRecords (t : IngestOpenP) (track : Nat) (fs : List AudioFrame) : List (Nat × AuxRec) :=
  let each := (starts 0 fs).map fun e => (e.2, (frameOut 16000 true fs e.1 e.2).map fun s => s.headD 0)
  let all := each.flatMap fun e => e.2
  (each.foldl (fun (a : Nat × List (Nat × AuxRec)) e =>
    let last := a.1 + e.2.length
    let begins := (List.range all.length).filter fun i => i % t.stftHop = 0 && decide (a.1 ≤ i) && decide (i < last) && decide (i + t.stftWin ≤ all.length)
    let frames := begins.map fun i => (List.range t.mels).flatMap fun b => leBytes 4 (melBand t ((all.drop i).take t.stftWin) b)
    (last, a.2 ++ [(e.1.off, ⟨1, track, frames.length, e.1.pts, frames.flatten⟩)])) (0, [])).2

/-- The sound records of a segment (R302). -/
def soundRecords (t : IngestOpenP) (d : Demux) : List (Nat × AuxRec) :=
  d.audio.zipIdx.flatMap fun e =>
    let fs := Config.decodeAudio e.1.1 e.1.2
    if t.audioOut = 2 then melRecords t e.2 fs else pcmRecords t e.2 fs

/-! ## Captions (R302) -/

/-- Bytes of a NAL unit without its emulation prevention bytes. -/
def unescape : Nat → List Byte → List Byte
  | _, [] => []
  | z, b :: l => if 2 ≤ z ∧ b = 0x03 then unescape 0 l else b :: unescape (if b = 0 then z + 1 else 0) l

/-- The triplets of a cc_data structure: cc_type and its two bytes, where cc_valid is set (ATSC A/53). -/
def ccTriplets (l : List Byte) : List (Nat × List Byte) :=
  let n := field (byteAt l 0) 0 5
  if bit (byteAt l 0) 6 then
    (List.range n).filterMap fun i =>
      let h := byteAt l (2 + 3 * i)
      if bit h 2 && decide (4 + 3 * i < l.length) then some (field h 0 2, [l.getD (3 + 3 * i) 0, l.getD (4 + 3 * i) 0]) else none
  else []

/-- The cc_data behind each "GA94" marker of an access unit: in MPEG-2 user data, and in SEI registered under ITU-T T.35. -/
def ccData (user sei : Bool) : List Byte → List (Nat × List Byte)
  | [] => []
  | b :: l =>
    let mpeg := user && (b :: l).take 9 == ([0x00, 0x00, 0x01, 0xB2, 0x47, 0x41, 0x39, 0x34, 0x03] : List Byte)
    let t35 := sei && (b :: l).take 8 == ([0xB5, 0x00, 0x31, 0x47, 0x41, 0x39, 0x34, 0x03] : List Byte)
    (if mpeg then ccTriplets (l.drop 8) else if t35 then ccTriplets (l.drop 7) else []) ++ ccData user sei l

/-- The CEA-608 and CEA-708 records of a video access unit: one for each 608 field and one for 708, where it carries any. -/
def ccRecords (t : IngestOpenP) (codec : Nat) (pts : Nat) (u : MediaUnit) : List (Nat × AuxRec) :=
  let user := decide (codec ≤ 1)
  let sei := decide (codec = 0 ∨ codec = 2 ∨ codec = 3)
  let ts := ccData user sei (if codec = 1 then u.bytes else unescape 0 u.bytes)
  let of_ := fun (p : Nat → Bool) => ((ts.filter fun e => p e.1).map fun e => e.2).flatten
  let rec_ := fun (kind info : Nat) (bs : List Byte) => if bs.isEmpty then [] else [(u.off, (⟨kind, 0, info, pts, bs⟩ : AuxRec))]
  (if bit t.captions 0 then rec_ 2 1 (of_ fun k => k == 0) ++ rec_ 2 2 (of_ fun k => k == 1) else []) ++
  (if bit t.captions 1 then rec_ 3 0 (of_ fun k => decide (2 ≤ k)) else [])

/-- Time stamps of access units: their own, or that of the unit before. -/
def stamped : Nat → List MediaUnit → List (Nat × MediaUnit)
  | _, [] => []
  | last, u :: us => let p := u.pts.getD last; (p % 2 ^ 33, u) :: stamped p us

/-- The four data bits of a Hamming 8/4 byte, whose bits come first to last from its low end (EN 300 706). -/
def hamming (b : Nat) : Nat := bitOf (bit b 1) + 2 * bitOf (bit b 3) + 4 * bitOf (bit b 5) + 8 * bitOf (bit b 7)
def reversed (b : Byte) : Nat := ((List.range 8).map fun i => 2 ^ (7 - i) * bitOf (bit b.toNat i)).sum

/-- The teletext data units of a PES packet, 44 bytes each (EN 300 472). -/
def ttUnits : Nat → List Byte → List (List Byte)
  | 0, _ => []
  | n + 1, l =>
    if l.length < 2 then []
    else
      let k := byteAt l 1
      let rest := ttUnits n (l.drop (2 + k))
      if (byteAt l 0 = 2 ∨ byteAt l 0 = 3) ∧ k = 44 then (l.drop 2).take 44 :: rest else rest

/-- The magazine (8 for 0) and the row of a data unit, and the page number of a header row. -/
def ttAddress (u : List Byte) : Nat × Nat × Nat :=
  let h := fun (i : Nat) => hamming (reversed (u.getD i 0))
  let m := field (h 2) 0 3
  (if m = 0 then 8 else m, 2 * h 3 + field (h 2) 3 1, h 4 + 16 * h 5)

/-- The data units of one page: from its header up to the next header of its magazine. `inside` says that one has begun. -/
def ttPageUnits (page : Nat) : Bool → List (List Byte) → List (List Byte) × Bool
  | inside, [] => ([], inside)
  | inside, u :: us =>
    let (m, row, p) := ttAddress u
    let now := if m = page / 256 ∧ row = 0 then decide (p = page % 256) else inside
    let (rest, last) := ttPageUnits page now us
    (if now && m = page / 256 then u :: rest else rest, last)

/-- The teletext records: one for each PES packet that carries data units of the page. -/
def ttRecords (page : Nat) : Bool → List (Nat × MediaUnit) → List (Nat × AuxRec)
  | _, [] => []
  | inside, (pts, u) :: us =>
    let (ls, now) := ttPageUnits page inside (ttUnits u.bytes.length (u.bytes.drop 1))
    (if ls.isEmpty then [] else [(u.off, ⟨4, 0, page, pts, ls.flatten⟩)]) ++ ttRecords page now us

/-- The caption records of a segment (R302). -/
def captionRecords (t : IngestOpenP) (d : Demux) : List (Nat × AuxRec) :=
  ((stamped 0 d.video).flatMap fun e => ccRecords t d.codec e.1 e.2) ++
  (if bit t.captions 2 then ttRecords t.ttPage false (stamped 0 d.teletext) else []) ++
  (if bit t.captions 3 then (Config.renderSubtitles d.subtitles).map fun s => (s.off, ⟨5, 0, s.page, s.pts, s.indices ++ s.palette⟩) else [])

/-- Every auxiliary record of a segment with the offset of its source. -/
def auxRecords (t : IngestOpenP) (d : Demux) : List (Nat × AuxRec) := soundRecords t d ++ captionRecords t d

end Sys2Proof.Machine
end

