-- ==== Sys2Proof/Machine/Pictures.lean ====
section
/-! DEFINITION. From decoded pictures to output pictures: concealment, deinterlacing, field order and pulldown removal (R305 to
R309). -/

namespace Sys2Proof.Machine

open Sys2Proof

/-! ## Concealment (R305) -/

/-- The reference nearest in output order to the picture at place `i`, the earlier one on a tie (R305). -/
def nearestRef (i : Nat) (rs : List RefPicture) : Option RefPicture :=
  let dist := fun (r : RefPicture) => if r.order ≤ i then i - r.order else r.order - i
  rs.foldl (fun a r => match a with
    | none => some r
    | some b => if dist r < dist b || (dist r == dist b && r.order < b.order) then some r else some b) none

/-- Whether a rectangle holds a sample. -/
def Rect.holds (r : Rect) (x y : Nat) : Bool := r.x ≤ x && x < r.x + r.w && r.y ≤ y && y < r.y + r.h

/-- A plane of `w` samples per row, with the samples that `lost` names taken from `src`, or set to `grey`. -/
def patch (w grey : Nat) (lost : Nat → Nat → Bool) (src : Option (List Nat)) (plane : List Nat) : List Nat :=
  plane.zipIdx.map fun e => if lost (e.2 % w) (e.2 / w) then (src.map fun l => l.getD e.2 0).getD grey else e.1

/-- Samples of a chroma row, and luma rows and columns to one of chroma. -/
def CodedPicture.chromaWidth (p : CodedPicture) : Nat := if p.chroma = 2 then 1 else (p.width + 1) / 2
def CodedPicture.chromaRows (p : CodedPicture) : Nat := if p.chroma = 0 then 2 else 1

/-- Whether a luma sample, and a chroma sample, is in a lost block. -/
def CodedPicture.lostAt (p : CodedPicture) (x y : Nat) : Bool := p.lost.any fun r => Rect.holds r x y
def CodedPicture.lostChroma (p : CodedPicture) (x y : Nat) : Bool := CodedPicture.lostAt p (2 * x) (CodedPicture.chromaRows p * y)

/-- A decoded picture, the `i`-th in output order, with its lost blocks concealed (R305). -/
def CodedPicture.concealed (p : CodedPicture) (i : Nat) : CodedPicture :=
  if p.lost.isEmpty then p
  else
    let r := nearestRef i p.refs
    let grey := 2 ^ (p.depth - 1)
    { p with luma := patch p.width grey (CodedPicture.lostAt p) (r.map fun r => r.luma) p.luma,
             cb := patch (CodedPicture.chromaWidth p) grey (CodedPicture.lostChroma p) (r.map fun r => r.cb) p.cb,
             cr := patch (CodedPicture.chromaWidth p) grey (CodedPicture.lostChroma p) (r.map fun r => r.cr) p.cr }

/-- Concealed luma samples of a decoded picture (R306). -/
def CodedPicture.concealedLuma (p : CodedPicture) : Nat :=
  if p.lost.isEmpty then 0 else ((List.range (p.width * p.height)).filter fun i => CodedPicture.lostAt p (i % p.width) (i / p.width)).length

/-- The output picture that a decoded picture gives unchanged (R306, R307). -/
def CodedPicture.plain (p : CodedPicture) : Picture where
  width := p.width
  height := p.height
  depth := p.depth
  chroma := p.chroma
  luma := p.luma
  cb := p.cb
  cr := p.cr
  pts := p.pts
  frameDur := p.frameDur
  concealedLuma := CodedPicture.concealedLuma p
  codedLuma := p.width * p.height
  refConcealed := p.refs.any fun r => r.concealed
  structure_ := 0
  deint := 0
  telecine := false
  coding := p.coding
  orderOverride := false
  matrixCoeff := p.matrixCoeff
  fullRange := p.fullRange
  chromaLoc := p.chromaLoc
  off := p.off

/-! ## Fields -/

/-- The rows of a plane, and those of one parity: 0 the top field, 1 the bottom field. -/
def rowsOf (w : Nat) (l : List Nat) : List (List Nat) := chunksOf w (l.length + 1) l
def fieldRows (parity : Nat) (rows : List (List Nat)) : List (List Nat) := (rows.zipIdx.filter fun r => r.2 % 2 = parity).map fun r => r.1
def fieldLuma (p : CodedPicture) (parity : Nat) : List Nat := (fieldRows parity (rowsOf p.width p.luma)).flatten

/-- Sum of absolute differences of two fields. -/
def absDiff (a b : Nat) : Nat := (a - b) + (b - a)
def sad (a b : List Nat) : Nat := ((a.zip b).map fun e => absDiff e.1 e.2).sum

/-- A map over the three planes of a picture, with the width of each. -/
def CodedPicture.planes (p : CodedPicture) (f : Nat → List Nat → List Nat) : List Nat × List Nat × List Nat :=
  (f p.width p.luma, f (CodedPicture.chromaWidth p) p.cb, f (CodedPicture.chromaWidth p) p.cr)

/-! ## Deinterlacing (R307) -/

/-- A sample between two rows of one field, along the best of 5 edge directions; the measure and the rounding are not published. -/
def edgeSample (depth : Nat) (above below : List Nat) (x : Nat) : Nat :=
  let at_ := fun (l : List Nat) (i : Nat) => l.getD (min (i - 2) (l.length - 1)) 0
  let window := fun (l : List Nat) => (List.range 5).map fun d => at_ l (x + d)
  Config.mediaValue 10 (window above ++ window below) % 2 ^ depth

/-- The motion measure of a missing sample: the larger of the differences between the fields of its parity before and after, at it and
at its neighbours. Where one of these fields is not there the measure is not stated. -/
def motion (before after : Option (List Nat)) (x : Nat) : Nat :=
  match before, after with
  | some b, some a =>
    let at_ := fun (l : List Nat) (i : Nat) => l.getD (min (i - 1) (l.length - 1)) 0
    ([0, 1, 2].map fun d => absDiff (at_ b (x + d)) (at_ a (x + d))).foldl max 0
  | b, a => Config.mediaValue 9 ([x, bitOf b.isSome, bitOf a.isSome] ++ (b.getD []) ++ a.getD [])

/-- A missing sample: woven up to a motion of 8, interpolated above 32, blended between, on an 8-bit scale. How the blend is rounded is
not stated. -/
def missing (depth m woven edge : Nat) : Nat :=
  let k := if depth = 10 then 4 else 1
  if m ≤ 8 * k then woven
  else if 32 * k < m then edge
  else
    let n := woven * (32 * k - m) + edge * (m - 8 * k)
    n / (24 * k) + (if n % (24 * k) = 0 then 0 else Config.mediaValue 11 [n, k] % 2)

/-- A full-height plane from the field of parity `kept`: its rows as they are, the others by MOTION_ADAPTIVE from the field of the same
picture and from those of the other parity before and after. -/
def adaptPlane (depth kept : Nat) (before after : Option (List (List Nat))) (rows : List (List Nat)) : List Nat :=
  (rows.zipIdx.map fun r =>
    if r.2 % 2 = kept then r.1
    else
      let row := fun (i : Nat) => rows[i]?
      let above := if r.2 = 0 then (row 1).getD [] else (row (r.2 - 1)).getD []
      let below := (row (r.2 + 1)).getD above
      let line := fun (f : Option (List (List Nat))) => f.bind fun rs => rs[r.2 / 2]?
      r.1.zipIdx.map fun e => missing depth (motion (line before) (line after) e.2) e.1 (edgeSample depth above below e.2)).flatten

/-- The picture that one field of a picture gives under MOTION_ADAPTIVE. `first` says that it is the first field in order. -/
def adaptPicture (p : CodedPicture) (prev next : Option CodedPicture) (parity : Nat) (first : Bool) : Picture :=
  let other := 1 - parity
  let side := fun (pick : CodedPicture → List Nat) (w : Nat) (q : Option CodedPicture) => q.map fun c => fieldRows other (rowsOf w (pick c))
  let plane := fun (pick : CodedPicture → List Nat) (w : Nat) =>
    let own := some (fieldRows other (rowsOf w (pick p)))
    let before := if first then side pick w prev else own
    let after := if first then own else side pick w next
    adaptPlane p.depth parity before after (rowsOf w (pick p))
  let c := CodedPicture.chromaWidth p
  { CodedPicture.plain p with luma := plane (fun q => q.luma) p.width, cb := plane (fun q => q.cb) c, cr := plane (fun q => q.cr) c,
                              structure_ := 2 + parity, deint := 3 }

/-- The half-height picture of one field. -/
def fieldPicture (p : CodedPicture) (parity : Nat) : Picture :=
  let (y, cb, cr) := CodedPicture.planes p fun w l => (fieldRows parity (rowsOf w l)).flatten
  { CodedPicture.plain p with height := (p.height + 1 - parity) / 2, luma := y, cb := cb, cr := cr, structure_ := 2 + parity, deint := 1 }

/-- A picture one field later. -/
def Picture.later (q : Picture) (frameDur : Nat) : Picture := { q with pts := q.pts.map fun t => (t + frameDur / 2) % 2 ^ 33 }

/-- The output pictures of an interlaced picture by the stream's mode (R307). -/
def deinterlace (t : IngestOpenP) (p : CodedPicture) (prev next : Option CodedPicture) (top : Bool) : List Picture :=
  let a := if top then 0 else 1
  let half := fun (q : Picture) => { q with frameDur := p.frameDur / 2 }
  match t.deint with
  | 0 => [half (fieldPicture p a), half (Picture.later (fieldPicture p (1 - a)) p.frameDur)]
  | 1 => [{ CodedPicture.plain p with structure_ := 1, deint := 2 }]
  | _ =>
    let x := adaptPicture p prev next a true
    if t.fieldRate then [half x, half (Picture.later (adaptPicture p prev next (1 - a) false) p.frameDur)] else [x]

/-! ## Field order (R308) -/

/-- Which order of a picture's fields the content supports, against the fields of the picture before it: 1 the signalled one, 2 the
reverse, 0 neither. Under an order, the field that ends one picture and the field that begins the next are neighbours in time. -/
def orderOf (prev p : CodedPicture) : Nat :=
  let a := if p.topFirst then 0 else 1
  let signalled := sad (fieldLuma prev (1 - a)) (fieldLuma p a)
  let reverse := sad (fieldLuma prev a) (fieldLuma p (1 - a))
  if signalled < reverse then 1 else if reverse < signalled then 2 else 0

/-- The history after a field pair, and whether the reverse order is used from the next picture on. -/
def Weave.judge (w : Weave) (p : CodedPicture) : Weave :=
  match w.prev with
  | none => w
  | some q =>
    let hist := ((w.hist ++ [orderOf q p]).drop (w.hist.length + 1 - 32))
    let count := fun (k : Nat) => (hist.filter fun e => e = k).length
    { w with hist := hist, override := if 24 ≤ count 2 then true else if 24 ≤ count 1 then false else w.override }

/-! ## Pulldown (R309) -/

/-- Whether a field repeats another, and whether two fields of different parity show one instant: the measures are not published; equal
fields repeat each other. -/
def repeats (a b : List Nat) : Bool := a == b || Config.mediaValue 12 (a ++ b) % 2 == 1
def sameInstant (a b : List Nat) : Bool := Config.mediaValue 13 (a ++ b) % 2 == 1

/-- Whether field `n` fits a lock: 3:2 repeats a field every fifth, 2:2 pairs every second field with the one before it. -/
def fits32 (phase n : Nat) (rep : Bool) : Bool := rep == decide (n % 5 = phase)
def fits22 (phase n : Nat) (twin : Bool) : Bool := twin == decide (n % 2 = phase)

/-- The cadence that two complete cycles of ten fields, up to field `n`, show (R309). -/
def lockOf (reps twins : List Bool) (n : Nat) : Option (Nat × Nat) :=
  let first := n + 1 - 20
  let whole := fun (l : List Bool) (fit : Nat → Bool → Bool) => l.length == 20 && l.zipIdx.all fun e => fit (first + e.2) e.1
  match (List.range 5).find? fun k => whole reps (fits32 k) with
  | some k => some (1, k)
  | none => ((List.range 2).find? fun k => whole twins (fits22 k)).map fun k => (2, k)

/-- A film frame woven from two fields (R306, R309). -/
def weaveFields (a b : HalfPicture) : Picture :=
  let rowOf := fun (h : HalfPicture) (pick : CodedPicture → List Nat) (w : Nat) => rowsOf w (pick h.pic)
  let top := if a.parity = 0 then a else b
  let bottom := if a.parity = 0 then b else a
  let plane := fun (pick : CodedPicture → List Nat) (w : Nat) =>
    ((rowOf top pick w).zipIdx.map fun r => if r.2 % 2 = 0 then r.1 else (rowOf bottom pick w).getD r.2 []).flatten
  let c := CodedPicture.chromaWidth a.pic
  let two := a.pic ≠ b.pic
  let q := if a.late then Picture.later (CodedPicture.plain a.pic) a.pic.frameDur else CodedPicture.plain a.pic
  { q with luma := plane (fun p => p.luma) a.pic.width, cb := plane (fun p => p.cb) c, cr := plane (fun p => p.cr) c, structure_ := 1,
           telecine := true, concealedLuma := q.concealedLuma + (if two then CodedPicture.concealedLuma b.pic else 0),
           codedLuma := q.codedLuma + (if two then b.pic.width * b.pic.height else 0),
           refConcealed := q.refConcealed || b.pic.refs.any fun r => r.concealed }

/-- One field more: it continues the lock, or breaks it, or may complete one. The film frame that it completes, and whether the lock
has held for it. -/
def Weave.field (w : Weave) (h : HalfPicture) (rep twin : Bool) : Weave × Option Picture × Bool :=
  let n := w.fields
  let keep := fun (l : List Bool) (b : Bool) => (l ++ [b]).drop (l.length + 1 - 20)
  let w' := { w with fields := n + 1, reps := keep w.reps rep, twins := keep w.twins twin }
  let take := fun (second dropped : Bool) =>
    if dropped then (({ w' with half := none } : Weave), (none : Option Picture), true)
    else if second then
      ({ w' with half := none }, (w.half.bind fun a => if a.parity ≠ h.parity then some (weaveFields a h) else none), true)
    else ({ w' with half := some h }, none, true)
  match w.lock with
  | some (1, k) =>
    if fits32 k n rep then
      let place := (n + 5 - k) % 5
      take (place == 2 || place == 4) (place == 0)
    else ({ w' with lock := none, half := none, reps := [], twins := [] }, none, false)
  | some (_, k) =>
    if fits22 k n twin then take (n % 2 == k) false
    else ({ w' with lock := none, half := none, reps := [], twins := [] }, none, false)
  | none => ({ w' with lock := lockOf w'.reps w'.twins n }, none, false)

/-- The two fields of an interlaced picture go through pulldown removal: its film frames, and whether the lock has held for both. -/
def Weave.pulldown (w : Weave) (p : CodedPicture) (top : Bool) : Weave × List Picture × Bool :=
  let a := if top then 0 else 1
  let old := fun (parity : Nat) => w.prev.map fun q => fieldLuma q parity
  let last := w.prev.map fun q => fieldLuma q (if w.prevTop then 1 else 0)
  let test := fun (f : List Nat → List Nat → Bool) (o : Option (List Nat)) (l : List Nat) => (o.map fun b => f b l).getD false
  let first := fieldLuma p a
  let second := fieldLuma p (1 - a)
  let (w, x, held1) := w.field ⟨a, false, p⟩ (test repeats (old a) first) (test sameInstant last first)
  let (w, y, held2) := w.field ⟨1 - a, true, p⟩ (test repeats (old (1 - a)) second) (sameInstant first second)
  (w, x.toList ++ y.toList, held1 && held2)

/-! ## One decoded picture -/

/-- The output pictures of a decoded picture, each with its cadence: 0 none, 1 3:2, 2 2:2, 3 soft. `next` is the picture that follows it,
where the job decodes one (R307 to R309). -/
def Weave.step (w : Weave) (t : IngestOpenP) (p : CodedPicture) (next : Option CodedPicture) : Weave × List (Picture × Nat) :=
  if !p.interlaced then
    ({ w with prev := none, lock := none, half := none, reps := [], twins := [] },
     [(CodedPicture.plain p, if t.ivtc && p.repeated then 3 else 0)])
  else
    let top := p.topFirst != w.override
    let mark := fun (q : Picture) => { q with orderOverride := w.override }
    let (w1, film, held) := if t.ivtc then w.pulldown p top else (w, [], false)
    let cadence := (w.lock.map fun l => l.1).getD 0
    let own := if held then [] else deinterlace t p w.prev (next.filter fun q => q.interlaced) top
    let soft := if t.ivtc && p.repeated then 3 else 0
    let w2 := { w1.judge p with prev := some p, prevTop := top, bottomFirst := !top }
    (w2, (film.map fun q => (mark q, cadence)) ++ own.map fun q => (mark q, soft))

end Sys2Proof.Machine
end

