-- ==== Sys2Proof/Machine/UnitOps.lean ====
section
/-! DEFINITION. Meanings: the row unit and the vector unit: ROW, VEC and GRAD_GATHER (R125 to R135, R150). -/

namespace Sys2Proof.Machine

open Sys2Proof

/-! ## Nests of the vector unit -/

end Sys2Proof.Machine

namespace Sys2Proof

open Machine

/-- Elements of a VEC, their loop indices, and the units at whose boundaries it stops (R131). -/
def VecP.elems (p : VecP) : Nat := ((p.ins.head?).map fun r => r.size 0).getD 0
def VecP.index (p : VecP) (n : Nat) : List Nat := ((p.ins.head?).map fun r => r.indexFrom 0 n).getD []
def VecP.unitSize (p : VecP) : Nat := if p.func = .scaleCommit then 1 else 256
def VecP.units (p : VecP) : Nat := ceilDiv p.elems p.unitSize

end Sys2Proof

namespace Sys2Proof.Machine

open Sys2Proof

/-- The element numbers of unit `g` of `e` elements in units of `k`. -/
def unitElems (e k g : Nat) : List Nat := (List.range (min k (e - k * g))).map fun i => k * g + i

end Sys2Proof.Machine

namespace Sys2Proof

open Machine

/-- C-cycles of a unit of a VEC. -/
def VecP.unitCycles (p : VecP) (g : Nat) : Nat :=
  if p.func = .scaleCommit then 64 else ceilDiv (min 256 (p.elems - 256 * g)) (VecFunc.rate p.func)

/-- The byte at which the element of a loop index begins. -/
def OperandRec.byteAt (r : OperandRec) (idx : List Nat) : Nat := r.bitAt idx / 8

/-- The 32 loop indices of the MX block that holds an index (R39, R122). -/
def OperandRec.blockIx (r : OperandRec) (idx : List Nat) : List (List Nat) :=
  (List.range 32).map fun i => idx.set r.blockLevel (idx.getD r.blockLevel 0 / 32 * 32 + i)

/-- The bytes that writing the element of an index touches: its whole block in an MX format. -/
def OperandRec.destBytes (r : OperandRec) (idx : List Nat) : List Nat :=
  if r.fmt.isMx then (r.blockIx idx).flatMap fun i => r.touch i else r.touch idx

/-- Output record `i`, and input record `i`. -/
def VecP.out (p : VecP) (i : Nat) : OperandRec := p.outs.getD i default
def VecP.inp (p : VecP) (i : Nat) : OperandRec := p.ins.getD i default

end Sys2Proof

namespace Sys2Proof.Machine

open Sys2Proof

/-- Consecutive bytes. -/
def byteRun (a n : Nat) : List Nat := (List.range n).map fun i => a + i

end Sys2Proof.Machine

namespace Sys2Proof

open Machine

/-- The bytes that element `n` of a VEC writes (R79, R131 to R134). -/
def VecP.writes (p : VecP) (n : Nat) : List Nat :=
  let ix := p.index n
  match p.func with
  | .scaleCommit => byteRun ((p.out 0).byteAt ix) 128
  | .clip => if n + 1 = p.elems then (p.out 0).touch (List.replicate 6 0) else []
  | .split3 =>
    if p.outs.length ≤ 1 then byteRun ((p.out 0).byteAt ix) 6
    else byteRun ((p.out 0).byteAt ix) 2 ++ byteRun ((p.out 1).byteAt ix) 4
  | .adamW | .lion | .sgd | .nesterov =>
    (p.outs.flatMap fun r => r.destBytes ix) ++ ((p.ins.drop 1).flatMap fun r => r.destBytes ix) ++
      (if n + 1 = p.elems then byteRun p.stepCtr 4 else [])
  | _ => p.outs.flatMap fun r => r.destBytes ix

/-- The bytes that element `n` of a VEC reads. -/
def VecP.reads (p : VecP) (n : Nat) : List Nat :=
  let ix := p.index n
  match p.func with
  | .scaleCommit => byteRun ((p.inp 0).byteAt ix) 128
  | .accAdd => (p.ins.flatMap fun r => r.touch ix) ++ (p.out 0).touch ix
  | .adamW | .lion | .sgd | .nesterov => (p.ins.flatMap fun r => r.touch ix) ++ (p.out 0).touch ix
  | _ => p.ins.flatMap fun r => r.touch ix

/-- What an operation reads from its param block, flag word and step counter when it issues (R132, R134, R169). -/
def VecP.sideBytes (p : VecP) : List Nat :=
  match p.func with
  | .adamW | .lion | .sgd | .nesterov =>
    byteRun p.paramBlk 32 ++ byteRun p.stepCtr 4 ++ byteRun p.flagWord 4 ++ byteRun (Config.clipAddr p.paramBlk) 4
  | .clip => byteRun p.paramBlk 32
  | _ => []

end Sys2Proof

namespace Sys2Proof.Machine

open Sys2Proof

/-! ## Operations whose duration is fixed at their issue -/

/-- Whether the destinations of this issue are marked. -/
def State.marked (s : State) (c : CoreId) (u : Cur) : Bool :=
  (s.slice c.die).wet.any fun m => m.own c u.q u.run.op && m.setAt == u.run.issued

/-- The lines of the units still to run, each with the cycle at which what a unit writes into it has landed, `t` being the end of
the first of them: the units with their bytes and their C-cycles in order. A line that a later unit writes too has an entry for each. -/
def landings (tail : Nat) : Nat → List (List Nat × Nat) → List (Nat × Nat)
  | _, [] => []
  | t, (bytes, cyc) :: us => ((linesOf bytes).map fun l => (l, t + cyc + tail)) ++ landings tail (t + cyc) us

/-- At an issue the destination lines of the units to come are checked and marked, each until its last byte has landed (R175, R176).
The first unit begins at cycle `t`. -/
def State.openWriter (s : State) (c : CoreId) (u : Cur) (units : List (List Nat × Nat)) (t : Nat) : Except WetMark State :=
  if s.marked c u then .ok s
  else
    let s := s.clearMarks c u.q u.run.op
    let lines := landings (AkiOp.tail u.desc.op) t units
    match s.wetHit c u.q u.run.op (u.run.leaveAt.getD u.run.issued) (lines.map fun l => l.1) with
    | some m => .error m
    | none => .ok (s.markWet c.die c u.q u.run.op u.desc.opTag u.run.issued (lines.map fun l => (l.1, some l.2)))

/-- The cycle at which the next unit begins, after a first latency of `lat`, and by how much a hold has put it off. -/
def Run.unitStart (r : Run) (lat : Nat) : Nat × Nat :=
  let planned := if r.first then r.issued + lat else r.lastEnd
  match r.leaveAt with
  | some l => (max planned (l + lat), l + lat - planned)
  | none => (planned, 0)

/-- A unit has run from `t` to `last`. -/
def State.unitDone (s : State) (c : CoreId) (u : Cur) (late last : Nat) (r : Run) : State :=
  ((s.delayMarks c u.q u.run.op (u.run.lastEnd + AkiOp.tail u.desc.op) late).busyTo c last).setRun c u.q
    { r with unit := r.unit + 1, first := false, lastEnd := last, leaveAt := none }

/-- Puts written into the slice of a core. -/
def State.putAll (s : State) (c : CoreId) (ps : List Put) : State :=
  s.modSlice c.die fun k => { k with mem := applyPuts k.mem ps }

def wordAt (m : Sparse Byte) (a : Nat) : Nat := leNat (readBytes m a 4)

/-! ## VEC -/

end Sys2Proof.Machine

namespace Sys2Proof

open Machine

/-- The words of the param block and what else an optimizer reads at its issue (R132, R133, R169). -/
def VecP.params (p : VecP) (m : Sparse Byte) (t : Nat) : VecParams :=
  let w := fun i => wordAt m (p.paramBlk + 4 * i)
  ⟨w 0, w 1, w 2, w 3, w 4, w 5, w 6, wordAt m (Config.clipAddr p.paramBlk), t⟩

end Sys2Proof

namespace Sys2Proof.Machine

open Sys2Proof

/-- The rounding of element `n` (R42, R48). -/
def vecRnd (sr : Bool) (key stream epoch n : Nat) : Rnd := if sr then .sr (srValue key stream epoch n) else .rne

/-- One element converted and written, or the whole MX block that it begins (R45, R131). -/
def vecPut (r : OperandRec) (rnd : Nat → Rnd) (sr ieee : Bool) (pos : List Nat → Nat) (val : List Nat → Nat) (ix : List Nat) : List Put :=
  if r.fmt.isMx then
    if ix.getD r.blockLevel 0 % 32 ≠ 0 then []
    else
      let cells := r.blockIx ix
      let inside := fun (i : List Nat) => decide (i.getD r.blockLevel 0 < r.count r.blockLevel)
      let blk := mxBlock r.fmt sr (cells.map fun i => match rnd (pos i) with
        | .sr k => k
        | .rne => 0) (cells.map fun i => if inside i then f32 (val i) else .zero false)
      r.putScale ix blk.1 0 :: (cells.zip blk.2).map fun e => r.put e.1 e.2 0
  else [r.put ix (encodeTo r.fmt (rnd (pos ix)) ieee (f32 (val ix))) 0]

end Sys2Proof.Machine

namespace Sys2Proof

open Machine

/-- The position of an index in the nest: level 0 innermost (R48). -/
def OperandRec.position (r : OperandRec) (ix : List Nat) : Nat :=
  ((ix.zip (List.range 6)).foldl (fun (a : Nat × Nat) e => (a.1 + e.1 * a.2, a.2 * r.count e.2)) (0, 1)).1

/-- What element `n` of a VEC writes, from the memory before its group; `acc` is the sum that CLIP has so far. -/
def VecP.puts (p : VecP) (m : Sparse Byte) (key epoch t acc n : Nat) : List Put :=
  let ix := p.index n
  let src := p.inp 0
  let rnd := vecRnd p.sr key p.srStream.toNat epoch
  match p.func with
  | .scaleCommit =>
    let a := (p.out 0).byteAt ix
    ((scaleCommit (readBytes m (src.byteAt ix) 128)).zip (List.range 128)).map fun e => ⟨8 * (a + e.2), 8, e.1.toNat, 0⟩
  | .clip =>
    if n + 1 = p.elems then [(p.out 0).put (List.replicate 6 0) (encodeTo (p.out 0).fmt .rne true (f32 (clipFactor (p.params m t).maxNorm [acc]))) 0] else []
  | .split3 =>
    let parts := split3 p.ieee (src.word m ix)
    let enc := fun i => encodeTo .bf16 .rne true (f32 (nthD 0 parts i))
    let a := (p.out 0).bitAt ix
    let b := if p.outs.length ≤ 1 then a + 16 else (p.out 1).bitAt ix
    [⟨a, 16, enc 0, 0⟩, ⟨b, 16, enc 1, 0⟩, ⟨b + 16, 16, enc 2, 0⟩]
  | .adamW | .lion | .sgd | .nesterov =>
    let step := fun (i : List Nat) =>
      optStep p.func (p.params m t) (src.word m i) ((p.ins.drop 1).map fun r => r.word m i) ((p.out 0).word m i)
    let keep := fun (r : OperandRec) (val : List Nat → Nat) => vecPut r (fun _ => .rne) false p.ieee src.position val ix
    keep (p.out 0) (fun i => (step i).1) ++
      (((p.ins.drop 1).zip (List.range (p.ins.drop 1).length)).flatMap fun e => keep e.1 fun i => nthD 0 (step i).2 e.2) ++
      (if 1 < p.outs.length then vecPut (p.out 1) rnd p.sr p.ieee src.position (fun i => (step i).1) ix else []) ++
      (if n + 1 = p.elems then [⟨8 * p.stepCtr, 32, t + 1, 0⟩] else [])
  | f =>
    let val := fun (i : List Nat) => VecFunc.value f (p.ins.map fun r => r.word m i) ((p.out 0).word m i)
    p.outs.flatMap fun r => vecPut r rnd p.sr p.ieee src.position val ix

/-- C-cycles of the units of a VEC from `g` on. -/
def VecP.restCycles (p : VecP) (g : Nat) : Nat := (((List.range p.units).drop g).map fun i => p.unitCycles i).sum

end Sys2Proof

namespace Sys2Proof.Machine

open Sys2Proof

/-- One unit of a VEC; `true` where a further one may follow. -/
def State.vecUnit (s : State) (c : CoreId) (u : Cur) (p : VecP) : State × Bool :=
  let r := u.run
  let dest := ((List.range p.units).drop r.unit).map fun g => ((unitElems p.elems p.unitSize g).flatMap fun n => p.writes n, p.unitCycles g)
  let m0 := (s.slice c.die).mem
  if VecFunc.isOpt p.func && p.skip && r.unit == 0 && wordAt m0 p.flagWord != 0 then
    match s.wetHit c u.q r.op (r.leaveAt.getD r.issued) (linesOf p.sideBytes) with
    | some m => (s.hazard c u (r.leaveAt.getD r.issued) m, false)
    | none => (s.endOp c u.q (r.leaveAt.getD r.issued + 52 + p.restCycles 0 + 24), false)
  else match s.openWriter c u dest (r.issued + 52) with
  | .error m => (s.hazard c u (r.leaveAt.getD r.issued) m, false)
  | .ok s =>
    let (t, late) := r.unitStart 52
    let els := unitElems p.elems p.unitSize r.unit
    let lines := linesOf ((if r.first then p.sideBytes else []) ++ els.flatMap fun n => p.reads n)
    match s.wetHit c u.q r.op (t - 52) lines with
    | some m => (s.hazard c u (t - 52) m, false)
    | none =>
      let mem := (s.slice c.die).mem
      if p.func = .scaleCommit && els.any fun n => !recordOk (readBytes mem ((p.inp 0).byteAt (p.index n)) 128) then
        (s.failOp c u (u.info c .reservedNonzero 0x10 0) [], false)
      else
        let step := if r.unit = 0 && r.first then wordAt mem p.stepCtr else r.stepCtr
        let old := nthD 0 (r.gather.getD 0 []) 0
        let vals := els.map fun n => (p.inp 0).word mem (p.index n)
        let acc := if r.unit = 0 then (match vals with
          | [] => 0
          | v :: l => l.foldl f32Add v) else vals.foldl f32Add old
        let s := s.putAll c (els.flatMap fun n => p.puts mem u.x.srKey r.epoch step acc n)
        let last := t + p.unitCycles r.unit
        let s := s.unitDone c u late last { r with stepCtr := step, gather := [[acc]] }
        if r.unit + 1 = p.units then (s.endOp c u.q (last + 24), false) else (s, true)

def State.vecLoop (s : State) (c : CoreId) (p : VecP) : Nat → State
  | 0 => s
  | n + 1 =>
    match s.currentIs c (.vec p) with
    | none => s
    | some u =>
      if u.run.endAt.isSome then s
      else
        let (s', go) := s.vecUnit c u p
        if go then s'.vecLoop c p n else s'

/-- A VEC takes up to `groups` groups of 256 elements, or records of a SCALE_COMMIT (R131 to R134). -/
def execVec (c : CoreId) (p : VecP) (groups : Nat) (s : State) : Host.Outcome State Fault Refusal :=
  .next (s.vecLoop c p groups)

/-! ## GRAD_GATHER -/

end Sys2Proof.Machine

namespace Sys2Proof

open Machine

/-- The record of slot `i` (R149, R171). -/
def GatherP.slotRec (p : GatherP) (i : Nat) : OperandRec := { p.slot with base := (((p.slot.base : Int) + p.slotStride * i) % 2 ^ 26).toNat }
def GatherP.elems (p : GatherP) : Nat := p.dst.size 0

end Sys2Proof

namespace Sys2Proof.Machine

open Sys2Proof

def gatherPut (p : GatherP) (m : Sparse Byte) (key epoch n : Nat) : List Put :=
  let ix := p.dst.indexFrom 0 n
  let v := fun (ix : List Nat) => gatherSum (if p.accumulate then some (p.dst.word m ix) else none)
    ((List.range p.n).map fun i => (GatherP.slotRec p i).word m ix)
  vecPut { p.dst with fmt := p.dstFmt } (vecRnd p.sr key p.srStream.toNat epoch) p.sr Config.gatherIeee p.dst.position v ix

/-- One group of a GRAD_GATHER. -/
def State.gatherUnit (s : State) (c : CoreId) (u : Cur) (p : GatherP) : State × Bool :=
  let r := u.run
  let e := GatherP.elems p
  let cyc := fun g => p.n * ceilDiv (min 256 (e - 256 * g)) 64
  let units := ceilDiv e 256
  let dest := ((List.range units).drop r.unit).map fun g => ((unitElems e 256 g).flatMap fun n => p.dst.destBytes (p.dst.indexFrom 0 n), cyc g)
  match s.openWriter c u dest (r.issued + 52) with
  | .error m => (s.hazard c u (r.leaveAt.getD r.issued) m, false)
  | .ok s =>
    let (t, late) := r.unitStart 52
    let els := unitElems e 256 r.unit
    let lines := linesOf (els.flatMap fun n =>
      ((List.range p.n).flatMap fun i => (GatherP.slotRec p i).touch (p.dst.indexFrom 0 n)) ++
      (if p.accumulate then p.dst.touch (p.dst.indexFrom 0 n) else []))
    match s.wetHit c u.q r.op (t - 52) lines with
    | some m => (s.hazard c u (t - 52) m, false)
    | none =>
      let mem := (s.slice c.die).mem
      let s := s.putAll c (els.flatMap fun n => gatherPut p mem u.x.srKey r.epoch n)
      let last := t + cyc r.unit
      let s := s.unitDone c u late last r
      if r.unit + 1 = units then (s.endOp c u.q (last + 24), false) else (s, true)

def State.gatherLoop (s : State) (c : CoreId) (p : GatherP) : Nat → State
  | 0 => s
  | n + 1 =>
    match s.currentIs c (.gradGather p) with
    | none => s
    | some u =>
      if u.run.endAt.isSome then s
      else
        let (s', go) := s.gatherUnit c u p
        if go then s'.gatherLoop c p n else s'

/-- A GRAD_GATHER sums its slots in slot order, up to `groups` groups of 256 elements (R150). -/
def execGradGather (c : CoreId) (p : GatherP) (groups : Nat) (s : State) : Host.Outcome State Fault Refusal :=
  .next (s.gatherLoop c p groups)

/-! ## ROW -/

/-- Rows of a ROW (R126). -/
def rowCount (p : RowP) : Nat := (((p.ins.head?).map fun r => r.size 0).getD 0) / max 1 p.n

/-- The words that element `k` of row `r` brings: from the element inputs, the vectors along the row, the values per row. -/
def rowInputs (p : RowP) (m : Sparse Byte) (r k : Nat) : List Nat :=
  let sh := RowFunc.shape p.func
  ((p.ins.zip (List.range p.ins.length)).map fun e =>
    let n := if e.2 < sh.perElem then r * p.n + k else if e.2 < sh.perElem + sh.perCol then k else r
    e.1.word m (e.1.indexFrom 0 n))

def rowInBytes (p : RowP) (r k : Nat) : List Nat :=
  let sh := RowFunc.shape p.func
  (p.ins.zip (List.range p.ins.length)).flatMap fun e =>
    let n := if e.2 < sh.perElem then r * p.n + k else if e.2 < sh.perElem + sh.perCol then k else r
    e.1.touch (e.1.indexFrom 0 n)

/-- The records of the element output, the column accumulators and the row outputs (R126). -/
def rowOuts (p : RowP) : OperandRec × List OperandRec × List OperandRec :=
  if RowFunc.lossFirst p.func then (p.outs.getD 1 default, [], p.outs.take 1)
  else
    let sh := RowFunc.shape p.func
    (p.outs.getD 0 default, (p.outs.drop 1).take sh.outCol, (p.outs.drop 1).drop sh.outCol)

/-- A row element converted and written; the row unit rounds by RNE in IEEE mode (R43, R125). -/
def rowPut (o : OperandRec) (f : Fmt) (n v : Nat) : Put :=
  { o with fmt := f }.put (o.indexFrom 0 n) (encodeTo f .rne true (f32 v)) 0

/-- Elements of chunk `i` of a row. -/
def rowChunk (n i : Nat) : List Nat := if n ≤ 16384 then List.range n else unitElems n 16384 i

/-- The bytes that pass 2 over chunk `i` of a row writes; the values that the row leaves once come with its last chunk. -/
def rowPassBytes (p : RowP) (r i : Nat) : List Nat :=
  let (o, cols, rows) := rowOuts p
  (rowChunk p.n i).flatMap (fun k => o.touch (o.indexFrom 0 (r * p.n + k)) ++ cols.flatMap fun a => a.touch (a.indexFrom 0 k)) ++
    if i + 1 = rowChunks p.n then rows.flatMap fun a => a.touch (a.indexFrom 0 r) else []

/-- The bytes that a row writes. -/
def rowOutBytes (p : RowP) (r : Nat) : List Nat := (List.range (rowChunks p.n)).flatMap fun i => rowPassBytes p r i

/-- Pass 1 over a chunk: the lanes after it. -/
def rowPass1 (p : RowP) (m : Sparse Byte) (r i : Nat) (ls : Lanes) : Lanes :=
  (rowChunk p.n i).foldl (fun l k => Lanes.enter (RowFunc.join p.func) l k (RowFunc.leaf p.func p.tau.toNat (rowInputs p m r k))) ls

/-- The totals of pass 1, finished. -/
def rowFin (p : RowP) (m : Sparse Byte) (r : Nat) (ls : Lanes) : List Nat :=
  let st := (p.ins.drop (RowFunc.shape p.func).perElem).map fun e => e.word m (e.indexFrom 0 r)
  RowFunc.finish p.func p.n p.eps.toNat st (Lanes.total (RowFunc.join p.func) ls)

/-- Pass 2 over a chunk: what it writes and the lanes that sum p. -/
def rowPass2 (p : RowP) (m : Sparse Byte) (r i : Nat) (fin : List Nat) (ls : Lanes) : List Put × Lanes :=
  let (o, cols, _) := rowOuts p
  (rowChunk p.n i).foldl (fun (acc : List Put × Lanes) k =>
    let old := cols.map fun a => a.word m (a.indexFrom 0 k)
    let vs := RowFunc.elem p.func p.tau.toNat p.n p.w.toNat fin (rowInputs p m r k) old
    (acc.1 ++ rowPut o p.outFmt (r * p.n + k) (nthD 0 vs 0) ::
        ((cols.zip (vs.drop 1)).map fun e => rowPut e.1 .fp32 k e.2),
      Lanes.enter joinAdd acc.2 k [nthD 0 vs 0])) ([], ls)

/-- The values that a row leaves once. -/
def rowLast (p : RowP) (r : Nat) (fin : List Nat) (ls : Lanes) : List Put :=
  let (_, _, rows) := rowOuts p
  let vs := RowFunc.perRow p.func p.tau.toNat p.n p.w.toNat fin (nthD 0 (Lanes.total joinAdd ls) 0)
  (rows.zip vs).map fun e => rowPut e.1 .fp32 r e.2

/-- C-cycles of the chunk pass `j` of a row (R126): pass 1 has the chunks 0 to C − 1. -/
def rowUnitCycles (n j : Nat) : Nat :=
  if n ≤ 16384 then ceilDiv n 64
  else
    let i := j % rowChunks n
    (if i = 0 then 52 else 0) + ceilDiv (min 16384 (n - 16384 * i)) 64

/-- One chunk pass of a ROW, or both passes of a buffered row; `true` where a further one may follow (R125 to R130). -/
def State.rowUnit (s : State) (c : CoreId) (u : Cur) (p : RowP) : State × Bool :=
  let r := u.run
  let ch := rowChunks p.n
  let long := 16384 < p.n
  let row := r.unit / (2 * ch)
  let j := r.unit % (2 * ch)
  let rows := rowCount p
  let lat := if long then 0 else 52
  let again := if long && j % ch ≠ 0 && r.first then 52 else 0
  let dest := ((List.range (2 * ch * rows)).drop r.unit).map fun k =>
    (if ch ≤ k % (2 * ch) then rowPassBytes p (k / (2 * ch)) (k % (2 * ch) - ch) else [], rowUnitCycles p.n (k % (2 * ch)))
  match s.openWriter c u dest (r.issued + lat + again) with
  | .error m => (s.hazard c u (r.leaveAt.getD r.issued) m, false)
  | .ok s =>
    let (t, late) := r.unitStart lat
    let lines := linesOf ((rowChunk p.n (j % ch)).flatMap (fun k => rowInBytes p row k) ++
      (if j < ch then [] else (rowOuts p).2.1.flatMap fun a => (rowChunk p.n (j % ch)).flatMap fun k => a.touch (a.indexFrom 0 k)))
    match s.wetHit c u.q r.op (t - lat) lines with
    | some m => (s.hazard c u (t - lat) m, false)
    | none =>
      let mem := (s.slice c.die).mem
      if long then
        let last := t + again + rowUnitCycles p.n j
        if j < ch then
          let ls := rowPass1 p mem row j (if j = 0 then Lanes.empty else r.stats)
          let r' := if j + 1 = ch then { r with stats := Lanes.empty, gather := [rowFin p mem row ls] } else { r with stats := ls }
          (s.unitDone c u late last r', true)
        else
          let fin := r.gather.getD 0 []
          let (ps, ls) := rowPass2 p mem row (j - ch) fin r.stats
          let ends := j + 1 = 2 * ch
          let s := s.putAll c (ps ++ if ends then rowLast p row fin ls else [])
          let s := s.unitDone c u late last { r with stats := ls }
          if ends && row + 1 = rows then (s.endOp c u.q (last + 40), false) else (s, true)
      else
        let fin := rowFin p mem row (rowPass1 p mem row 0 Lanes.empty)
        let (ps, ls) := rowPass2 p mem row 0 fin Lanes.empty
        let s := s.putAll c (ps ++ rowLast p row fin ls)
        let last := t + 2 * rowUnitCycles p.n 0
        let s := s.unitDone c u late last { r with unit := r.unit + 1 }
        if row + 1 = rows then (s.endOp c u.q (last + 40), false) else (s, true)

def State.rowLoop (s : State) (c : CoreId) (p : RowP) : Nat → State
  | 0 => s
  | n + 1 =>
    match s.currentIs c (.row p) with
    | none => s
    | some u =>
      if u.run.endAt.isSome then s
      else
        let (s', go) := s.rowUnit c u p
        if go then s'.rowLoop c p n else s'

/-- A ROW takes up to `rows` rows, or chunk passes in long mode (R125 to R130). -/
def execRow (c : CoreId) (p : RowP) (rows : Nat) (s : State) : Host.Outcome State Fault Refusal :=
  .next (s.rowLoop c p rows)

end Sys2Proof.Machine
end

