-- ==== Sys2Proof/Machine/Fabric.lean ====
section
/-! DEFINITION. Transfers: how a transfer is cut into pieces and translated, its tags, its packets on the rings, and how it lands,
ends or is held (R170, R206 to R230, R238 to R262). -/

namespace Sys2Proof.Machine

open Sys2Proof

/-! ## Stops and links -/

def stopOfBed (b : BedId) : Fin 5 := ⟨b.val, by have := b.isLt; omega⟩
def easelStop : Fin 5 := 4
/-- The stop that a link leaves and the stop that it reaches (R238). -/
def linkFrom (l : LinkId) : Fin 5 := if l.val < 5 then ⟨l.val % 5, by omega⟩ else ⟨(l.val - 4) % 5, by omega⟩
def linkTo (l : LinkId) : Fin 5 := if l.val < 5 then ⟨(l.val + 1) % 5, by omega⟩ else ⟨(l.val - 5) % 5, by omega⟩
/-- The clockwise and the counter-clockwise link from a stop. -/
def cwLink (a : Fin 5) : LinkId := ⟨a.val, by have := a.isLt; omega⟩
def ccwLink (a : Fin 5) : LinkId := if a.val = 0 then 9 else ⟨a.val + 4, by have := a.isLt; omega⟩
/-- The date lines (R244). -/
def dateLine (l : LinkId) : Bool := l == 4 || l == 9

/-- The links of a path of `n` hops in one direction. -/
def pathOf (next : Fin 5 → LinkId) (a : Fin 5) : Nat → List LinkId
  | 0 => []
  | n + 1 => next a :: pathOf next (linkTo (next a)) n

/-- The path of a packet: the shortest, or the other way round where that one is down (R240). -/
def State.route (s : State) (a b : Fin 5) : List LinkId :=
  let d := (b.val + 5 - a.val) % 5
  let cw := pathOf cwLink a d
  let ccw := pathOf ccwLink a (5 - d)
  let up := fun (p : List LinkId) => p.all fun l => !(s.fabric.links.get l).down
  let (short, other) := if d ≤ 2 then (cw, ccw) else (ccw, cw)
  if d = 0 then [] else if up short || !up other then short else other

/-! ## The raster -/

/-- The raster in effect: from the program's first issue on, until its EXEC ends or a fence stops it, while its context runs
(R253). -/
def State.raster (s : State) : List (Nat × List Nat) :=
  match s.runCtx with
  | some (_, x) => match x.exec with
    | some e => if e.rasterOn then e.raster.getD [] else []
    | none => []
  | none => []

/-- Whether a flow of the running program holds a slot of a link. -/
def State.holdsSlot (s : State) (ctx : CtxId) (flow : Option Nat) (l : LinkId) : Bool :=
  match flow with
  | none => false
  | some f => decide (s.running = some ctx) && ((assoc? f s.raster).map fun m => nthD 0 m l.val != 0).getD false

/-! ## Packets -/

/-- Whether a stop belongs to a fenced bed die. -/
def State.stopGone (s : State) (a : Fin 5) : Bool := if h : a.val < 4 then s.fenced (.b ⟨a.val, h⟩) else false

/-- Packets discarded at the last hop before a removed or resetting die (R261, R263). -/
def State.discard (s : State) (n : Nat) : State := s.modFabric fun f => { f with discarded := f.discarded + n }

/-- A packet put in the queue of its next link at a stop: its flow's, the transit queue or the queue of P4 traffic (R250, R251,
R254). The stop upstream of a fenced bed die discards what goes there (R261). -/
def State.enqueue (s : State) (p : Pkt) (at_ : Fin 5) (transit : Bool) : State :=
  match s.route at_ p.dst with
  | [] => s
  | l :: _ =>
    if s.stopGone (linkTo l) then s.discard 1
    else
      let q : Fin 5 := if s.holdsSlot p.ctx p.flow l then 0 else if transit then 1 else 4
      s.modFabric fun f => { f with pkts := f.pkts ++ [{ p with pos := .queued l q }] }

/-- Copies of a packet from a stop to several stops: one for each link that leads to some of them, delivered last at the farthest of
those and replicated at the others on its way (R259). -/
def State.scatter (s : State) (p : Pkt) (at_ : Fin 5) (stops : List (Fin 5)) (transit : Bool) : State :=
  let hops := fun (t : Fin 5) => (s.route at_ t).length
  let firsts := (stops.filterMap fun t => (s.route at_ t).head?).dedup
  firsts.foldl (fun s l =>
    let mine := stops.filter fun t => (s.route at_ t).head? == some l
    let far := mine.foldl (fun (m : Option (Fin 5)) t => match m with
      | none => some t
      | some m => if hops m < hops t then some t else some m) none
    match far with
    | none => s
    | some t =>
      let id := s.fabric.nextId
      (s.modFabric fun f => { f with nextId := id + 1 }).enqueue { p with id := id, dst := t, drops := mine.filter fun e => e ≠ t } at_ transit) s

/-- A packet goes on from a stop: as one, where its path still leads past every stop that it has to reach, else in copies (R240,
R259). -/
def State.onward (s : State) (p : Pkt) (at_ : Fin 5) : State :=
  let path := (s.route at_ p.dst).map linkTo
  if p.drops.all fun d => d ∈ path then s.enqueue p at_ true else s.scatter p at_ (p.dst :: p.drops) true

/-- A fresh packet of a piece, with the header of R239. -/
def Xfer.packet (x : Xfer) (p : Piece) (members : List DieId) (bytes : List Byte) : Pkt :=
  { id := 0, ctx := x.ctx, xfer := x.id, seq := p.seq, flow := x.flow, vc := if x.flow.isSome then 0 else 2, pos := .queued 0 0,
    tile := p.off / 4096, hops := 0, dst := 0, drops := [], members := members, bytes := bytes }

/-- Tiles of a flow in its buffer at a stop: those that wait there, and those on a link to it (R250). -/
def State.flowUse (s : State) (stop : Fin 5) (ctx : CtxId) (flow : Option Nat) : Nat :=
  (s.fabric.pkts.filter fun p => p.flow == flow && p.ctx == ctx && match p.pos with
    | .queued l q => linkFrom l == stop && q == 0
    | .flying l => linkTo l == stop && decide (p.vc.val < 2)).length
/-- The buffer of a flow at a stop, and of VC2 and of VC3, in tiles (R250, R254). -/
def stopBuffer : Nat := 36

/-- Whether the engine holds a tile for a stop's buffer: its flow holds a slot of the first link, and the buffer is full (R250). -/
def State.stopFull (s : State) (x : Xfer) (src : Fin 5) (stops : List (Fin 5)) : Bool :=
  (stops.any fun t => ((s.route src t).head?.map fun l => s.holdsSlot x.ctx x.flow l).getD false) &&
  decide (stopBuffer ≤ s.flowUse src x.ctx x.flow)

/-! ## Transfers and their pieces -/

def State.xfer? (s : State) (i : Nat) : Option Xfer := s.fabric.xfers.find? fun x => x.id == i
def State.modXfer (s : State) (i : Nat) (f : Xfer → Xfer) : State :=
  s.modFabric fun b => { b with xfers := b.xfers.map fun x => if x.id = i then f x else x }
def State.dropXfer (s : State) (i : Nat) : State := s.modFabric fun b => { b with xfers := b.xfers.filter fun x => x.id != i }
def Xfer.piece? (x : Xfer) (seq : Nat) : Option Piece := x.pieces.find? fun p => p.seq == seq
def State.modPiece (s : State) (i seq : Nat) (f : Piece → Piece) : State :=
  s.modXfer i fun x => { x with pieces := x.pieces.map fun p => if p.seq = seq then f p else p }

/-- The command whose transfer it is; none for an operation's. -/
def Xfer.cmd? (x : Xfer) : Option CmdHdr :=
  match x.kind with
  | .copy h _ | .fill h _ | .evict h .. => some h
  | _ => none

/-- A queue's head with its run, whether or not it occupies the core. -/
def State.headOf (s : State) (c : CoreId) (q : QueueId) : Option Cur :=
  match s.runCtx with
  | some (n, x) => match x.exec, ((s.core c).queue q).ops, ((s.core c).queue q).run with
    | some e, d :: _, some r => some ⟨n, x, e, q, d, r⟩
    | _, _, _ => none
  | none => none

/-- The operation of a transfer, while it is still the head of its queue. -/
def State.opOf (s : State) (x : Xfer) : Option Cur :=
  if x.cmd?.isSome || x.ended || s.running ≠ some x.ctx then none
  else match s.headOf x.core x.queue with
    | some u => if u.run.op = x.op && u.run.outcome.isNone then some u else none
    | none => none

/-! ## The ends of a transfer -/

/-- Bytes `[off, off + n)` of a scratchpad side, in walk order (R170); a record of 4-bit or 6-bit elements walks each byte once. -/
def walkBytes (r : OperandRec) (off n : Nat) : List Nat :=
  let b := max 1 r.fmt.bytes
  if r.fmt.packed then
    ((((List.range (8 * (off + n) / r.fmt.bits + 1)).flatMap fun i => bitBytes (r.bitAt (r.indexFrom 0 i)) r.fmt.bits).dedup).drop off).take n
  else (List.range n).map fun i => r.bitAt (r.indexFrom 0 ((off + i) / b)) / 8 + (off + i) % b

/-- One end of a piece before translation. -/
inductive EndAt where
  | pad (d : DieId) (addrs : List Nat)   -- a piece longer than its addresses is padded with zeros
  | virt (v : Nat) (a : Access)
  | data (d : DieId) (bs : List Byte)    -- bytes that the engine supplies
  | front (bs : List Byte)               -- bytes that the command front end supplies
  | host (addr : Nat)
  | pcie (addr : Nat)                    -- the far-tier address that an EVICT names
deriving DecidableEq, Repr

/-- The address that a fault of an end names (R225). -/
def EndAt.addr : EndAt → Nat
  | .virt v _ => v
  | .host a | .pcie a => a
  | _ => 0

/-- The lane of a core: its base and its size (R138). -/
def Ctx.laneBase (x : Ctx) (c : CoreId) : Nat := x.stackBase + c.die.val * x.stackSize + c.k.val * (x.stackSize / 4)
def Ctx.laneSize (x : Ctx) (c : CoreId) : Nat := if bit x.stackMask c.die.val then x.stackSize / 4 else 0
def Ctx.lane (x : Ctx) (c : CoreId) : Lane := (assoc? c.val x.lanes).getD ⟨0, 0, 0, []⟩
def Lane.isEmpty (l : Lane) : Bool := l.pay == 0 && l.tags == 0 && l.seq == 0 && l.mirror.isEmpty
def Ctx.setLane (x : Ctx) (c : CoreId) (l : Lane) : Ctx :=
  { x with lanes := if l.isEmpty then assocDel c.val x.lanes else assocSet c.val l x.lanes }
/-- The virtual address of the `i`-th tag record of a lane, counted from 1 (R139). -/
def Ctx.tagAddr (x : Ctx) (c : CoreId) (i : Nat) : Nat := x.laneBase c + x.laneSize c - 64 * i

def padded (n : Nat) : Nat := roundUp n 4096

/-- The tag record of a push (R140). -/
def tagRecord (p : PushP) (l : Lane) : List Byte :=
  record 64 [(0, 4, p.layer.toNat), (4, 4, p.size), (8, 8, l.pay), (16, 4, l.seq + 1), (20, 1, p.src.fmt.code)]

/-- The payload offset of the entry that the top of a lane holds: its size as the pop states it, which the tag has confirmed. -/
def popBase (l : Lane) (p : PopP) : Nat := l.pay - padded p.size

/-- Bytes that a transfer moves in all. -/
def Xfer.total (x : Xfer) : Nat :=
  match x.kind with
  | .push => padded x.len + 64
  | _ => x.len

/-- Both ends of `[off, off + n)` of an operation's transfer. -/
def Cur.ends (u : Cur) (x : Xfer) (off n : Nat) : Option (EndAt × EndAt) :=
  let c := x.core
  let l := u.x.lane c
  match u.desc.op with
  | .move p =>
    let src := if p.srcVirt then some (EndAt.virt (p.srcAddr + off) .read)
      else p.src.map fun r => EndAt.pad c.die (walkBytes r off n)
    let dst := if p.dstVirt then some (EndAt.virt (p.dstAddr + off) .write)
      else p.dst.map fun r => EndAt.pad (if p.dstRemote then p.dstDie else c.die) (walkBytes r off n)
    match src, dst with
    | some a, some b => some (a, b)
    | _, _ => none
  | .mcast p => some (.virt (p.srcAddr + off) .read, .pad c.die (walkBytes p.dst off n))
  | .atomicAdd p => some (.pad c.die (walkBytes p.src off n), .virt (p.target + off) .atomic)
  | .stashPush p =>
    if off < padded p.size then some (.pad c.die (walkBytes p.src off (min n (p.size - off))), .virt (u.x.laneBase c + l.pay + off) .write)
    else some (.data c.die (tagRecord p l), .virt (u.x.tagAddr c (l.tags + 1)) .write)
  | .stashPop p =>
    if x.nextSeq = 0 then some (.virt (u.x.tagAddr c l.tags) .read, .pad c.die [])
    else p.dst.map fun r => (.virt (u.x.laneBase c + popBase l p + off) .read, .pad c.die (walkBytes r off n))
  | .clipDraw p =>
    match x.kind, u.x.shuffle with
    | .draw slot, some r => some (.virt (r.slotAddr slot + off) .hbmRead,
        .pad c.die (walkBytes p.dst (u.run.seq * r.cfg.slotBytes + off) n))
    | _, _ => none
  | _ => none

/-- `n` bytes of the pattern of a FILL, in little-endian order (R364); a piece begins at a multiple of 64. -/
def patternBytes (pat n : Nat) : List Byte := ((List.replicate (n / 4) (leBytes 4 pat)).flatten).take n

/-- Both ends of `[off, off + n)` of a transfer. -/
def State.endsOf (s : State) (x : Xfer) (off n : Nat) : Option (EndAt × EndAt) :=
  match x.kind with
  | .copy _ p => some (if p.srcHost then .host (p.src + off) else .virt (p.src + off) .read,
      if p.dstHost then .host (p.dst + off) else .virt (p.dst + off) .write)
  | .fill _ p => some (.front (patternBytes p.pattern n), .virt (p.dst + off) .write)
  | .evict _ p page _ _ => some (.virt (page + off) .read, .pcie (p.target + (page - p.vaddr) + off))
  | _ => (s.opOf x).bind fun u => u.ends x off n

/-- Bytes from an end to its next page boundary (R206). -/
def State.roomAt (s : State) (n : CtxId) : EndAt → Nat
  | .virt v _ => match (s.ctxD n).pageAt v with
    | some p => p.vaddr + p.size - v
    | none => 65536 - v % 65536
  | _ => 4096

/-- The length of the piece at `x.next`: within a tile of the walk order, within the pages of both ends, and within the parts of a
push or a pop (R206). -/
def State.cut (s : State) (x : Xfer) : Nat :=
  match x.kind with
  | .pop => if x.nextSeq = 0 then 64 else go x.len
  | .push => if x.next < padded x.len then go (padded x.len) else 64
  | _ => go x.len
where
  /-- The piece at `x.next`, no further than `top`. -/
  go (top : Nat) : Nat :=
    let n := min (4096 - x.next % 4096) (top - x.next)
    match s.endsOf x x.next 1 with
    | some (a, b) => min n (min (s.roomAt x.ctx a) (s.roomAt x.ctx b))
    | none => n

/-! ## Tags -/

/-- The core whose tiles a transfer's are; none for a command's. -/
def Xfer.owner (x : Xfer) : Option CoreId := if x.cmd?.isSome then none else some x.core

/-- Whether a bed grants a tile for a pseudo-channel a tag, and from its core's reserve or shared (R214, R215). -/
def Bed.offer (b : Bed) (owner : Option CoreId) (carried : Bool) (stack : Fin 3) (pc : Fin 64) : Option Bool :=
  let mine := fun (r : Bool) => (b.tags.filter fun t => t.owner == owner && t.reserved == r).length
  let room := decide ((b.tags.filter fun t => !t.reserved).length < 1024)
  if 32 ≤ b.pcTags stack pc then none
  else match owner with
    | none => if room then some false else none
    | some _ => if carried && mine true < 64 then some true else if mine false < 64 && room then some false else none

/-- A tag taken: occupancy and its peak (R459). -/
def Bed.take (b : Bed) (t : Tag) : Bed :=
  let n := b.tags.length + 1
  { b with tags := b.tags ++ [t], stats := { b.stats with inUse := n, peak := max b.stats.peak n } }

/-- Whether the selection of a bed's histogram counts a pseudo-channel (R459). -/
def histCounts (sel : Nat) (stack : Fin 3) (pc : Fin 64) : Bool :=
  (field sel 0 2 = 3 || field sel 0 2 = stack.val) && (field sel 0 2 = 3 || bit sel 8 || field sel 2 6 = pc.val)

/-- A tag freed after `held` ns. -/
def Bed.free (b : Bed) (xfer seq : Nat) (wr : Bool) (now : Nat) : Bed :=
  match b.tags.find? fun t => t.xfer == xfer && t.seq == seq && t.wr == wr with
  | none => b
  | some t =>
    let bin := min 15 ((now - t.sinceNs) / 40)
    let hist := if histCounts b.histSel t.stack t.pc then b.stats.hist.set bin (satAt (2 ^ 32 - 1) (nthD 0 b.stats.hist bin + 1))
      else b.stats.hist
    let tags := b.tags.erase t
    { b with tags := tags, stats := { b.stats with inUse := tags.length, hist := hist } }

/-- What a bed offers a transfer's tile at a bed offset. -/
def State.offerTo (s : State) (b : BedId) (x : Xfer) (o : Nat) : Option Bool :=
  (s.bed b).offer x.owner (x.core.bed == b) (stackOf o) (pcOf o)

/-- The pieces that wait for a tag at a bed, with their bed offsets (R216). -/
def State.tagWaiters (s : State) (b : BedId) : List (Xfer × Piece × Nat) :=
  s.fabric.xfers.flatMap fun x => x.pieces.filterMap fun p =>
    match p.tagPlace with
    | some (k, o) => if k = b.val then some (x, p, o) else none
    | none => none

/-- Whether an older tile that has been set aside waits for the tag that a bed offers a tile; it takes it first (R214, R216). -/
def State.setAside (s : State) (b : BedId) (x : Xfer) (seq : Nat) (reserved : Bool) : Bool :=
  (s.tagWaiters b).any fun w => !(w.1.id == x.id && w.2.1.seq == seq) && s.offerTo b w.1 w.2.2 == some reserved &&
    (!reserved || w.1.owner == x.owner)

/-- A piece tries for its tag at a bed; where it waits, the wait is counted (R214 to R216, R459). A tile that has just come to its
controller, `first`, stands behind those set aside. -/
def State.tryTag (s : State) (x : Xfer) (seq : Nat) (bed : BedId) (off : Nat) (wr first : Bool) : State × Bool :=
  let st := stackOf off
  let pc := pcOf off
  let b := s.bed bed
  let give := match s.offerTo bed x off with
    | some r => if first && s.setAside bed x seq r then none else some r
    | none => none
  match give with
  | some r => (s.modBed bed fun b => b.take ⟨st, pc, x.owner, r, x.id, seq, wr, s.timeNs⟩, true)
  | none =>
    let up := fun n => satAt (2 ^ 32 - 1) (n + 1)
    let cap := 32 ≤ b.pcTags st pc
    let count := fun (t : BedStats) => if cap then { t with capEv := up t.capEv } else { t with exhEv := up t.exhEv }
    (if first then s.modBed bed fun b => { b with stats := count b.stats } else s, false)

/-! ## Landing -/

/-- Bytes put into scratchpad addresses of a die; a fenced die takes none. -/
def State.landPad (s : State) (d : DieId) (addrs : List Nat) (bs : List Byte) : State :=
  if s.fenced (.c d) then s
  else s.modSlice d fun k => { k with mem := (addrs.zip bs).foldl (fun m e => sset 0 m e.1 e.2) k.mem }

/-- A piece has landed; it is complete once it has landed or an adder holds it for its turn (R179, R257); it is settled when nothing
further of the transfer has to happen to it. -/
def Piece.done (p : Piece) : Bool := p.st == .landed
def Piece.complete (p : Piece) : Bool := p.st == .landed || p.st == .heldAdder
def Piece.settled (p : Piece) : Bool :=
  match p.st with
  | .landed | .heldAdder | .failed _ => true
  | _ => false

/-- The offset of the first byte that is not known to be complete (R179, R389). -/
def Xfer.doneAt (x : Xfer) : Nat :=
  match x.pieces.find? fun p => !p.complete with
  | some p => p.off
  | none => x.next

/-- The lines that a destination of a transfer still has to receive. -/
def Cur.pending (u : Cur) (x : Xfer) (d : DieId) : List Nat :=
  let future := match u.ends x x.next (x.len - x.next) with
    | some (_, .pad _ as) => as
    | _ => []
  linesOf (future ++ x.pieces.flatMap fun p => if p.done then [] else match p.dst with
    | .scratch _ as => if d ∈ p.left then as else []
    | _ => [])

/-- Lines of a destination clear when the last byte that the operation writes into them has landed (R137, R175). -/
def State.clearLanded (s : State) (x : Xfer) (d : DieId) (addrs : List Nat) : State :=
  match s.opOf x with
  | none => s
  | some u =>
    let left := match s.xfer? x.id with
      | some y => u.pending y d
      | none => []
    let gone := (linesOf addrs).filter fun l => l ∉ left
    s.modSlice d fun k => { k with wet := k.wet.filter fun m => !(m.own x.core x.queue x.op && decide (m.line ∈ gone)) }

/-! ## Faults of a transfer -/

/-- A transfer under a new identifier: what follows is a new transfer instance (R258). -/
def State.renumber (s : State) (i : Nat) : State :=
  let n := s.fabric.nextId
  let s := s.modFabric fun f => { f with nextId := n + 1, xfers := f.xfers.map fun x => if x.id = i then { x with id := n } else x }
  let hold := fun (h : HeldTile) => if h.xfer = i then { h with xfer := n } else h
  let run := fun (r : Run) => if r.xfer = some i then { r with xfer := some n } else r
  let trail := fun (t : Trailing) => if t.xfer = some i then { t with xfer := some n } else t
  let s : State := { s with beds := s.beds.map fun b => { b with adders := b.adders.map fun (a : Adder) => { a with hold := a.hold.map hold } } }
  s.mapCores fun _ k => { k with queues := k.queues.map fun (q : Queue) => { q with run := q.run.map run }, trailing := k.trailing.map trail }

/-- A transfer as a stop leaves it: it goes on at the offset of its first byte not complete, and keeps the tiles that its adders hold
(R179, R258). -/
def Xfer.rewound (x : Xfer) : Xfer :=
  let done := x.doneAt
  let keep := x.pieces.filter fun p => decide (p.off < done) || p.st == .heldAdder
  { x with pieces := keep, next := done, nextSeq := (keep.map fun (p : Piece) => p.seq + 1).foldl max 0, fault := none, flushing := [],
           sinceFlush := 0, acked := [], got := [] }

/-- The fault of a transfer is held: the operation is suspended at it and the host hears of it (R224 to R226, R230). -/
def State.holdFault (s : State) (u : Cur) (x : Xfer) (st : Status) : State :=
  let (id, s) := s.takeFaultId
  let c := x.core
  let done := x.doneAt
  let s := (s.modXfer x.id Xfer.rewound)
  let s := s.modCore c fun k => { (k.modQueue u.q fun q =>
    { q with wait := .held id, run := q.run.map fun r => { r with suspended := true, doneBytes := done } }) with
    cur := if k.cur = some u.q then none else k.cur }
  let s := s.renumber x.id
  let s := s.modCtx u.ctx fun y => { y with held := y.held ++ [⟨id, .op c u.q u.desc.opTag, st, x.faultAddr, none⟩] }
  let s := s.modHbm fun h => if st = .pageFault then { h with pageFaults := satAt 0xFFFF (h.pageFaults + 1) }
    else { h with farFaults := satAt 0xFFFF (h.farFaults + 1) }
  s.event u.ctx 0x03 st id [(24, 8, x.faultAddr % 2 ^ 48 + 2 ^ 48 * x.faultWhy.1 + 2 ^ 50 * x.faultWhy.2), (32, 8, done), (40, 1, 0), (41, 1, c.val),
    (42, 1, u.q.val), (44, 4, u.desc.opTag.toNat)]

/-- The identity of a command in an event record: requester 1, its ring, its sequence number (R391). -/
def cmdEvent (h : CmdHdr) (addr access reason done : Nat) : List (Nat × Nat × Nat) :=
  [(24, 8, addr % 2 ^ 48 + 2 ^ 48 * access + 2 ^ 50 * reason), (32, 8, done), (40, 1, 1), (41, 1, h.ring.val), (44, 4, h.seq.toNat)]

/-- A fault of a command that is not held: its event, then its completion with `progress` (R225, R230). -/
def State.cmdFault (s : State) (h : CmdHdr) (n : CtxId) (st : Status) (addr access reason progress bytes : Nat) : State :=
  let (id, s) := s.takeFaultId
  let s := s.modHbm fun m => if st = .pageFault then { m with pageFaults := satAt 0xFFFF (m.pageFaults + 1) }
    else { m with farErr := true, farFaults := satAt 0xFFFF (m.farFaults + 1) }
  (s.event n 0x03 st id (cmdEvent h addr access reason bytes)).complete h st progress id

/-- A command that meets HBM data that cannot be corrected (R431). -/
def State.cmdData (s : State) (h : CmdHdr) (n : CtxId) (b o progress : Nat) : State :=
  let (id, s) := s.logFault { status := .uncorrectableData, cls := 3, struct_ := 0x05, ctx := n.val, die := 16 + b, progress := progress,
                              address := dpaOf s.hbm.dwi b o } [s.hbm.body b o]
  s.complete h .uncorrectableData progress id

/-- A command in which duplicated control state disagrees ends with INTERNAL_ERROR and a record of class C that names the structure and
its die (R428, R431, R434). -/
def State.cmdCheck (s : State) (h : CmdHdr) (n : CtxId) (struct_ die : Nat) : State :=
  let (id, s) := s.logFault { status := .internalError, cls := 3, struct_ := struct_, ctx := n.val, die := die } []
  s.complete h .internalError 0 id

/-- An access of a command halted: its event or its record, then its completion with the bytes complete (R225, R230, R431).
`addr` is the address at which it halted. -/
def State.commandHalt (s : State) (h : CmdHdr) (n : CtxId) (t : Halt) (addr : Nat) (wr : Bool) (done : Nat) : State :=
  match t with
  | .page v a r => s.cmdFault h n .pageFault v a.code r.code done done
  | .far f => s.cmdFault h n f.status addr (bitOf wr) (if f = .timeout then 5 else 4) done done
  | .data b o => s.cmdData h n b o done

/-- A command's transfer ends with a fault: the progress word holds the bytes complete, or the pages evicted (R225, R230, R234). -/
def State.endCmd (s : State) (h : CmdHdr) (x : Xfer) (st : Status) : State :=
  let done := x.doneAt
  let progress := match x.kind with
    | .evict _ _ _ k _ => k
    | _ => done
  let bytes := match x.kind with
    | .evict _ _ _ _ m => m + done
    | _ => done
  let s := s.dropXfer x.id
  match st with
  | .pageFault | .farTierError | .farTierTimeout => s.cmdFault h x.ctx st x.faultAddr x.faultWhy.1 x.faultWhy.2 progress bytes
  | _ => s.cmdData h x.ctx (field x.faultAddr 38 2) (x.faultAddr % 2 ^ 38) progress

/-- A transfer's fault takes effect once nothing of it is in flight: it is held, or it ends the operation (R224, R230, R431). -/
def State.endFault (s : State) (u : Cur) (x : Xfer) (st : Status) : State :=
  match st with
  | .pageFault | .farTierError | .farTierTimeout => s.holdFault u x st
  | _ =>
    let u := { u with run := { u.run with doneBytes := x.doneAt } }
    let bed := field x.faultAddr 38 2
    let info := u.info x.core st 0x10 x.faultAddr
    let s := if st = .uncorrectableData then
        s.failOp x.core u { info with struct_ := 0x05, die := 16 + bed, address := dpaOf s.hbm.dwi bed (x.faultAddr % 2 ^ 38) } [s.hbm.body bed (x.faultAddr % 2 ^ 38)]
      else s.failOp x.core u info []
    s.dropXfer x.id

/-- The operation of a transfer has ended with a fault: no further tile is issued, and those on their way complete (R250). -/
def State.drain (s : State) (x : Xfer) : State :=
  if x.pieces.all Piece.settled then s.dropXfer x.id else s.modXfer x.id fun y => { y with ended := true, stop := true }

/-! ## Completion -/

/-- Bytes of a core's mirror (R144). -/
def mirrorBytes : Nat := 2 ^ 21
/-- The scratchpad addresses of `n` bytes of a mirror from a position on: entries lie one behind the other, and wrap. -/
def mirrorAddrs (base pos n : Nat) : List Nat := (List.range n).map fun i => base + (pos + i) % mirrorBytes

/-- The newest entries that a mirror keeps beside a new one of `n` bytes: the oldest are dropped to make room (R144). -/
def keepMirrored (n : Nat) : List Mirrored → List Mirrored
  | [] => []
  | m :: ms => if n + padded m.size ≤ mirrorBytes then m :: keepMirrored (n + padded m.size) ms else []

/-- The mirror of a core under the program that runs; none where its container declares none (R144). -/
def Exec.mirrorAt (e : Exec) (c : CoreId) : Option Nat := if e.mirrorSize = 0 then none else some (e.mirrorBase + c.k.val * mirrorBytes)

/-- The top entry of a lane, where the mirror holds it (R144). -/
def Lane.mirrored (l : Lane) (base : Option Nat) : Option Mirrored :=
  match l.mirror, base with
  | m :: _, some b => if m.base = b ∧ m.off + padded m.size = l.pay then some m else none
  | _, _ => none

/-- A push of at most 2 MiB writes its payload into the mirror too; a resumed one does not (R144, R146). -/
def State.mirrorPush (s : State) (u : Cur) (c : CoreId) (p : PushP) : State × List Mirrored :=
  let l := u.x.lane c
  let n := padded p.size
  match u.exec.mirrorAt c with
  | none => (s, l.mirror)
  | some base =>
    if u.run.resumed || mirrorBytes < n then (s, l.mirror)
    else
      let old := if l.mirror.all fun m => m.base == base then l.mirror else []
      let pos := match old with
        | m :: _ => (m.pos + padded m.size) % mirrorBytes
        | [] => 0
      let bytes := padTo n ((walkBytes p.src 0 p.size).map fun a => sget 0 (s.slice c.die).mem a)
      (s.landPad c.die (mirrorAddrs base pos n) bytes, ⟨l.pay, p.size, p.layer.toNat, pos, base⟩ :: keepMirrored n old)

/-- A completed transfer as its operation sees it: the lane pointers of a push or a pop move, a draw passes its slot (R142,
R144, R335). -/
def State.applyLane (s : State) (u : Cur) (c : CoreId) : State :=
  let l := u.x.lane c
  match u.desc.op with
  | .stashPush p =>
    let (s, mirror) := s.mirrorPush u c p
    s.putCtx u.ctx (u.x.setLane c ⟨l.pay + padded p.size, l.tags + 1, l.seq + 1, mirror⟩)
  | .stashPop p =>
    let base := popBase l p
    let l' : Lane := ⟨base, l.tags - 1, if l.tags ≤ 1 then 0 else l.seq, l.mirror.filter fun e => e.off < base⟩
    s.putCtx u.ctx (u.x.setLane c l')
  | .clipDraw _ => match u.x.shuffle.bind fun r => r.lane? c with
    | some lane => s.modShuffle u.ctx fun r => r.drawn lane
    | none => s
  | _ => s

/-- C-cycles pass while a core waits for a transfer: how many the specification does not say (R172). -/
def State.waited (s : State) (c : CoreId) (x : Ctx) : State :=
  let (n, s) := s.draw
  s.stallTo c (s.idleCause c x) ((s.core c).cyc + n)

/-- The waiting cycles of a core whose transfer gets on (R216, R252). -/
def State.waitedFor (s : State) (x : Xfer) : State :=
  match s.opOf x with
  | some u => if (s.core x.core).cur = some u.q then s.waited x.core u.x else s
  | none => s

/-- A transfer is over: its operation ends, a CLIP_DRAW goes on to its next clip, or an ended ordered ATOMIC_ADD completes (R107,
R163, R257, R333). -/
def State.finishXfer (s : State) (x : Xfer) : State :=
  match s.opOf x with
  | some u =>
    let s := (s.waitedFor x).dropXfer x.id
    let s := s.applyLane u x.core
    let t := (s.core x.core).cyc
    let more := match u.desc.op with
      | .clipDraw p => decide (u.run.seq + 1 < p.clips)
      | _ => false
    if more then
      s.modQueue x.core u.q fun q => { q with run := q.run.map fun r => { r with xfer := none, doneBytes := 0, seq := r.seq + 1 } }
    else s.modQueue x.core u.q fun q =>
      { q with run := q.run.map fun r => { r with xfer := none, doneBytes := x.len, outcome := some .ok, endAt := some (r.endAt.getD t) } }
  | none =>
    let s := s.dropXfer x.id
    s.modCore x.core fun k =>
      { k with trailing := k.trailing.map fun t => if t.op = x.op then { t with at_ := some k.cyc } else t,
               queues := k.queues.map fun q => { q with run := q.run.map fun r => if r.op = x.op then { r with xfer := none } else r } }

/-- Whether everything of a transfer has landed. -/
def Xfer.allDone (x : Xfer) : Bool := x.next == x.total && x.pieces.all Piece.done

/-- The die that counts the bytes of a place and acknowledges them, by die code; 24 for the easel die (R257). -/
def Place.station : Place → Nat
  | .scratch d _ => d.val
  | .hbm b _ => 16 + b.val
  | _ => 24
/-- The destinations of a transfer whose pieces are all known. -/
def Xfer.stations (x : Xfer) : List Nat := (x.pieces.map fun p => p.dst.station).dedup
/-- Those that have received every byte declared for them and have not acknowledged (R257). -/
def Xfer.ackDue (x : Xfer) : List Nat :=
  if x.next = x.total then x.stations.filter fun k => k ∉ x.acked && x.pieces.all fun p => p.dst.station ≠ k || p.done else []

/-- Far-tier writes are flushed after every 256 tiles and after the last (R229). -/
def State.flushFar (s : State) (x : Xfer) : State :=
  let posted := x.pieces.filter fun p => p.st == .posted
  let rest := x.pieces.filter fun p => !p.done && p.st != .posted
  let last := rest.isEmpty && (x.next == x.total || x.fault.isSome || x.stop)
  match posted.getLast? with
  | none => s
  | some p =>
    let upTo := match x.pieces.find? fun p => !p.done && p.st != .posted with
      | some q => q.off
      | none => p.off + p.len
    if (256 ≤ x.sinceFlush || last) && !x.flushing.contains upTo then
      match p.dst with
      | .far a _ _ pasid =>
        (s.send (.farFlush x.ctx pasid (a + p.len - 1))).modXfer x.id fun x => { x with flushing := x.flushing ++ [upTo], sinceFlush := 0 }
      | _ => s
    else s

/-- What follows when a piece has landed or failed: flushes, the acknowledgements of destinations that are complete, a fault that
has nothing left in flight. -/
def State.afterPiece (s : State) (i : Nat) : State :=
  match s.xfer? i with
  | none => s
  | some x =>
    let s := s.flushFar x
    let idle := x.pieces.all Piece.settled
    let s := match s.opOf x with
      | some u => s.modQueue x.core u.q fun q => { q with run := q.run.map fun r => { r with doneBytes := x.doneAt } }
      | none => s
    if x.ended then (if idle then s.dropXfer i else s)
    else match x.fault with
    | some st =>
      if idle then match x.cmd?, s.opOf x with
        | some h, _ => s.endCmd h x st
        | none, some u => s.endFault u x st
        | none, none => s
      else s
    | none =>
      match x.kind with
      | .mcast => s
      | _ =>
        let due := x.ackDue
        if due.isEmpty then s
        else (s.modXfer i fun x => { x with acked := x.acked ++ due }).modFabric fun f => { f with vc4 := f.vc4 ++ due.map fun k => .ack i x.ctx k }

/-- A piece has landed at every destination. -/
def State.pieceLanded (s : State) (i seq : Nat) : State :=
  (s.modPiece i seq fun p => { p with st := .landed, data := [] }).afterPiece i

/-- The fault that a failed piece gives its transfer: of several the one first in walk order, which a page fault, found beyond
every issued piece, never is; a fence of the destination stands (R224, R230). -/
def Xfer.failAt (x : Xfer) (seq : Nat) (st : Status) (addr : Nat) (why : Nat × Nat) : Xfer :=
  let keep := match x.fault with
    | none | some .pageFault => false
    | some .dieFenced => true
    | some _ => x.pieces.any fun p => decide (p.seq < seq) && p.settled && !p.complete
  if keep then x else { x with fault := some st, faultAddr := addr, faultWhy := why }

/-- A piece failed: the transfer issues nothing further and ends with the status (R230). -/
def State.pieceFailed (s : State) (i seq : Nat) (st : Status) (addr : Nat) (why : Nat × Nat) : State :=
  let s := s.modPiece i seq fun p => { p with st := .failed .error, data := [] }
  (s.modXfer i fun x => x.failAt seq st addr why).afterPiece i

/-- The access and the reason of a far-tier failure, and the address at which a transfer reads or writes (R225, R230, R391). -/
def farWhy (wr : Bool) (f : FarFail) : Nat × Nat := (bitOf wr, if f = .timeout then 5 else 4)
def State.addrOf (s : State) (x : Xfer) (off : Nat) (wr : Bool) : Nat :=
  match s.endsOf x off 1 with
  | some (a, b) => if wr then b.addr else a.addr
  | none => 0

/-! ## From the engine to the destination -/

/-- The stop at which a place lies. -/
def Place.stop : Place → Fin 5
  | .scratch d _ => stopOfBed d.bed
  | .hbm b _ => stopOfBed b
  | _ => easelStop

/-- Bytes land in a scratchpad destination of a die. A die in reset discards them (R263), as a fenced one does. -/
def State.landOn (s : State) (x : Xfer) (seq : Nat) (d : DieId) (addrs : List Nat) (bs : List Byte) : State :=
  let gone := s.fenced (.c d)
  if (s.die (.c d)).resetting && !gone then
    ((s.discard 1).modPiece x.id seq fun p => { p with st := .failed .error, data := [] }).afterPiece x.id
  else
  let s := if gone then s.discard 1 else s.landPad d addrs bs
  let s := s.modPiece x.id seq fun p => { p with left := p.left.filter fun e => e ≠ d }
  match (s.xfer? x.id).bind fun y => y.piece? seq with
  | some p =>
    let s := if p.left.isEmpty then s.modPiece x.id seq fun p => { p with st := .landed, data := [] } else s
    let s := if gone && x.kind == .move then
        s.modXfer x.id fun y => if y.fault.isSome then y else { y with fault := some .dieFenced } else s
    (s.clearLanded x d addrs).afterPiece x.id
  | none => s

/-- A member of a multicast whose last byte has landed acknowledges it (R260). -/
def State.memberAcks (s : State) (i : Nat) (ds : List DieId) : State :=
  match s.xfer? i with
  | none => s
  | some x =>
    if x.next ≠ x.total then s
    else ds.foldl (fun s d =>
      if x.pieces.any (fun p => decide (d ∈ p.left)) || d ∈ x.delivered || d ∉ x.members ||
          s.fabric.vc4.any (fun v => v == .member i x.ctx d) then s
      else s.modFabric fun f => { f with vc4 := f.vc4 ++ [.member i x.ctx d] }) s

/-- The members of a bed die receive a tile (R259, R261). -/
def State.deliverMembers (s : State) (x : Xfer) (seq : Nat) (b : BedId) (members : List DieId) (addrs : List Nat) (bs : List Byte) : State :=
  let here := members.filter fun d => d.bed == b
  let s := here.foldl (fun s d => s.landOn x seq d addrs bs) s
  s.memberAcks x.id here

/-- The stops of the other bed dies that hold members. -/
def castStops (root : Fin 5) (members : List DieId) : List (Fin 5) :=
  (allBeds.map stopOfBed).filter fun t => t ≠ root && members.any fun d => stopOfBed d.bed == t

/-- A tile of a multicast leaves its root along its tree (R259). -/
def State.castTile (s : State) (x : Xfer) (p : Piece) (root : Fin 5) (members : List DieId) (addrs : List Nat) (bs : List Byte) : State :=
  let s := s.scatter (x.packet p members bs) root (castStops root members) false
  match allBeds.find? fun b => stopOfBed b = root with
  | some b => s.deliverMembers x p.seq b members addrs bs
  | none => s

/-- The top tag record of a lane as a pop finds it: the pop goes on, or ends with STASH_MISMATCH (R141). -/
def State.popTag (s : State) (x : Xfer) (bs : List Byte) : State :=
  match s.opOf x with
  | none => s
  | some u =>
    match u.desc.op with
    | .stashPop p =>
      if fieldAt bs 0 4 = p.layer.toNat && fieldAt bs 4 4 = p.size then
        let s := s.modXfer x.id fun y => if p.discard then { y with next := y.len } else y
        s.pieceLanded x.id 0
      else
        (s.failOp x.core u (u.info x.core .stashMismatch 0x10 0)
          [record 64 [(0, 1, 5), (4, 4, p.layer.toNat), (8, 4, p.size), (12, 4, fieldAt bs 0 4), (16, 4, fieldAt bs 4 4)]]).dropXfer x.id
    | _ => s

/-- A piece whose data has arrived at its destination's bed die: it lands, or it stands at its controller, or it is posted. -/
def State.arrive (s : State) (x : Xfer) (seq : Nat) (bs : List Byte) : State :=
  match x.piece? seq with
  | none => s
  | some p =>
    match p.dst with
    | .scratch d addrs => if x.kind = .pop ∧ seq = 0 then s.popTag x bs else s.landOn x seq d addrs bs
    | .hbm _ _ => s.modPiece x.id seq fun p => { p with st := .writing, data := bs }
    | .far a ns at_ pasid =>
      let s := (s.send (.farWrite x.ctx pasid a bs ns at_)).modPiece x.id seq fun p => { p with st := .posted, data := [] }
      (s.modXfer x.id fun x => { x with sinceFlush := x.sinceFlush + 1 }).afterPiece x.id
    | .host f pasid a => (s.send (.hostWrite f pasid a bs true)).pieceLanded x.id seq
    | .front => s

/-- Data on its way from a stop to its destination: directly on the same bed die, else as a packet (R240). Where its flow's buffer at
the stop is full, the engine holds the tile (R250). -/
def State.ship (s : State) (x : Xfer) (seq : Nat) (src : Fin 5) (bs : List Byte) : State :=
  match x.piece? seq with
  | none => s
  | some p =>
    let held := fun (s : State) => s.modPiece x.id seq fun p => { p with st := .waitStop, data := bs }
    match x.kind, p.dst with
    | .mcast, .scratch _ addrs =>
      if s.stopFull x src (castStops src p.left) then held s
      else (s.modPiece x.id seq fun p => { p with st := .moving, data := [] }).castTile x p src p.left addrs bs
    | _, _ =>
      if src = p.dst.stop then s.arrive x seq bs
      else if s.stopFull x src [p.dst.stop] then held s
      else (s.modPiece x.id seq fun p => { p with st := .moving, data := [] }).scatter (x.packet p [] bs) src [p.dst.stop] false

/-- Data in its engine, or leaving its source: a write to HBM takes its tag first (R206, R214). -/
def State.toDest (s : State) (x : Xfer) (seq : Nat) (bs : List Byte) (first : Bool) : State :=
  match x.piece? seq with
  | none => s
  | some p =>
    match p.dst with
    | .hbm b o =>
      let (s, ok) := s.tryTag x seq b o true first
      if ok then s.ship x seq p.src.stop bs
      else s.modPiece x.id seq fun p => { p with st := .waitWrite, data := bs, issuedNs := s.timeNs }
    | _ => s.ship x seq p.src.stop bs

/-! ## Issue -/

def Place.isFar : Place → Bool
  | .far .. => true
  | _ => false

/-- Tiles of the far tier in flight (R227). -/
def State.farInFlight (s : State) : Nat :=
  (s.fabric.xfers.flatMap fun x => x.pieces.filter fun p => p.st == .farRead && p.src.isFar || p.st == .posted).length

/-- The largest read request of the link (R227): 128 to 4,096 bytes. -/
def maxRead : Nat := 128 * 2 ^ (Config.maxReadCode % 6)

/-- The read requests of `n` bytes from an address on: none crosses a multiple of the largest request (R227). -/
def readRequests (addr n : Nat) : Nat → List (Nat × Nat)
  | 0 => []
  | fuel + 1 => if n = 0 then [] else
    let k := min n (maxRead - addr % maxRead)
    (addr, k) :: readRequests (addr + k) (n - k) fuel

/-- The read requests of a piece leave over PCIe; a far-tier tile may wait for a place first (R227, R237). -/
def State.readFar (s : State) (x : Xfer) (seq : Nat) (src : Place) (len : Nat) : State :=
  let go := fun (s : State) (m : Nat → Nat → OutMsg) (a : Nat) =>
    ((readRequests a len (len + 1)).foldl (fun s r => s.send (m r.1 r.2)) s).modPiece x.id seq fun p =>
      { p with st := .farRead, data := [], issuedNs := s.timeNs, limitNs := s.hbm.farTimeoutMs * 1000000 }
  match src with
  | .far a ns at_ pasid =>
    if s.farInFlight < 1024 then go s (fun a n => .farRead x.ctx pasid a n ns at_) a
    else s.modPiece x.id seq fun p => { p with st := .waitFar }
  | .host f pasid a => go s (fun a n => .hostRead f pasid a n) a
  | _ => s

/-- A piece starts at its source. -/
def State.startPiece (s : State) (i seq : Nat) (engine : Option (List Byte)) : State :=
  match s.xfer? i with
  | none => s
  | some x =>
    match x.piece? seq with
    | none => s
    | some p =>
      match engine, p.src with
      | some bs, _ => s.toDest x seq bs true
      | none, .scratch d as => s.toDest x seq (padTo p.len (as.map fun a => sget 0 (s.slice d).mem a)) true
      | none, .hbm b o =>
        let (s, ok) := s.tryTag x seq b o false true
        s.modPiece i seq fun p => { p with st := if ok then .reading else .waitRead }
      | none, src => s.readFar x seq src p.len

/-- A place for an end of a piece, or the page fault that it meets. -/
def State.placeEnd (s : State) (n : CtxId) (e : EndAt) : Except (Nat × Access × Reason) Place :=
  match e with
  | .pad d as => .ok (.scratch d as)
  | .data d _ => .ok (.scratch d [])
  | .front _ => .ok .front
  | .host a => .ok (.host (s.funcOf n) (s.pasidOf n) a)
  | .pcie a => .ok (.far a false false (s.pasidOf n))
  | .virt v a =>
    match s.xlate n v a with
    | .error r => .error (v, a, r)
    | .ok (.hbm b o) => .ok (.hbm ⟨b % 4, by omega⟩ o)
    | .ok (.far t ns at_) => .ok (.far t ns at_ (s.pasidOf n))

/-- The translation cache looks up both ends of a piece; the place of a table line that cannot be read (R223). -/
def State.lookUpEnds (s : State) (b : BedId) (n : CtxId) (src dst : EndAt) : State × Option (Nat × Nat) :=
  [src, dst].foldl (fun (a : State × Option (Nat × Nat)) e => match a.2, e with
    | none, .virt v _ => a.1.lookUp b n v
    | _, _ => a) (s, none)

/-- The bed that holds the device region (R219); its translation unit serves the commands. -/
def State.regionBed (s : State) : BedId := ⟨s.hbm.devBase * 2 ^ 21 / 2 ^ 38 % 4, by omega⟩

/-- The index of the first tile not yet complete, for the window of R216; a posted far-tier tile holds no place, or no flush of R229
would come. -/
def Xfer.oldest (x : Xfer) : Nat :=
  match x.pieces.find? fun p => !p.complete && p.st != .posted with
  | some p => p.off / 4096
  | none => x.next / 4096

/-- A piece at `x.next` joins its transfer and starts; a tile that an adder has accepted before is not sent again (R180, R216). -/
def State.addPiece (s : State) (accept : List Nat) (x : Xfer) (n : Nat) (src : EndAt) (a b : Place) : State :=
  let left := match x.kind, b with
    | .mcast, _ => x.members
    | _, .scratch d _ => [d]
    | _, _ => []
  let p : Piece := { seq := x.nextSeq, off := x.next, len := n, src := a, dst := b, st := .waitRead, data := [], left := left,
                     issuedNs := s.timeNs, limitNs := 0 }
  let adv := if x.kind = .pop ∧ x.nextSeq = 0 then 0 else n
  let skip := match x.kind with
    | .atomic _ _ _ _ => decide (x.next ∈ accept)
    | _ => false
  if skip && x.pieces.any (fun q => q.off == x.next) then (s.modXfer x.id fun x => { x with next := x.next + adv }).afterPiece x.id
  else
    let s := s.modXfer x.id fun x => { x with next := x.next + adv, nextSeq := x.nextSeq + 1, pieces := x.pieces ++ [p] }
    if skip then s.pieceLanded x.id x.nextSeq
    else s.startPiece x.id x.nextSeq (match src with
      | .data _ bs | .front bs => some bs
      | _ => none)

/-- The next piece is translated and started; none where nothing further can be issued now (R206, R216, R223, R224). `who` is the
operation whose transfer it is; none for a command's. -/
def State.issuePiece (s : State) (who : Option (CoreId × Cur)) (x : Xfer) : Option State :=
  let popWaits := x.kind == .pop && x.nextSeq != 0 && x.pieces.any fun p => p.seq == 0 && !p.done
  if x.stop || x.fault.isSome || x.total ≤ x.next || x.oldest + 128 < x.next / 4096 || popWaits then none
  else
    let n := s.cut x
    match s.endsOf x x.next n with
    | none => none
    | some (src, dst) =>
      let bed := (who.map fun w => w.1.bed).getD s.regionBed
      match s.lookUpEnds bed x.ctx src dst with
      | (s, some (b, o)) =>
        some ((s.modXfer x.id fun x => { x with fault := some .uncorrectableData, faultAddr := b * 2 ^ 38 + o }).afterPiece x.id)
      | (s, none) =>
        match s.placeEnd x.ctx src, s.placeEnd x.ctx dst with
        | .ok a, .ok b =>
          let hit := match who, src with
            | some (c, u), .pad _ as => (s.wetHit c u.q u.run.op (s.core c).cyc (linesOf as)).map fun m => (c, u, m)
            | _, _ => none
          match hit with
          | some (c, u, m) => some (s.hazard c { u with run := { u.run with doneBytes := x.doneAt } } (s.core c).cyc m)
          | none => some (s.addPiece ((who.map fun w => w.2.run.accept).getD []) x n src a b)
        | .error (v, a, r), _ | .ok _, .error (v, a, r) =>
          some ((s.modXfer x.id fun x => { x with fault := some .pageFault, faultAddr := v, faultWhy := (a.code, r.code) }).afterPiece x.id)

/-- Whether a transfer stands at a multiple of 4 MiB while a higher queue is eligible: the dispatch point of R154. -/
def State.atQuarter (s : State) (c : CoreId) (u : Cur) (x : Xfer) : Bool :=
  decide (0 < x.next) && x.next % 2 ^ 22 == 0 && (((s.core c).pick u.x c).map fun q => decide (u.q.val < q.val)).getD false

/-- Pieces issued while the engine can issue them. -/
def State.pump (s : State) (c : CoreId) (q : QueueId) : Nat → State
  | 0 => s
  | n + 1 =>
    match s.headOf c q with
    | none => s
    | some u =>
      let blocked := u.run.suspended || u.run.outcome.isSome || u.exec.stopSt.isSome || (s.core c).stopping || s.dbg.debugMode ||
        (match ((s.core c).queue q).wait with
         | .wet _ | .held _ => true
         | _ => false)
      if blocked then s
      else match u.run.xfer.bind fun i => s.xfer? i with
        | none => s
        | some x =>
          if s.atQuarter c u x then s
          else match s.issuePiece (some (c, u)) x with
            | none => s
            | some s' => s'.pump c q n

/-- Pieces of a command's transfer issued while they can be. -/
def State.pumpCmd (s : State) (i : Nat) : Nat → State
  | 0 => s
  | n + 1 =>
    match s.xfer? i with
    | none => s
    | some x => match s.issuePiece none x with
      | none => s
      | some s' => s'.pumpCmd i n

/-- The engine of a transfer goes on after one of its pieces has settled. -/
def State.pumpXfer (s : State) (i : Nat) : State :=
  match s.xfer? i with
  | some x => if x.cmd?.isSome then s.pumpCmd i 256 else if s.running = some x.ctx then s.pump x.core x.queue 256 else s
  | none => s

/-- A new transfer of `len` bytes from `start` on. -/
def State.newXfer (s : State) (ctx : CtxId) (kind : XferKind) (fmt : Fmt) (flow : Option Nat) (len start : Nat) : Xfer :=
  { id := s.fabric.nextId, ctx := ctx, core := 0, queue := 0, op := 0, opTag := 0, kind := kind, fmt := fmt, flow := flow, len := len, next := start,
    nextSeq := if start = 0 then 0 else 1, pieces := [], members := [], delivered := [], flushed := start, flushing := [], sinceFlush := 0,
    stop := false, ended := false, fault := none, faultAddr := 0, faultWhy := (0, 0), acked := [], got := [] }
def State.addXfer (s : State) (x : Xfer) : State := s.modFabric fun f => { f with nextId := x.id + 1, xfers := f.xfers ++ [x] }

/-- The mark that a transfer's destination lines meet at its issue (R176). -/
def State.destHit (s : State) (c : CoreId) (u : Cur) (dests : List (DieId × List Nat)) : Option WetMark :=
  dests.findSome? fun d => (s.slice d.1).wet.find? fun m => decide (m.line ∈ d.2) && !m.own c u.q u.run.op && s.markHits c (s.core c).cyc m

/-- A transfer begins: its destination lines are checked and marked, and its first tiles are issued (R175, R176, R206). -/
def State.openXfer (s : State) (c : CoreId) (u : Cur) (kind : XferKind) (fmt : Fmt) (flow : Option Nat) (len start : Nat)
    (members : List DieId) (dests : List (DieId × List Nat)) : State :=
  match s.destHit c u dests with
  | some m => s.hazard c u (s.core c).cyc m
  | none =>
    let s := dests.foldl (fun s d => s.markWet d.1 c u.q u.run.op u.desc.opTag (s.core c).cyc (d.2.map fun l => (l, none))) s
    let x : Xfer := { s.newXfer u.ctx kind fmt flow len start with
      core := c, queue := u.q, op := u.run.op, opTag := u.desc.opTag, members := members, delivered := u.run.acks }
    ((s.addXfer x).setRun c u.q { u.run with xfer := some x.id }).pump c u.q 256

/-- A command's transfer begins (R206, R364). -/
def State.openCmd (s : State) (ctx : CtxId) (kind : XferKind) (len : Nat) : State :=
  let x := s.newXfer ctx kind .fp32 none len 0
  (s.addXfer x).pumpCmd x.id 256

/-- The first page of an EVICT's range at or above an address that HBM still holds (R234). -/
def Ctx.evictNext (x : Ctx) (p : EvictP) (v : Nat) : Option Page :=
  x.pages.find? fun q => !q.far && v ≤ q.vaddr && p.vaddr ≤ q.vaddr && q.vaddr < p.vaddr + p.length

/-- An EVICT goes on with its next page, or completes (R234). -/
def State.evictFrom (s : State) (h : CmdHdr) (n : CtxId) (p : EvictP) (v done moved : Nat) : State :=
  match (s.ctxD n).evictNext p v with
  | none => s.complete h .done done
  | some q => s.openCmd n (.evict h p q.vaddr done moved) q.size

/-- A command's transfer is over: COPY and FILL complete; the page of an EVICT is mapped to the far tier, and its next page follows
(R234, R364). -/
def State.finishCmd (s : State) (h : CmdHdr) (x : Xfer) : State :=
  let s := s.dropXfer x.id
  match x.kind with
  | .evict _ p page done moved =>
    let remap := fun (q : Page) => if q.vaddr = page then { q with far := true, ns := false, at_ := false, target := p.target + (page - p.vaddr) } else q
    let s := (s.modCtx x.ctx fun y => { y with pages := y.pages.map remap }).dropEntries x.ctx fun v => v == page
    s.evictFrom h x.ctx p (page + x.len) (done + 1) (moved + x.len)
  | _ => s.complete h .done x.len

/-- The commands' transfers of a context end with them (R363). -/
def State.dropCmds (s : State) (n : CtxId) : State :=
  let ids := (s.fabric.xfers.filter fun x => x.ctx == n && x.cmd?.isSome).map fun x => x.id
  let s := s.modFabric fun f => { f with xfers := f.xfers.filter fun x => x.id ∉ ids, pkts := f.pkts.filter fun p => p.xfer ∉ ids }
  { s with beds := s.beds.map fun b => { b with tags := b.tags.filter fun t => t.xfer ∉ ids } }

end Sys2Proof.Machine
end

