-- ==== Sys2Proof/Machine/Transfers.lean ====
section
/-! DEFINITION. Meanings: MOVE, MCAST, ATOMIC_ADD, STASH_PUSH and STASH_POP, and the events of their tiles (R105 to R109, R136 to
R145, R170, R206 to R230, R239 to R261). -/

namespace Sys2Proof.Machine

open Sys2Proof

/-! ## The operations -/

/-- A transfer operation in hand: it goes on where its transfer is open, else `begin_` opens it. -/
def State.runTransfer (s : State) (c : CoreId) (op : AkiOp) (begin_ : Cur → State) : State :=
  match s.currentIs c op with
  | none => s
  | some u =>
    if u.run.endAt.isSome then s
    else match u.run.xfer with
      | some _ => s.pump c u.q 256
      | none => begin_ u

/-- A MOVE opens its transfer; a fenced destination die ends it (R170). -/
def execMove (c : CoreId) (p : MoveP) (s : State) : Host.Outcome State Fault Refusal :=
  .next (s.runTransfer c (.move p) fun u =>
    if p.dstRemote && s.fenced (.c p.dstDie) then s.failOp c u (u.info c .dieFenced 0x10 0) []
    else
      let d := if p.dstRemote then p.dstDie else c.die
      let start := u.run.doneBytes
      let dests := match p.dst with
        | some r => if p.dstVirt then [] else [(d, linesOf (walkBytes r start (p.len - start)))]
        | none => []
      s.openXfer c u .move .fp32 p.flow p.len start [] dests)

/-- The members of a mask that are not fenced and have not acknowledged (R261, R386). -/
def State.castMembers (s : State) (mask : Nat) (acks : List DieId) : List DieId :=
  allDies.filter fun d => bit mask d.val && !s.fenced (.c d) && !decide (d ∈ acks)

/-- The mask of a list of dies. -/
def dieMask (ds : List DieId) : Nat := (ds.map fun d => 2 ^ d.val).sum

/-- The delivery record of a multicast that was cut short (R261). -/
def State.recordDelivery (s : State) (c : CoreId) (tag : Word32) (delivered : List DieId) : State :=
  s.modDie (.c c.die) fun d => { d with mcastMask := dieMask delivered, mcastTag := tag }

/-- An MCAST opens its transfer to the members of its mask; with none left it completes at its issue (R259 to R262). -/
def execMcast (c : CoreId) (p : McastP) (s : State) : Host.Outcome State Fault Refusal :=
  .next (s.runTransfer c (.mcast p) fun u =>
    let ms := s.castMembers p.mask u.run.acks
    if ms.isEmpty then
      let s := if (allDies.any fun d => bit p.mask d.val && s.fenced (.c d)) then s.recordDelivery c u.desc.opTag u.run.acks else s
      s.endOp c u.q u.run.issued
    else
      let start := u.run.doneBytes
      let lines := linesOf (walkBytes p.dst start (p.len - start))
      s.openXfer c u .mcast .fp32 p.flow p.len start ms (ms.map fun d => (d, lines)))

/-- An ATOMIC_ADD opens its transfer (R105). -/
def execAtomicAdd (c : CoreId) (p : AtomicP) (s : State) : Host.Outcome State Fault Refusal :=
  .next (s.runTransfer c (.atomicAdd p) fun u =>
    s.openXfer c u (.atomic p.ordered p.group p.n p.idx) p.src.fmt p.flow p.len u.run.doneBytes [] [])

/-- A push or a pop that is resumed after a stop empties the mirror of its lane (R146). -/
def State.unmirror (s : State) (c : CoreId) (u : Cur) : State × Cur :=
  if u.run.resumed then
    let x := u.x.setLane c { u.x.lane c with mirror := [] }
    (s.putCtx u.ctx x, { u with x := x })
  else (s, u)

/-- A STASH_PUSH opens its transfer, or ends with STASH_OVERFLOW (R140). -/
def execStashPush (c : CoreId) (p : PushP) (s : State) : Host.Outcome State Fault Refusal :=
  .next (s.runTransfer c (.stashPush p) fun u =>
    let (s, u) := s.unmirror c u
    let l := u.x.lane c
    if u.x.laneSize c < l.pay + padded p.size + 64 * (l.tags + 1) then s.failOp c u (u.info c .stashOverflow 0x10 0) []
    else s.openXfer c u .push .fp32 none p.size u.run.doneBytes [] [])

/-- A pop whose tag differs from the top record of its lane, or finds none: STASH_MISMATCH (R141). -/
def State.stashMismatch (s : State) (c : CoreId) (u : Cur) (p : PopP) (layer size : Nat) : State :=
  s.failOp c u (u.info c .stashMismatch 0x10 0)
    [record 64 [(0, 1, 5), (4, 4, p.layer.toNat), (8, 4, p.size), (12, 4, layer), (16, 4, size)]]

/-- C-cycles that `n` F-cycles take, rounded up: the clocks stand 9 to 7 (R60). -/
def cyclesOfF (n : Nat) : Nat := ceilDiv (n * 9) 7

/-- A pop of the entry that the mirror holds: its bytes come from the mirror, 40 + ⌈b / 2,048⌉ F-cycles after its issue (R144, R145).
A discard pop reads none. -/
def State.popMirror (s : State) (c : CoreId) (u : Cur) (p : PopP) (m : Mirrored) (dests : List (DieId × List Nat)) : State :=
  if m.layer ≠ p.layer.toNat ∨ m.size ≠ p.size then s.stashMismatch c u p m.layer m.size
  else match s.destHit c u dests with
    | some w => s.hazard c u (s.core c).cyc w
    | none =>
      let n := if p.discard then 0 else p.size
      let t := u.run.issued + cyclesOfF (40 + ceilDiv n 2048)
      let s := dests.foldl (fun s d => s.markWet d.1 c u.q u.run.op u.desc.opTag (s.core c).cyc (d.2.map fun l => (l, some t))) s
      let s := match p.dst with
        | some r => if p.discard then s else
            s.landPad c.die (walkBytes r 0 n) ((mirrorAddrs m.base m.pos n).map fun a => sget 0 (s.slice c.die).mem a)
        | none => s
      (((s.applyLane u c).stallTo c 13 t).modQueue c u.q fun q => { q with run := q.run.map fun r => { r with doneBytes := p.size } }).endOp c u.q t

/-- A STASH_POP: an empty lane ends it with STASH_MISMATCH; an entry in the mirror comes from there; any other pop opens its transfer
with the read of the top tag record (R141, R144). -/
def execStashPop (c : CoreId) (p : PopP) (s : State) : Host.Outcome State Fault Refusal :=
  .next (s.runTransfer c (.stashPop p) fun u =>
    let (s, u) := s.unmirror c u
    let l := u.x.lane c
    let start := u.run.doneBytes
    let dests := match p.dst with
      | some r => if p.discard then [] else [(c.die, linesOf (walkBytes r start (p.size - start)))]
      | none => []
    if l.tags = 0 then s.stashMismatch c u p 0xFFFFFFFF 0xFFFFFFFF
    else match l.mirrored (u.exec.mirrorAt c) with
      | some m => s.popMirror c u p m dests
      | none => s.openXfer c u .pop .fp32 none p.size start [] dests)

/-! ## Tags -/

/-- The first of a list that has waited longest. -/
def oldestWaiter : List (Xfer × Piece × Nat) → Option (Xfer × Piece × Nat)
  | [] => none
  | a :: l => match oldestWaiter l with
    | some b => if b.2.1.issuedNs < a.2.1.issuedNs then some b else some a
    | none => some a

/-- Those that a shared tag of a bed can go to: the cores' tiles and the others' (R214). -/
def State.sharedWaiters (s : State) (b : BedId) (cores : Bool) : List (Xfer × Piece × Nat) :=
  (s.tagWaiters b).filter fun w => s.offerTo b w.1 w.2.2 == some false && w.1.owner.isSome == cores

/-- The tiles that a tag of a bed can go to now: where cores and others both wait for shared tags, those whose turn it is (R214). -/
def State.tagTurn (s : State) (b : BedId) : List (Xfer × Piece × Nat) :=
  let both := !(s.sharedWaiters b true).isEmpty && !(s.sharedWaiters b false).isEmpty
  (s.tagWaiters b).filter fun w => match s.offerTo b w.1 w.2.2 with
    | none => false
    | some true => true
    | some false => !both || w.1.owner.isSome != (s.bed b).lastCore

/-- A shared tag granted while both sides wait passes the turn on (R214). -/
def State.noteTurn (s : State) (b : BedId) (x : Xfer) (o : Nat) : State :=
  let both := !(s.sharedWaiters b true).isEmpty && !(s.sharedWaiters b false).isEmpty
  if both && s.offerTo b x o == some false then s.modBed b fun k => { k with lastCore := x.owner.isSome } else s

/-- The tile that has waited longest among those that a tag can go to takes it and proceeds (R214 to R216). -/
def execTagGrant (b : BedId) (s : State) : Host.Outcome State Fault Refusal :=
  .next (if !s.clocked then s else
  match oldestWaiter (s.tagTurn b) with
  | none => s
  | some (x, p, o) =>
    let s := (s.waitedFor x).noteTurn b x o
    let (s, ok) := s.tryTag x p.seq b o (p.st == .waitWrite) false
    if !ok then s
    else if p.st = .waitRead then s.modPiece x.id p.seq fun p => { p with st := .reading }
    else (s.ship x p.seq p.src.stop p.data).pumpXfer x.id)

/-- Whether the piece of a tag stands at its controller. -/
def State.atController (s : State) (t : Tag) : Bool :=
  match s.xfer? t.xfer with
  | none => true
  | some x => match x.piece? t.seq with
    | none => true
    | some p => if t.wr then p.st == .writing && (match x.kind with
        | .atomic _ _ _ _ => false
        | _ => true) else p.st == .reading

/-- Whether the write of a transfer covers the code group of a place (R429). -/
def State.covers (s : State) (x : Xfer) (b o : Nat) : Bool :=
  match s.endsOf x 0 1 with
  | some (_, .virt v _) => s.coversGroup x.ctx v (match x.kind with
    | .push => padded x.len
    | _ => x.len) b o
  | _ => false

/-- The run of a piece that cannot be read or written, as a fault names it: 2^38 × bed + offset. -/
def State.badPlace (s : State) (b o n : Nat) : Nat :=
  match (hbmSpan s.hbm.dwi b o n).find? fun r => !s.hbmReadable r.1 r.2.1 with
  | some r => r.1 * 2 ^ 38 + r.2.1
  | none => b * 2 ^ 38 + o

/-- A read of a piece: an EVICT leaves the ages of its frames as they are (R232). -/
def State.pieceRead (s : State) (x : Xfer) (b o n : Nat) : Option (List Byte) × State :=
  let (bs, t) := s.spanRead b o n
  match x.kind with
  | .evict .. => (bs, t.modHbm fun h => { h with touched := s.hbm.touched })
  | _ => (bs, t)

/-- A controller finishes the access of a tag: read data leaves, or the data is written; the tag is freed (R213, R217). -/
def State.finishAccess (s : State) (b : BedId) (t : Tag) : State :=
  let s := s.modBed b fun k => k.free t.xfer t.seq t.wr s.timeNs
  match s.xfer? t.xfer with
  | none => s
  | some x => match x.piece? t.seq with
    | none => s
    | some p =>
      if t.wr then
        match p.dst with
        | .hbm k o =>
          match s.spanWrite k.val o p.data (s.covers x) with
          | some s => (s.pieceLanded x.id p.seq).pumpXfer x.id
          | none => s.pieceFailed x.id p.seq .uncorrectableData (s.badPlace k.val o p.len) (0, 0)
        | _ => s
      else
        match p.src with
        | .hbm k o =>
          match s.pieceRead x k.val o p.len with
          | (some bs, s) => (s.toDest x p.seq bs true).pumpXfer x.id
          | (none, s) => s.pieceFailed x.id p.seq .uncorrectableData (s.badPlace k.val o p.len) (0, 0)
        | _ => s

/-- The place in HBM that a tag's access is for. -/
def State.tagPlace (s : State) (t : Tag) : Option (Nat × Nat) :=
  (s.xfer? t.xfer).bind fun x => (x.piece? t.seq).bind fun p => match (if t.wr then p.dst else p.src) with
    | .hbm k o => some (k.val, o)
    | _ => none

/-! ## The far tier -/

/-- Free places among the far-tier tiles go to the tiles that wait for one (R227). -/
def State.nextFar (s : State) : State :=
  let ws := s.fabric.xfers.flatMap fun x => x.pieces.filterMap fun p => if p.st = .waitFar then some (x, p) else none
  ws.foldl (fun s w => s.readFar w.1 w.2.seq w.2.src w.2.len) s

/-- A read tile of the far tier or of the host fails (R228, R230). -/
def State.failFar (s : State) (i seq : Nat) (f : FarFail) : State :=
  match s.xfer? i with
  | none => s
  | some x => match x.piece? seq with
    | none => s
    | some p =>
      if p.st = .farRead then
        let s := s.modHbm fun h => { h with farErr := true }
        (s.pieceFailed i seq f.status (s.addrOf x p.off false) (farWhy false f)).nextFar
      else s

/-- An error completion, poison or an IDE failure for a far-tier read tile (R228). -/
def execFarTierTileFail (i seq : Nat) (s : State) : Host.Outcome State Fault Refusal :=
  .next (if s.clocked then s.failFar i seq .error else s)

/-- A far-tier read tile has not completed within its time-out (R228). -/
def execFarTierTimeout (i seq : Nat) (s : State) : Host.Outcome State Fault Refusal :=
  .next (if !s.clocked then s else
  match (s.xfer? i).bind fun x => (x.piece? seq).map fun p => (x, p) with
  | some (_, p) =>
    if p.st = .farRead then ({ s with timeNs := max s.timeNs (p.issuedNs + p.limitNs) }).failFar i seq .timeout else s
  | none => s)

/-- Data of a far-tier read arrives; a tile that is whole goes to its destination (R227, R228). Without the IDE stream that a
context requires it fails (R412). -/
def execPcieReadCompletion (i seq : Nat) (bytes : List Byte) (s : State) : Host.Outcome State Fault Refusal :=
  .next (if !s.clocked then s else
  match (s.xfer? i).bind fun x => (x.piece? seq).map fun p => (x, p) with
  | some (x, p) =>
    let refused := match p.src with
      | .far a _ _ _ | .host _ _ a => (s.ctxD x.ctx).ideRequired && !s.ideCovers a
      | _ => false
    if p.st = .farRead && refused then s.failFar i seq .error
    else if p.st = .farRead then
      let d := (p.data ++ bytes).take p.len
      if d.length < p.len then s.modPiece i seq fun p => { p with data := d }
      else ((s.modPiece i seq fun p => { p with st := .moving }).toDest x seq d true).nextFar.pumpXfer i
    else s
  | none => s)

/-- The flush of a far-tier write returns: what it covers is complete, or the transfer fails (R229, R230). -/
def execFarFlushReturn (i : Nat) (res : Option FarFail) (s : State) : Host.Outcome State Fault Refusal :=
  .next (if !s.clocked then s else
  match s.xfer? i with
  | none => s
  | some x =>
    match x.flushing with
    | [] => s
    | upTo :: rest =>
      let covered := fun (p : Piece) => if p.st = .posted && decide (p.off < upTo) then { p with st := .landed, data := [] } else p
      let lost := fun (p : Piece) => if p.st = .posted then { p with st := .failed .error, data := [] } else p
      match res with
      | none =>
        let s := s.modXfer i fun x => { x with flushing := rest, flushed := max x.flushed upTo, pieces := x.pieces.map covered }
        ((s.afterPiece i).nextFar).pumpXfer i
      | some f =>
        let s := s.modHbm fun h => { h with farErr := true }
        let addr := s.addrOf x x.flushed true
        let seq := ((x.pieces.find? fun p => p.st == .posted).map fun p => p.seq).getD 0
        let s := s.modXfer i fun x => { x.failAt seq f.status addr (farWhy true f) with flushing := [], pieces := x.pieces.map lost }
        (s.afterPiece i).nextFar)

/-! ## Packets -/

def State.modLink (s : State) (l : LinkId) (f : Link → Link) : State :=
  s.modFabric fun b => { b with links := vmod b.links l f }

/-- The packet of a gradient chain comes to the bed of its next position (R278); none for any other packet. -/
def State.chainLands (s : State) (p : Pkt) : Option State :=
  let g := (s.ctxD p.ctx).grad
  let land := fun (k : Chain) => if k.pkt = some p.id then { k with pkt := none } else k
  if g.chains.any fun k => k.pkt == some p.id then
    some (s.modCtx p.ctx fun x => { x with grad := { x.grad with chains := x.grad.chains.map land } })
  else none

/-- A copy of a packet reaches the stop where it leaves the ring. That of a transfer which a die reset or a fence has ended, or for
members that have all been removed, is discarded (R261, R263). -/
def State.deliver (s : State) (p : Pkt) (stop : Fin 5) : State :=
  match s.xfer? p.xfer with
  | none => (s.chainLands p).getD (s.discard 1)
  | some x =>
    match x.kind with
    | .mcast =>
      match x.piece? p.seq with
      | none => s
      | some q => match q.dst with
        | .scratch _ addrs => if h : stop.val < 4 then
            (if p.members.any fun d => stopOfBed d.bed == stop then s else s.discard 1).deliverMembers x p.seq ⟨stop.val, h⟩ p.members addrs p.bytes
          else s
        | _ => s
    | _ => if stop = p.dst then s.arrive x p.seq p.bytes else s

/-- The virtual channel of a packet once it has crossed a link: past its ring's date line VC0 and VC2 become VC1 and VC3 (R244). -/
def vcAfter (l : LinkId) (vc : Fin 5) : Fin 5 := if dateLine l then (if vc = 0 then 1 else if vc = 2 then 3 else vc) else vc

/-- What waits for a link, or is on it, goes another way from the stop before it (R240, R241). -/
def State.abandonLink (s : State) (l : LinkId) : State :=
  let on := fun (p : Pkt) => match p.pos with
    | .queued k _ => k == l
    | .flying k => k == l
  let moved := s.fabric.pkts.filter on
  let s := s.modFabric fun f => { f with pkts := f.pkts.filter fun p => !on p }
  moved.foldl (fun s p => s.onward p (linkFrom l)) s

/-- A packet that has come to a stop: replicated there, delivered last, or sent on (R259). -/
def State.reach (s : State) (p : Pkt) (stop : Fin 5) : State :=
  let s := if stop ∈ p.drops then s.deliver p stop else s
  if stop = p.dst then s.deliver p stop else s.onward { p with drops := p.drops.filter fun d => d ≠ stop } stop

/-- A packet on a link reaches the next stop after `crcFails` failed tries: it is replicated, delivered or forwarded. Each failed try is
followed by a retry; after 16 failed retries the link is down and the packet goes another way (R239 to R241, R244, R259). -/
def execPacketArrival (pkt crcFails : Nat) (s : State) : Host.Outcome State Fault Refusal :=
  .next (if !s.clocked then s else
  match s.fabric.pkts.find? fun p => p.id == pkt with
  | none => s
  | some p =>
    match p.pos with
    | .queued _ _ => s
    | .flying l =>
      let retries := min 16 crcFails
      let s := s.modLink l fun k => { k with retry := satAt (2 ^ 32 - 1) (k.retry + retries), down := k.down || decide (17 ≤ crcFails) }
      let s := if retries = 0 then s else s.countB retries
      if 17 ≤ crcFails then s.abandonLink l
      else
        let s := s.modFabric fun f => { f with pkts := f.pkts.filter fun q => q.id != pkt }
        let stop := linkTo l
        let p := { p with vc := vcAfter l p.vc, hops := p.hops + 1 }
        (s.reach p stop).pumpXfer p.xfer)

/-- The virtual channel on which a packet crosses a link (R244, R251). -/
def Pkt.crossing (p : Pkt) (sched : Bool) : Fin 5 := ⟨((if sched then 0 else 2) + bitOf (p.vc.val % 2 == 1)) % 5, by omega⟩

/-- Whether two links belong to one ring. -/
def sameRing (a b : LinkId) : Bool := decide (a.val < 5) == decide (b.val < 5)

/-- Tiles in the VC2 or VC3 buffer of the stop that a link reaches: those on their way to it, and those that came to it on that channel
and have not left (R254). -/
def State.vcUse (s : State) (l : LinkId) (vc : Fin 5) : Nat :=
  (s.fabric.pkts.filter fun p => match p.pos with
    | .flying k => k == l && vcAfter k p.vc == vc
    | .queued k _ => linkFrom k == linkTo l && sameRing k l && decide (0 < p.hops) && p.vc == vc).length

/-- Whether the next stop has room for a packet (R250, R254). -/
def State.creditFor (s : State) (l : LinkId) (p : Pkt) (sched : Bool) : Bool :=
  if sched then linkTo l == p.dst || decide (s.flowUse (linkTo l) p.ctx p.flow < stopBuffer)
  else decide (s.vcUse l (vcAfter l (p.crossing false)) < stopBuffer)

/-- A packet starts on a link. -/
def State.launch (s : State) (l : LinkId) (p : Pkt) (sched : Bool) : State :=
  let up := fun n => satAt (2 ^ 32 - 1) (n + 1)
  let vc := p.crossing sched
  let s := s.modFabric fun f => { f with pkts := f.pkts.map fun q => if q.id = p.id then { q with pos := .flying l, vc := vc } else q }
  s.modLink l fun k =>
    if sched then { k with sched := up k.sched }
    else { k with unsched := up k.unsched, miss := if p.flow.isSome then up k.miss else k.miss }

/-- The packets of a flow that wait for a link, sent in their order while they fit in `room` bytes (R246, R250). -/
def State.sendFlow (s : State) (l : LinkId) (flow : Nat) : List Pkt → Nat → State
  | [], _ => s
  | p :: ps, room =>
    if p.bytes.length ≤ room && s.creditFor l p true then
      let s := match s.xfer? p.xfer with
        | some x => s.waitedFor x
        | none => s
      (s.launch l p true).sendFlow l flow ps (room - p.bytes.length)
    else s

/-- The head of an unscheduled queue of a link; a flow's packets wait with P4 traffic where the flow has lost its slots (R253). -/
def State.openHead (s : State) (l : LinkId) (k : Nat) : Option Pkt :=
  s.fabric.pkts.find? fun p => match p.pos with
    | .queued m j => m == l && (j.val == k || (k == 4 && j.val == 0 && !s.holdsSlot p.ctx p.flow l))
    | .flying _ => false

/-- Unscheduled packets sent in turn, one from each queue whose head has a credit and fits, then again (R254). -/
def State.sendOpen (s : State) (l : LinkId) : Nat → Nat → Nat → State
  | 0, _, _ => s
  | n + 1, q, room =>
    let able := fun (k : Nat) => match s.openHead l k with
      | some p => decide (p.bytes.length ≤ room) && s.creditFor l p false
      | none => false
    match ([q, q + 1, q + 2, q + 3].map fun k => (k - 1) % 4 + 1).find? able with
    | none => s
    | some k => match s.openHead l k with
      | some p => (s.launch l p false).sendOpen l n (k % 4 + 1) (room - p.bytes.length)
      | none => s

/-- Tiles that engines hold for a stop's buffer go on, in their order, while it has room (R250). -/
def State.releaseHeld (s : State) (stop : Fin 5) : State :=
  let ws := s.fabric.xfers.flatMap fun x => x.pieces.filterMap fun p => if p.st = .waitStop ∧ p.src.stop = stop then some (x.id, p) else none
  ws.foldl (fun s w => match s.xfer? w.1 with
    | some x => s.ship x w.2.seq stop w.2.data
    | none => s) s

/-- Bytes that a slot carries (R246). -/
def slotBytes : Nat := 73728

/-- The deepest unscheduled queue at the stops of a bed (R459). -/
def State.noteDepth (s : State) (l : LinkId) : State :=
  let depth := fun (q : Fin 5) => (s.fabric.pkts.filter fun p => p.pos == .queued l q).length
  let d := max (max (depth 1) (depth 2)) (max (depth 3) (depth 4))
  if h : (linkFrom l).val < 4 then
    s.modBed ⟨(linkFrom l).val, h⟩ fun b => { b with stats := { b.stats with unschedPeak := satAt 255 (max b.stats.unschedPeak d) } }
  else s

/-- A raster slot begins on a link: the packets of the flow that holds it are sent, or unscheduled ones (R246, R247, R250 to
R255). -/
def execRasterSlot (l : LinkId) (slot : Fin 64) (s : State) : Host.Outcome State Fault Refusal :=
  .next (if !s.clocked || !s.fabric.aligned || (s.fabric.links.get l).down then s
  else
    let s := s.noteDepth l
    let flow := if slot.val % 8 = 7 then none
      else (s.raster.find? fun e => bit (nthD 0 e.2 l.val) slot.val).map fun e => e.1
    match flow with
    | some f => (s.sendFlow l f (s.fabric.pkts.filter fun p => p.flow == some f && some p.ctx == s.running && (match p.pos with
        | .queued k q => k == l && q == 0
        | .flying _ => false)) slotBytes).releaseHeld (linkFrom l)
    | none => s.sendOpen l 64 1 slotBytes)

/-! ## Acknowledgements -/

/-- The acknowledgement of a destination reaches its issuer; with those of every destination the operation ends or completes, or the
command goes on (R257). -/
def execTransferCompletionAck (i : Nat) (s : State) : Host.Outcome State Fault Refusal :=
  .next (if !s.clocked then s else
  match s.fabric.vc4[i]? with
  | some (.ack k _ dest) =>
    let s := s.modFabric fun f => { f with vc4 := f.vc4.eraseIdx i }
    match s.xfer? k with
    | none => s
    | some x =>
      let got := x.got ++ [dest]
      if x.stations.all fun d => d ∈ got then match x.cmd? with
        | some h => s.finishCmd h x
        | none => s.finishXfer x
      else s.modXfer k fun y => { y with got := got }
  | _ => s)

/-- A member acknowledges a multicast and applies its member signal (R260, R261). -/
def execMcastMemberAck (i : Nat) (s : State) : Host.Outcome State Fault Refusal :=
  .next (if !s.clocked then s else
  match s.fabric.vc4[i]? with
  | some (.member k _ d) =>
    let s := s.modFabric fun f => { f with vc4 := f.vc4.eraseIdx i }
    match s.xfer? k with
    | none => s
    | some x =>
      if d ∉ x.members || s.fenced (.c d) then s
      else match s.opOf x with
        | none => s
        | some u => match u.desc.op with
          | .mcast p =>
            let s := s.applySignal x.ctx p.memCtr (coreOf d p.memCore) 1
            let s := s.modXfer k fun y => { y with delivered := y.delivered ++ [d] }
            let s := s.modQueue x.core u.q fun q => { q with run := q.run.map fun r => { r with acks := r.acks ++ [d] } }
            let got := x.delivered ++ [d]
            if x.members.all fun e => e ∈ got then
              let cut := (s.castMembers p.mask []).length < (allDies.filter fun e => bit p.mask e.val).length
              let s := if cut then s.recordDelivery x.core u.desc.opTag (u.run.acks ++ [d]) else s
              s.finishXfer { x with delivered := got }
            else s
          | _ => s
  | _ => s)

/-! ## The near-memory adders -/

/-- Element by element, RNE(t + c) in the target format under IEEE overflow (R105). -/
def adderSum (f : Fmt) : List Byte → List Byte → Nat → List Byte
  | _, _, 0 => []
  | ts, cs, n + 1 =>
    let b := max 1 f.bytes
    let v := (f.elem (leNat (ts.take b))).add (f.elem (leNat (cs.take b)))
    leBytes b (encodeTo f .rne true v) ++ adderSum f (ts.drop b) (cs.drop b) n

/-- One contribution applied to its target bytes; none where the target cannot be corrected (R105). -/
def State.adderApply (s : State) (b o : Nat) (f : Fmt) (cs : List Byte) : Option State :=
  match s.spanRead b o cs.length with
  | (some ts, s) => s.spanWrite b o (adderSum f ts cs (cs.length / max 1 f.bytes)) fun _ _ => false
  | (none, _) => none

def State.modAdder (s : State) (b : BedId) (k : Fin 3) (f : Adder → Adder) : State :=
  s.modBed b fun d => { d with adders := vmod d.adders k f }

def TileState.is (t : TileState) (c : CtxId) (g o : Nat) : Bool := t.ctx == c && t.group == g && t.tile == o
def HeldTile.is (t : HeldTile) (c : CtxId) (g o : Nat) : Bool := t.ctx == c && t.group == g && t.tile == o

/-- Groups that an adder has open (R107). -/
def Adder.groups (a : Adder) : List (CtxId × Nat) := (a.states.map fun t => (t.ctx, t.group)).dedup

/-- A piece of a contribution has been applied: it is complete (R107). -/
def State.applied (s : State) (i seq : Nat) : State := s.pieceLanded i seq

/-- The operation of a contribution whose target cannot be read ends, or its ended operation's program stops (R105). -/
def State.adderFail (s : State) (i seq addr : Nat) : State :=
  match s.xfer? i with
  | none => s
  | some x =>
    match s.opOf x with
    | some _ => s.pieceFailed i seq .uncorrectableData addr (0, 0)
    | none =>
      s.faultOp x.ctx { status := .uncorrectableData, cls := 4, struct_ := 0x05, ctx := x.ctx.val, die := 16 + field addr 38 2, core := x.core.val,
                        queue := x.queue.val, opTag := x.opTag.toNat, address := dpaOf s.hbm.dwi (field addr 38 2) (addr % 2 ^ 38) } [s.hbm.body (field addr 38 2) (addr % 2 ^ 38)]

/-- Held contributions applied while the next index due is held; the state closes after `n` (R107). -/
def State.drainHeld (s : State) (b : BedId) (k : Fin 3) (c : CtxId) (g o : Nat) : Nat → State
  | 0 => s
  | fuel + 1 =>
    let a := (s.bed b).adders.get k
    match a.states.find? fun t => t.is c g o with
    | none => s
    | some t =>
      if t.n ≤ t.next then s.modAdder b k fun a => { a with states := a.states.filter fun t => !t.is c g o }
      else match a.hold.find? fun h => h.is c g o && h.idx == t.next with
        | none => s
        | some h =>
          match s.adderApply b.val o h.fmt h.data with
          | none => s.adderFail h.xfer h.seq (s.badPlace b.val o h.data.length)
          | some s =>
            let s := s.modAdder b k fun a =>
              { states := a.states.map fun t => if t.is c g o then { t with next := t.next + 1 } else t,
                hold := a.hold.filter fun e => !(e.is c g o && e.idx == t.next) }
            (s.applied h.xfer h.seq).drainHeld b k c g o fuel

/-- An adder accepts a tile: its tag is freed and the acceptance record marks it; an ordered operation ends once every tile is
accepted (R107, R214, R216). -/
def State.accepted (s : State) (x : Xfer) (p : Piece) (b : BedId) : State :=
  let s := s.modBed b fun k => k.free x.id p.seq true s.timeNs
  match s.opOf x with
  | none => s
  | some u =>
    s.modQueue x.core u.q fun q => { q with run := q.run.map fun r => { r with accept := r.accept ++ [p.off] } }

/-- Whether every piece of an ordered transfer is accepted; then its operation ends. -/
def State.endIfAccepted (s : State) (i : Nat) : State :=
  match s.xfer? i with
  | none => s
  | some x =>
    match s.opOf x with
    | none => s
    | some u =>
      let all := x.next == x.total && x.pieces.all fun p => p.complete
      match x.kind with
      | .atomic true _ _ _ =>
        if all && u.run.endAt.isNone && x.fault.isNone then
          let s := s.waited x.core u.x
          s.endOp x.core u.q (s.core x.core).cyc
        else s
      | _ => s

/-- An operation has ended at a piece of its transfer: the piece is over, and the tiles on their way complete (R250). -/
def State.endedAt (s : State) (x : Xfer) (seq : Nat) : State :=
  let s := s.modPiece x.id seq fun p => { p with st := .failed .error, data := [] }
  match s.xfer? x.id with
  | some y => s.drain y
  | none => s

/-- A contribution that disagrees with an open tile state ends its operation with ORDER_CONFLICT (R108). -/
def State.orderConflict (s : State) (x : Xfer) (p : Piece) (b : BedId) (t : TileState) (g n i : Nat) : State :=
  let s := s.modBed b fun k => k.free x.id p.seq true s.timeNs
  match s.opOf x with
  | none => s
  | some u =>
    let addr := s.addrOf x p.off true
    let u := { u with run := { u.run with doneBytes := x.doneAt } }
    (s.failOp x.core u (u.info x.core .orderConflict 0x10 addr)
      [record 64 [(0, 1, 11), (2, 2, g), (4, 1, t.n), (5, 1, n), (6, 1, i), (8, 8, addr)]]).endedAt x p.seq

/-- An ordered contribution at its adder (R107, R108). -/
def State.ordered (s : State) (x : Xfer) (p : Piece) (b : BedId) (o g n i : Nat) : State :=
  let k := stackOf o
  let a := (s.bed b).adders.get k
  let refuse := s.modPiece x.id p.seq fun p => { p with st := .refused }
  let found := a.states.find? fun t => t.is x.ctx g o
  let full := found.isNone && !decide ((x.ctx, g) ∈ a.groups) && decide (16 ≤ a.groups.length)
  let t := found.getD ⟨x.ctx, g, o, n, 0⟩
  if full then refuse
  else if t.n ≠ n || i < t.next || a.hold.any fun h => h.is x.ctx g o && h.idx == i then s.orderConflict x p b t g n i
  else if i = t.next then
    match s.adderApply b.val o x.fmt p.data with
    | none => (s.modBed b fun k => k.free x.id p.seq true s.timeNs).adderFail x.id p.seq (s.badPlace b.val o p.len)
    | some s =>
      let s := s.modAdder b k fun a =>
        { a with states := (a.states.filter fun t => !t.is x.ctx g o) ++ [{ t with next := t.next + 1 }] }
      ((s.accepted x p b).applied x.id p.seq).drainHeld b k x.ctx g o 65
  else if a.hold.length < 256 then
    let s := s.modAdder b k fun a =>
      { states := (a.states.filter fun t => !t.is x.ctx g o) ++ [t],
        hold := a.hold ++ [⟨x.ctx, g, o, i, x.id, p.seq, x.fmt, p.data⟩] }
    (s.accepted x p b).modPiece x.id p.seq fun p => { p with st := .heldAdder, data := [] }
  else refuse

/-- The residue code of an adder finds a wrong sum at an element group: nothing of the tile is written, and the program stops
(R428, R431). -/
def State.adderCheckFails (s : State) (x : Xfer) (p : Piece) (b : BedId) (group : Nat) : State :=
  let s := s.modBed b fun k => k.free x.id p.seq true s.timeNs
  match s.opOf x with
  | none => s
  | some u =>
    let u := { u with run := { u.run with doneBytes := x.doneAt } }
    (s.failOp x.core u { u.info x.core .internalError 0x02 (s.addrOf x p.off true) with die := 16 + b.val }
      [record 64 [(0, 1, 12), (1, 1, 5), (4, 2, group), (8, 4, x.opTag.toNat)]]).endedAt x p.seq

/-- A contribution tile reaches its adder and is applied, held or refused (R105 to R108), or its sum fails its check at the
element group `residue`. -/
def execAdderTileArrival (i seq : Nat) (residue : Option Nat) (s : State) : Host.Outcome State Fault Refusal :=
  .next (if !s.clocked then s else
  match (s.xfer? i).bind fun x => (x.piece? seq).map fun p => (x, p) with
  | none => s
  | some (x, p) =>
    match x.kind, p.dst with
    | .atomic ord g n idx, .hbm b o =>
      if p.st ≠ .writing then s
      else
        let s := s.stamp
        match residue with
        | some group => s.adderCheckFails x p b group
        | none =>
        let s := if ord then s.ordered x p b o g n idx
          else match s.adderApply b.val o x.fmt p.data with
            | none => (s.modBed b fun k => k.free x.id p.seq true s.timeNs).pieceFailed i seq .uncorrectableData (s.badPlace b.val o p.len) (0, 0)
            | some s => (s.accepted x p b).applied i seq
        (s.pumpXfer i).endIfAccepted i
    | _, _ => s)

/-- A refused contribution is sent again (R107). -/
def execAdderResend (i seq : Nat) (s : State) : Host.Outcome State Fault Refusal :=
  .next (if !s.clocked then s else
  match (s.xfer? i).bind fun x => (x.piece? seq).map fun p => (x, p) with
  | none => s
  | some (x, p) => if p.st = .refused then s.ship x seq p.src.stop p.data else s)

end Sys2Proof.Machine
end

