-- ==== Sys2Proof/Machine/Container.lean ====
section
/-! DEFINITION. Program containers: how their descriptors are read (R156 to R171, R187, R248) and the checks of an EXEC (R160). -/

namespace Sys2Proof.Machine

open Sys2Proof

/-! ## Reading fields -/

/-- A two's-complement field of `n` bits. -/
def signed (n v : Nat) : Int := if 2 ^ (n - 1) ≤ v % 2 ^ n then (v % 2 ^ n : Nat) - (2 ^ n : Nat) else (v % 2 ^ n : Nat)

/-- Whether bytes `[off, off + n)` are 0. -/
def zeroAt (bs : List Byte) (off n : Nat) : Bool := fieldAt bs off n == 0

/-- A value read with whether everything about it is as the manual allows. -/
abbrev Checked (α : Type) := α × Bool

/-- An operand record (R164). -/
def parseRec (acrossOk : Bool) (bs : List Byte) : Checked OperandRec :=
  let w0 := fieldAt bs 0 4
  let w1 := fieldAt bs 4 4
  let f := fmtOf (fieldAt bs 8 1)
  let n := fieldAt bs 9 1
  let counts := (List.range 6).map fun l => fieldAt bs (10 + 2 * l) 2
  let strides := (List.range 6).map fun l => signed 32 (fieldAt bs (22 + 4 * l) 4)
  let sstr := (List.range 6).map fun l => signed 24 (fieldAt bs (46 + 3 * l) 3)
  let r : OperandRec := ⟨field w0 0 26, field w1 0 26, field w1 26 3, bit w1 29, f.getD .fp32, n, counts, strides, sstr⟩
  let mx := r.fmt.isMx
  let used := (List.range 6).all fun l =>
    if l < n then nthD 0 counts l != 0 else nthD 0 counts l == 0 && nthD 0 strides l == 0 && nthD 0 sstr l == 0
  (r, f.isSome && field w0 26 6 == 0 && r.base % 64 == 0 && field w1 30 2 == 0 && (acrossOk || !r.across) &&
      decide (1 ≤ n) && decide (n ≤ 6) && used &&
      (if mx then decide (r.blockLevel ≤ 5) else r.scaleBase == 0 && r.blockLevel == 0 && sstr.all fun x => x == 0))

/-- Block `i` of a descriptor. -/
def block (bs : List Byte) (i : Nat) : List Byte := (bs.drop (64 * i)).take 64

/-- Record in block `i`, where it is present. -/
def recAt (present acrossOk : Bool) (bs : List Byte) (i : Nat) : Option OperandRec × Bool :=
  if present then let r := parseRec acrossOk (block bs i)
    (some r.1, r.2)
  else (none, true)

def roleOf (n : Nat) : Role × Bool :=
  match n with
  | 0 => (.absent, true) | 1 => (.add, true) | 2 => (.pre, true) | 3 => (.other, true) | 4 => (.gateG, true) | 5 => (.gateU, true)
  | _ => (.absent, false)

def formOf (n : Nat) : PullForm × Bool :=
  match n with
  | 0 => (.none, true) | 1 => (.act, true) | 2 => (.deriv, true) | 3 => (.gateFwd, true) | 4 => (.gateBwd, true)
  | _ => (.none, false)

def actOf (n : Nat) : ActFunc :=
  match n % 8 with
  | 0 => .relu | 1 => .sqRelu | 2 => .geluErf | 3 => .geluTanh | 4 => .sigmoid | 5 => .silu | 6 => .tanh | _ => .softplus

def secondOf (n : Nat) : Second :=
  match n % 4 with
  | 0 => .none | 1 => .teePre | 2 => .copy | _ => .gateDu

/-- Which of its five records a PULL block 0 names (R168). -/
def pullRecords (b0 : List Byte) : List Bool :=
  let b19 := fieldAt b0 19 1
  [field b19 0 3 != 0, field b19 3 3 != 0, bit (fieldAt b0 18 1) 5, field b19 6 2 != 0, bit (fieldAt b0 18 1) 3]

/-- The blocks of a PULL. -/
def pullBlocks (b0 : List Byte) : Nat := 1 + ((pullRecords b0).filter id).length

/-- The place of record `k` of a PULL among its blocks. -/
def pullSlot (b0 : List Byte) (k : Nat) : Nat := 1 + (((pullRecords b0).take k).filter id).length

/-- A PULL descriptor (R168). -/
def parsePull (bs : List Byte) : Checked PullP :=
  let f := fun off => fieldAt bs off 1
  let has := fun k => (pullRecords (block bs 0)).getD k false
  let r := fun k => recAt (has k) false bs (pullSlot (block bs 0) k)
  let role0 := roleOf (field (f 19) 0 3)
  let role1 := roleOf (field (f 19) 3 3)
  let form := formOf (field (f 17) 0 3)
  let out := fmtOf (f 21)
  let out2 := fmtOf (f 22)
  let scale := fun off => let w := fieldAt bs off 4
    (if bit w 31 then some (field w 0 26) else none, field w 26 5 == 0)
  let second := secondOf (field (f 19) 6 2)
  ({ plate := field (f 16) 0 4, dword := bit (f 16) 4, orient := bit (f 16) 5, orient2 := bit (f 16) 6, merge := bit (f 16) 7,
     form := form.1, func := actOf (field (f 17) 3 3), enScale := bit (f 18) 0, enAdd := bit (f 18) 1, enFunc := bit (f 18) 2,
     enTaps := bit (f 18) 3, enConv := bit (f 18) 4, enWrite := bit (f 18) 5, sr := bit (f 18) 6, ieee := bit (f 18) 7,
     role0 := role0.1, role1 := role1.1, second := second, taps := field (f 20) 0 6, tapAxis := bit (f 20) 6,
     outFmt := out.getD .fp32, out2Fmt := if second = .none then none else out2,
     epochCtr := ⟨field (f 23) 0 6 % 64, by omega⟩, alpha := BitVec.ofNat 32 (fieldAt bs 24 4),
     srStream := BitVec.ofNat 32 (fieldAt bs 28 4), recOut := (scale 32).1, recA := (scale 36).1, recB := (scale 40).1,
     s0 := (r 0).1, s1 := (r 1).1, out := (r 2).1, out2 := (r 3).1, tap := (r 4).1 },
   role0.2 && role1.2 && form.2 && field (f 17) 6 2 == 0 && !bit (f 20) 7 && field (f 23) 6 2 == 0 && out.isSome &&
     (if second = .none then f 22 == 0 else out2.isSome) && (scale 32).2 && (scale 36).2 && (scale 40).2 && zeroAt bs 44 20 &&
     (List.range 5).all fun k => (r k).2)

def vecFuncOf (n : Nat) : Option VecFunc :=
  match n with
  | 0x00 => some .add | 0x01 => some .sub | 0x02 => some .mul | 0x03 => some .fma | 0x04 => some .min | 0x05 => some .max
  | 0x06 => some .abs | 0x07 => some .neg | 0x08 => some .convert | 0x09 => some .accAdd | 0x10 => some .exp | 0x11 => some .log
  | 0x12 => some .recip | 0x13 => some .rsqrt | 0x20 => some .split3 | 0x30 => some .adamW | 0x31 => some .lion | 0x32 => some .sgd
  | 0x33 => some .nesterov | 0x38 => some .clip | 0x39 => some .scaleCommit
  | n => if 0x18 ≤ n ∧ n < 0x20 then some (.act (actOf (n - 0x18))) else none

def rowFuncOf (n : Nat) : Option RowFunc :=
  [RowFunc.rmsFwd, .lnFwd, .smFwd, .rmsBwd, .lnBwd, .smBwd, .online, .kl, .mse, .cosine][n]?

/-- Records of a row function, inputs and outputs (R126). -/
def rowArity (f : RowFunc) : Nat × Nat :=
  let s := RowFunc.shape f
  (s.perElem + s.perCol + s.perRow, s.outElem + s.outCol + s.outRow)

/-- Blocks that an opcode and its fields require; none for an opcode that is not listed (R161, R167 to R171). -/
def blocksOf (bs : List Byte) : Option Nat :=
  let f := fun off => fieldAt bs off 1
  match f 0 with
  | 0x01 => some (3 + if bit (f 16) 6 then pullBlocks (block bs 3) else 0)
  | 0x02 => some (pullBlocks (block bs 0))
  | 0x03 => some 2
  | 0x04 => some (3 + pullBlocks (block bs 3))
  | 0x05 => some (1 + field (f 17) 0 2 + field (f 17) 2 2)
  | 0x06 => some (1 + ((rowFuncOf (f 16)).map fun g => (rowArity g).1 + (rowArity g).2).getD 0)
  | 0x10 => some (1 + bitOf (!bit (f 16) 0) + bitOf (!bit (f 16) 1))
  | 0x11 => some 2
  | 0x12 => some 2
  | 0x20 => some 2
  | 0x21 => some (if bit (f 24) 0 then 1 else 2)
  | 0x22 => some 3
  | 0x30 | 0x40 | 0x41 | 0x42 | 0x7F => some 1
  | 0x50 => some 2
  | _ => none

/-- A flow field: none for 0xFFFF. -/
def flowOf (n : Nat) : Option Nat := if n = 0xFFFF then none else some n

/-- The signal and the tag of a common header, and whether its reserved fields are as R161 says. -/
def attHdrOf (bs : List Byte) : Checked AttHdr :=
  let f := fun off => fieldAt bs off 1
  let s := fieldAt bs 8 4
  (⟨bit s 12, ⟨field s 0 6 % 64, by omega⟩, ⟨field s 6 6 % 64, by omega⟩, field s 16 16, BitVec.ofNat 32 (fieldAt bs 12 4)⟩,
    field (f 1) 4 4 == 0 && !bit (f 2) 7 && f 3 == 0 && field s 13 3 == 0 && (bit s 12 == (field s 16 16 != 0)))

/-- Whether the PULL that follows two operand records states its own length right (R160, R161). -/
def innerBlocksOk (bs : List Byte) : Bool := fieldAt bs 193 1 % 16 == pullBlocks (block bs 3)

/-- Whether the blocks field of a descriptor, and of the PULL inside it, is what its opcode and fields require (R160). -/
def lengthOk (bs : List Byte) : Bool :=
  (match blocksOf bs with
   | some n => fieldAt bs 1 1 % 16 == n
   | none => true) &&
  (match fieldAt bs 0 1 with
   | 0x01 => !bit (fieldAt bs 16 1) 6 || innerBlocksOk bs
   | 0x04 => innerBlocksOk bs
   | _ => true)

/-- The operation of a descriptor with its own fields (R162, R167 to R171); none for an opcode that is not listed. -/
def parseOp (bs : List Byte) : Option (Checked AkiOp) :=
  let f := fun off => fieldAt bs off 1
  let w := fun off => fieldAt bs off 4
  let v := fun off => fieldAt bs off 8
  let r := fun (i : Nat) => parseRec false (block bs i)
  let sc := fun off => (field (w off) 0 26, field (w off) 26 6 == 0)
  match f 0 with
  | 0x01 =>
    let a := parseRec true (block bs 1)
    let b := parseRec true (block bs 2)
    let att := parsePull (bs.drop 192)
    let on := bit (f 16) 6
    let hdr := attHdrOf (bs.drop 192)
    some (.outer ⟨field (f 16) 0 4, bit (f 16) 4, bit (f 16) 5, field (f 17) 0 4, field (f 17) 4 3, a.1, b.1,
        if on then some att.1 else none, if on then hdr.1 else default⟩,
      a.2 && b.2 && (!on || (att.2 && hdr.2 && fieldAt bs 192 1 == 2)) && !bit (f 16) 7 && !bit (f 17) 7 && zeroAt bs 18 46)
  | 0x02 => let p := parsePull bs
    some (.pull p.1, p.2)
  | 0x03 => some (.preload ⟨field (f 16) 0 4, bit (f 16) 4, (r 1).1⟩, (r 1).2 && field (f 16) 5 3 == 0 && zeroAt bs 17 47)
  | 0x04 =>
    let a := parseRec true (block bs 1)
    let b := parseRec true (block bs 2)
    let p := parsePull (bs.drop 192)
    let hdr := attHdrOf (bs.drop 192)
    some (.stylus ⟨field (f 16) 0 3, a.1, b.1, p.1, hdr.1⟩,
      a.2 && b.2 && p.2 && hdr.2 && fieldAt bs 192 1 == 2 && field (f 16) 3 5 == 0 && zeroAt bs 17 47)
  | 0x05 =>
    let fn := vecFuncOf (f 16)
    let i := field (f 17) 0 2
    let o := field (f 17) 2 2
    let ins := (List.range i).map fun k => r (1 + k)
    let outs := (List.range o).map fun k => r (1 + i + k)
    some (.vec ⟨fn.getD .add, bit (f 17) 4, bit (f 17) 5, bit (f 17) 6, ⟨field (f 18) 0 6 % 64, by omega⟩, (sc 20).1,
        BitVec.ofNat 32 (w 24), (sc 28).1, (sc 32).1, ins.map fun e => e.1, outs.map fun e => e.1⟩,
      fn.isSome && decide (1 ≤ i) && decide (1 ≤ o) && decide (o ≤ 2) && !bit (f 17) 7 && field (f 18) 6 2 == 0 && f 19 == 0 &&
        (sc 20).2 && (sc 28).2 && (sc 32).2 && zeroAt bs 36 28 && (ins ++ outs).all fun e => e.2)
  | 0x06 =>
    let fn := rowFuncOf (f 16)
    let of_ := fmtOf (f 17)
    let ar := (fn.map rowArity).getD (0, 0)
    let ins := (List.range ar.1).map fun k => r (1 + k)
    let outs := (List.range ar.2).map fun k => r (1 + ar.1 + k)
    some (.row ⟨fn.getD .rmsFwd, of_.getD .fp32, w 20, BitVec.ofNat 32 (w 24), BitVec.ofNat 32 (w 28), BitVec.ofNat 32 (w 32),
        ins.map fun e => e.1, outs.map fun e => e.1⟩,
      fn.isSome && of_.isSome && zeroAt bs 18 2 && zeroAt bs 36 28 && (ins ++ outs).all fun e => e.2)
  | 0x10 =>
    let sv := bit (f 16) 0
    let dv := bit (f 16) 1
    let src := recAt (!sv) false bs 1
    let dst := recAt (!dv) false bs (if sv then 1 else 2)
    some (.move ⟨sv, dv, bit (f 16) 2, ⟨field (f 17) 0 4 % 16, by omega⟩, w 20, field (v 24) 0 48, field (v 32) 0 48,
        flowOf (fieldAt bs 40 2), src.1, dst.1⟩,
      src.2 && dst.2 && field (f 16) 3 5 == 0 && field (f 17) 4 4 == 0 && zeroAt bs 18 2 && field (v 24) 48 16 == 0 &&
        field (v 32) 48 16 == 0 && zeroAt bs 42 22)
  | 0x11 => some (.mcast ⟨w 20, field (v 24) 0 48, flowOf (fieldAt bs 40 2), fieldAt bs 44 2, ⟨field (f 46) 0 6 % 64, by omega⟩,
        ⟨field (f 46) 6 2 % 4, by omega⟩, (r 1).1⟩,
      (r 1).2 && zeroAt bs 16 4 && field (v 24) 48 16 == 0 && zeroAt bs 32 8 && zeroAt bs 42 2 && zeroAt bs 47 17)
  | 0x12 => some (.atomicAdd ⟨bit (f 16) 0, w 20, field (v 32) 0 48, flowOf (fieldAt bs 40 2), fieldAt bs 44 2, field (f 46) 0 7,
        field (f 47) 0 6, (r 1).1⟩,
      (r 1).2 && field (f 16) 1 7 == 0 && zeroAt bs 17 3 && zeroAt bs 24 8 && field (v 32) 48 16 == 0 && zeroAt bs 42 2 &&
        !bit (f 46) 7 && field (f 47) 6 2 == 0 && zeroAt bs 48 16)
  | 0x20 => some (.stashPush ⟨BitVec.ofNat 32 (w 16), w 20, (r 1).1⟩, (r 1).2 && zeroAt bs 24 40)
  | 0x21 =>
    let d := recAt (!bit (f 24) 0) false bs 1
    some (.stashPop ⟨BitVec.ofNat 32 (w 16), w 20, bit (f 24) 0, d.1⟩, d.2 && field (f 24) 1 7 == 0 && zeroAt bs 25 39)
  | 0x22 =>
    let df := fmtOf (f 18)
    some (.gradGather ⟨field (f 16) 0 5, bit (f 17) 0, bit (f 17) 1, df.getD .fp32, ⟨field (f 19) 0 6 % 64, by omega⟩, signed 32 (w 20),
        BitVec.ofNat 32 (w 24), (r 1).1, (r 2).1⟩,
      df.isSome && (r 1).2 && (r 2).2 && field (f 16) 5 3 == 0 && field (f 17) 2 6 == 0 && field (f 19) 6 2 == 0 && zeroAt bs 28 36)
  | 0x30 =>
    let bf := fmtOf (f 32)
    some (.bucketSend ⟨w 16, w 20, field (v 24) 0 48, bf.getD .fp32⟩, bf.isSome && field (v 24) 48 16 == 0 && zeroAt bs 33 31)
  | 0x40 => some (.signal, zeroAt bs 16 48)
  | 0x41 => some (.wait, zeroAt bs 16 48)
  | 0x42 => some (.barrier ⟨field (f 16) 0 5 % 32, by omega⟩, field (f 16) 5 3 == 0 && zeroAt bs 17 47)
  | 0x50 => some (.clipDraw ⟨field (f 16) 0 5, (r 1).1⟩, (r 1).2 && field (f 16) 5 3 == 0 && zeroAt bs 17 47)
  | 0x7F => some (.stopMark ⟨BitVec.ofNat 32 (w 16), bit (f 20) 0⟩, field (f 20) 1 7 == 0 && zeroAt bs 21 43)
  | _ => none

/-- The common header and the operation (R161). -/
def parseDesc (bs : List Byte) : Option (Checked Desc) :=
  (parseOp bs).map fun op =>
    let f := fun off => fieldAt bs off 1
    let k := attHdrOf bs
    (⟨bit (f 2) 6, ⟨field (f 2) 0 6 % 64, by omega⟩, BitVec.ofNat 32 (fieldAt bs 4 4), k.1.sigEn, k.1.sigCtr, k.1.sigCore, k.1.sigInc, k.1.opTag, op.1⟩,
      op.2 && k.2)

/-! ## The container -/

/-- The header fields of a container (R157). -/
structure Header where
  coreMap : Nat
  queueOff : Nat
  rasterOff : Nat
  rasterSize : Nat
  footBase : Nat
  footSize : Nat
  mirrorBase : Nat
  mirrorSize : Nat
  size : Nat
  chanOff : Nat
  chanCount : Nat
  signed : Bool
deriving DecidableEq, Repr

def Header.of (bs : List Byte) : Header :=
  { coreMap := fieldAt bs 8 8, queueOff := fieldAt bs 16 4, rasterOff := fieldAt bs 20 4, rasterSize := fieldAt bs 24 4,
    footBase := field (fieldAt bs 28 4) 0 26, footSize := field (fieldAt bs 32 4) 0 27, mirrorBase := field (fieldAt bs 36 4) 0 26,
    mirrorSize := fieldAt bs 40 4, size := fieldAt bs 44 4, chanOff := fieldAt bs 48 4, chanCount := fieldAt bs 52 2,
    signed := bit (fieldAt bs 7 1) 0 }

/-- The container offset of the first item of a list that breaks its rule: none where all hold. -/
def firstBad (items : List (Nat × Bool)) : Option Nat := (items.find? fun e => !e.2).map fun e => e.1

/-- Check 1 of R160: the field that fails it. -/
def versionBad (bs : List Byte) : Option Nat :=
  firstBad [(0, fieldAt bs 0 4 == 0x43494B41), (4, fieldAt bs 4 2 == 0x0100), (6, fieldAt bs 6 1 == 1)]

/-- A descriptor as it lies in the container: its offset, its queue (4 × core + queue), its bytes. -/
structure RawDesc where
  off : Nat
  queue : Nat
  bytes : List Byte
deriving DecidableEq, Repr

def RawDesc.tag (d : RawDesc) : Nat := fieldAt d.bytes 12 4

/-- The place of a failed check: its container offset and, for a descriptor, its op_tag. -/
abbrev Spot := Nat × Nat

/-- `n` descriptors from `off` on. -/
def splitQueue (bs : List Byte) (size q : Nat) : Nat → Nat → Except Spot (List RawDesc)
  | 0, _ => .ok []
  | n + 1, off =>
    let b := fieldAt bs (off + 1) 1 % 16
    let bytes := (bs.drop off).take (64 * b)
    if b = 0 || size < off + 64 * b || !lengthOk ((bs.drop off).take 960) then .error (off, fieldAt bs (off + 12) 4)
    else match splitQueue bs size q n (off + 64 * b) with
      | .ok l => .ok (⟨off, q, bytes⟩ :: l)
      | .error e => .error e

/-- The two halves of queue-table entry `i`. -/
def queueEntry (bs : List Byte) (h : Header) (i : Nat) : Nat × Nat := (fieldAt bs (h.queueOff + 8 * i) 4, fieldAt bs (h.queueOff + 8 * i + 4) 4)

/-- The descriptors of queues `i` and above (check 2 of R160). -/
def splitAll (bs : List Byte) (h : Header) : Nat → Nat → Except Spot (List RawDesc)
  | 0, _ => .ok []
  | n + 1, i =>
    let (off, count) := queueEntry bs h i
    if off = 0 ∧ count = 0 then splitAll bs h n (i + 1)
    else if count = 0 ∨ off % 64 ≠ 0 ∨ off < h.queueOff + 2048 ∨ h.size ≤ off then .error (h.queueOff + 8 * i, 0)
    else match splitQueue bs h.size i count off, splitAll bs h n (i + 1) with
      | .ok a, .ok b => .ok (a ++ b)
      | .error e, _ => .error e
      | _, .error e => .error e

/-- Check 2 of R160 on the header: the address is aligned, and everything lies within the container. -/
def sizesBad (bs : List Byte) (addr : Nat) (h : Header) : Option Nat :=
  firstBad [(0, addr % 64 == 0), (44, decide (256 ≤ h.size) && decide (h.size ≤ bs.length)), (16, decide (h.queueOff + 2048 ≤ h.size)),
    (20, decide (h.rasterOff ≤ h.size)), (24, decide (h.rasterOff + h.rasterSize ≤ h.size)), (48, decide (h.chanOff ≤ h.size)),
    (52, decide (h.chanOff + 16 * h.chanCount ≤ h.size))]

/-- The digest that check 3 of R160 forms: bytes 60 to 255 taken as zero. -/
def digestOf (bs : List Byte) (h : Header) : Nat := sha512 (putAt (bs.take h.size) 60 (zeros 196))
def digestOk (bs : List Byte) (h : Header) : Bool := fieldAt bs 60 64 == digestOf bs h

/-- The reserved fields of the header and its field rules, which are part of check 5 (R157, R160). -/
def headerBad (bs : List Byte) (h : Header) : Option Nat :=
  firstBad [(7, field (fieldAt bs 7 1) 1 7 == 0), (16, h.queueOff % 64 == 0), (20, h.rasterOff % 64 == 0),
    (28, field (fieldAt bs 28 4) 26 6 == 0 && h.footBase % 128 == 0),
    (32, field (fieldAt bs 32 4) 27 5 == 0 && h.footSize % 128 == 0 && decide (h.footBase + h.footSize ≤ 2 ^ 26)),
    (36, field (fieldAt bs 36 4) 26 6 == 0 && h.mirrorBase % 4096 == 0),
    (40, (h.mirrorSize == 0 || h.mirrorSize == 8388608) && decide (h.mirrorBase + h.mirrorSize ≤ 2 ^ 26)),
    (44, h.size % 64 == 0), (48, h.chanOff % 64 == 0), (52, decide (h.chanCount ≤ 2048)), (54, zeroAt bs 54 6),
    (124, h.signed || zeroAt bs 124 132)]

/-! ## Load rules of descriptors -/

/-- Whether an operand's bytes lie in the footprint (R166). -/
def Header.holds (h : Header) (r : OperandRec) (whole : Option Nat) (extra : Nat) : Bool :=
  let b := r.bounds whole
  decide ((h.footBase : Int) ≤ b.1) && decide (b.2 + extra < (h.footBase + h.footSize : Nat))

/-- Bytes `[a, a + n)` in the footprint. -/
def Header.holdsRun (h : Header) (a n : Nat) : Bool := decide (h.footBase ≤ a) && decide (a + n ≤ h.footBase + h.footSize)

def Fmt.plain (f : Fmt) : Bool := f = .fp32 || f = .bf16 || f = .fp16

/-- The roles that a form takes (R115). -/
def formRoles : PullForm → List Role
  | .none | .act => [.add]
  | .deriv => [.add, .pre]
  | .gateFwd => [.add, .other]
  | .gateBwd => [.gateG, .gateU]

/-- The roles that a form needs. -/
def formNeeds : PullForm → List Role
  | .deriv => [.pre]
  | .gateFwd => [.other]
  | .gateBwd => [.gateG, .gateU]
  | _ => []

/-- An output record of a pull (R122, R168). -/
def outOk (h : Header) (r : OperandRec) (f : Fmt) (col : Bool) : Bool :=
  r.fmt == f && (!f.isMx || r.blockLevel == bitOf col) && h.holds r (if f.isMx then some (bitOf col) else none) 0 &&
  r.strides.getD (bitOf col) 0 == (if f.packed then (f.bits : Int) else f.bytes)

/-- The load rules of a PULL (R63, R65, R112, R115, R118, R122, R168). -/
def pullOk (h : Header) (attached : Bool) (p : PullP) : Bool :=
  let roles := [p.role0, p.role1].filter fun r => r ≠ .absent
  let sides := [p.s0, p.s1].filterMap id
  let f8 := fun (f : Fmt) => f.isF8
  (attached || (decide (p.plate < 8) && (!p.dword || decide (p.plate < 4)))) &&
  (p.enTaps == (p.taps != 0)) && (p.second = .none || p.enWrite) &&
  roles.all (fun r => r ∈ formRoles p.form) && decide roles.Nodup && (formNeeds p.form).all (fun r => r ∈ roles) &&
  (!p.enAdd || decide (Role.add ∈ roles)) && (p.second ≠ .gateDu || p.form == .gateBwd) &&
  sides.all (fun r => Fmt.plain r.fmt && h.holds r none 0 && r.strides.getD 0 0 == r.fmt.bytes && decide (r.count 0 ≤ 256) &&
    decide (r.count 1 ≤ 256)) &&
  decide ((sides.map fun r => r.fmt.bytes).sum ≤ 4) &&
  (match p.out with
   | some r => outOk h r (if p.enConv then p.outFmt else .fp32) p.orient && r.fmt == p.outFmt && decide (r.count 0 ≤ 256) &&
       decide (r.count 1 ≤ 256)
   | none => true) &&
  (match p.out2, p.out2Fmt with
   | some r, some f => outOk h r f p.orient2 && (!f8 f || p.recOut.isSome)
   | _, _ => true) &&
  (match p.tap with
   | some r => h.holds r none (1024 * tapVectors p.taps - Fmt.bytes r.fmt)
   | none => true) && (p.enConv || p.outFmt == .fp32) &&
  [p.recOut, p.recA, p.recB].all fun a => match a with
    | some a => h.holdsRun a 128
    | none => true

/-- Formats of the Burin array (R56). -/
def arrayFmt (f : Fmt) : Bool := f.isMx || f.isF8 || f.is16
/-- Formats of the Stylus path (R56). -/
def stylusFmt (f : Fmt) : Bool := f.isF8 || f.is16 || f = .mxf8e4 || f = .mxf8e5 || f = .mxint8

/-- An input of an OUTER (R60, R61, R83, R86, R166). -/
def outerIn (h : Header) (t : Nat) (r : OperandRec) : Bool :=
  arrayFmt r.fmt && h.holds r none 0 && decide (r.count 0 ≤ 256) &&
  (r.across || r.strides.getD 0 0 == (if r.fmt.packed then (r.fmt.bits : Int) else r.fmt.bytes)) &&
  (!r.fmt.isMx || (r.blockLevel == 1 && (r.count 1 % 32 == 0 || ((List.range t).drop 2).all fun l => r.count l == 1)))

/-- The load rules of an OUTER (R39, R40, R63, R65, R67, R86, R167). -/
def outerOk (h : Header) (p : OuterP) : Bool :=
  let t := p.tileLevel
  decide (p.plate < 8) && (!p.dword || decide (p.plate < 4)) && decide (1 ≤ p.set) && decide (p.set ≤ if p.dword then 4 else 8) &&
  (p.att.isSome || p.set == 1) && decide (2 ≤ t) && decide (t ≤ 6) && outerIn h t p.a && outerIn h t p.b && pairable p.a.fmt p.b.fmt &&
  ((List.range 6).drop 1).all (fun l => p.a.count l == p.b.count l) &&
  (match p.att with
   | none => true
   | some q => pullOk h true q && ([q.s0, q.s1, q.out, q.out2, q.tap].filterMap id).all fun r =>
       (List.range (6 - t)).all (fun i => r.count (2 + i) == p.a.count (t + i)) && ((List.range 6).drop (8 - t)).all fun l => r.count l == 1)

/-- Whether the scale fields of a record are 0. -/
def unscaled (r : OperandRec) : Bool := r.scaleBase == 0 && r.blockLevel == 0 && (List.range 6).all fun l => r.sstrides.getD l 0 == 0

/-- The bytes that a record's elements occupy, without its scales, lie in the footprint (R166). -/
def Header.holdsElems (h : Header) (r : OperandRec) : Bool := h.holds (if r.fmt.isMx && !r.fmt.packed then { r with fmt := .f8e4 } else r) none 0

/-- A scratchpad side of a transfer (R170): a format of 8 bits or more, moved by its elements' bytes. -/
def sideOk (h : Header) (len : Nat) (r : OperandRec) : Bool :=
  !r.fmt.packed && (!r.fmt.isMx || unscaled r) && r.size 0 * r.fmt.bytes == len && h.holdsElems r && decide (walkBytes r 0 len).Nodup

/-- The scratchpad side of a push or a pop: its format is not checked (R140); it walks the entry's bytes. -/
def stashOk (h : Header) (len : Nat) (r : OperandRec) : Bool := r.size 0 * r.fmt.bits == 8 * len && h.holdsElems r

/-- A length of a virtual region (R170). -/
def lenOk (n : Nat) : Bool := n % 64 == 0 && decide (64 ≤ n) && decide (n ≤ 2 ^ 32 - 64)

/-- A flow field against the raster (R249). -/
def flowOk (flows : List Nat) (f : Option Nat) : Bool := match f with
  | none => true
  | some f => decide (f ∈ flows)

/-- The load rules of an operation (R160 and the rules that it names). -/
def opOk (x : Ctx) (h : Header) (flows chans : List Nat) (c : CoreId) (op : AkiOp) : Bool :=
  match op with
  | .outer p => outerOk h p
  | .pull p => pullOk h false p
  | .preload p => decide (p.plate < 8) && (!p.dword || decide (p.plate < 4)) && (p.src.fmt = .fp32 || p.src.fmt = .bf16) &&
      h.holds p.src none 0 && decide (p.src.count 0 ≤ 256) && decide (p.src.count 1 ≤ 256)
  | .stylus p => decide (1 ≤ p.vectors) && decide (p.vectors ≤ 4) && stylusFmt p.w.fmt && stylusFmt p.v.fmt && pairable p.w.fmt p.v.fmt &&
      !p.w.across && (!p.w.fmt.isMx || p.w.blockLevel == 0) && decide (p.v.count 0 ≤ 8192) && decide (p.w.count 0 ≤ 8192) && h.holds p.w none 0 && h.holds p.v none 0 &&
      pullOk h true p.pull
  | .vec p =>
      let rs := p.ins ++ p.outs
      rs.all (fun r => h.holds r (if r.fmt.isMx then some r.blockLevel else none) (if p.func = .scaleCommit then 128 - Fmt.bytes r.fmt else 0)) &&
      (p.func != .split3 || (h.holds (p.out 0) none (if p.outs.length ≤ 1 then 6 - Fmt.bytes (p.out 0).fmt else 0) &&
        (p.outs.length ≤ 1 || h.holds (p.out 1) none (4 - Fmt.bytes (p.out 1).fmt)))) &&
      rs.all (fun r => (List.range 6).all fun l => r.count l == (p.inp 0).count l) &&
      p.paramBlk % 64 == 0
  | .row p => decide (1 ≤ p.n) && decide (p.n ≤ 262144) && Fmt.plain p.outFmt &&
      (p.ins ++ p.outs).all fun r => Fmt.plain r.fmt && h.holds r none 0
  | .move p => !(p.dstVirt && p.dstRemote) && (p.dstRemote || p.dstDie == 0) && lenOk p.len && flowOk flows p.flow &&
      (!p.srcVirt || p.srcAddr % 64 == 0) && (!p.dstVirt || p.dstAddr % 64 == 0) &&
      (p.src.map (sideOk h p.len)).getD true && (p.dst.map (sideOk h p.len)).getD true
  | .mcast p => lenOk p.len && p.srcAddr % 64 == 0 && flowOk flows p.flow && sideOk h p.len p.dst &&
      allDies.all fun d => !bit p.mask d.val || !decide (ctrKey (coreOf d p.memCore) p.memCtr ∈ chans)
  | .atomicAdd p => lenOk p.len && p.target % 64 == 0 && flowOk flows p.flow && sideOk h p.len p.src &&
      (p.src.fmt = .fp32 || p.src.fmt = .bf16) && (!p.ordered || (decide (2 ≤ p.n) && decide (p.n ≤ 64) && decide (p.idx < p.n)))
  | .stashPush p => lenOk p.size && stashOk h p.size p.src
  | .stashPop p => lenOk p.size && (p.dst.map (stashOk h p.size)).getD true
  | .gradGather p => decide (2 ≤ p.n) && decide (p.n ≤ 16) &&
      (List.range 6).all (fun l => p.slot.count l == p.dst.count l) && h.holds p.dst (if p.dst.fmt.isMx then some p.dst.blockLevel else none) 0 &&
      p.dst.fmt == p.dstFmt && (List.range p.n).all fun i => h.holds (GatherP.slotRec p i) none 0
  | .bucketSend p => (p.fmt = .bf16 || p.fmt = .fp32) && p.addr % 64 == 0 && (match x.grad.ring, x.grad.cfg with
      | some r, some g => decide (c.die.val ∈ r.dies.take r.replicas) && decide (p.bucket < g.bucketCount) && p.size == 2 ^ (20 + g.sizeCode) &&
          p.fmt.code == g.fmt && h.holdsRun g.recBase (64 * (g.bucketCount + 1)) && g.flows.all fun f => flowOk flows (flowOf f)
      | _, _ => false)
  | .signal | .wait | .stopMark _ => true
  | .barrier l => match x.line? l with
      | some k => k.mask != 0 && bit k.mask c.val
      | none => false
  | .clipDraw p => decide (1 ≤ p.clips) && decide (p.clips ≤ 16) && h.holdsElems p.dst &&
      (match x.shuffle with
       | some r => (r.lane? c).isSome && decide (8 * (p.clips * r.cfg.slotBytes) ≤ p.dst.size 0 * p.dst.fmt.bits)
       | none => false)

/-- Whether a signal names a core of the core map, and respects the channels that its counter belongs to (R161, R188). -/
def signalOk (h : Header) (chans : List Channel) (c : CoreId) (ctr : Fin 64) (core : CoreId) : Bool :=
  inMap h.coreMap core && chans.all fun k =>
    (!(k.full == ctr && k.consumer == core) || k.producer == c) && (!(k.ack == ctr && k.producer == core) || k.consumer == c)

/-- The load rules of a descriptor beyond its reserved fields. -/
def descOk (x : Ctx) (h : Header) (flows : List Nat) (chans : List (Channel)) (c : CoreId) (d : Desc) : Bool :=
  let keys := chans.flatMap fun k => [ctrKey k.consumer k.full, ctrKey k.producer k.ack]
  (!d.sigEn || signalOk h chans c d.sigCtr d.sigCore) &&
  (match d.op with
   | .signal => d.sigEn
   | .wait => d.waitEn
   | .outer p => !p.attHdr.sigEn || signalOk h chans c p.attHdr.sigCtr p.attHdr.sigCore
   | .stylus p => !p.pullHdr.sigEn || signalOk h chans c p.pullHdr.sigCtr p.pullHdr.sigCore
   | _ => true) &&
  opOk x h flows keys c d.op

/-! ## Channels and the raster -/

/-- Channel-table entry `i` (R187). -/
def parseChan (bs : List Byte) (h : Header) (i : Nat) : Checked Channel :=
  let o := h.chanOff + 16 * i
  let b := fun k => fieldAt bs (o + k) 1
  (⟨⟨b 0 % 64, by omega⟩, ⟨b 1 % 64, by omega⟩, ⟨b 2 % 64, by omega⟩, ⟨b 3 % 64, by omega⟩, fieldAt bs (o + 4) 4, 0⟩,
   decide (b 0 < 64) && decide (b 1 < 64) && decide (b 2 < 64) && decide (b 3 < 64) && decide (1 ≤ fieldAt bs (o + 4) 4) &&
     decide (fieldAt bs (o + 4) 4 < 2 ^ 31) && zeroAt bs (o + 8) 8)

/-- The rules of R187 and R188 on the channel table: the offset of the first entry that breaks one, with the counters of the entries
before it. -/
def chansBad (h : Header) : List (Checked Channel) → Nat → List Nat → Option Nat
  | [], _, _ => none
  | (k, ok) :: ks, i, used =>
    let keys := [ctrKey k.consumer k.full, ctrKey k.producer k.ack]
    if ok && decide keys.Nodup && (keys.all fun n => n ∉ used) && inMap h.coreMap k.consumer && inMap h.coreMap k.producer then
      chansBad h ks (i + 1) (used ++ keys)
    else some (h.chanOff + 16 * i)

/-- The flow entries of the raster table (R248). -/
def parseRaster (bs : List Byte) (h : Header) : List (Nat × List Nat) :=
  if h.rasterSize = 0 then []
  else (List.range (fieldAt bs h.rasterOff 2)).map fun i =>
    let o := h.rasterOff + 64 + 128 * i
    (fieldAt bs o 2, (List.range 10).map fun l => fieldAt bs (o + 16 + 8 * l) 8)

/-- Reserved slots: 8k + 7 (R247). -/
def reservedSlots : Nat := ((List.range 8).map fun k => 2 ^ (8 * k + 7)).sum

/-- The raster under check 5 (R249): the offset of the item that breaks a rule. -/
def rasterBad (s : State) (bs : List Byte) (h : Header) (fl : List (Nat × List Nat)) : Option Nat :=
  if h.rasterSize = 0 then none
  else
    let n := fieldAt bs h.rasterOff 2
    let entry := fun (i : Nat) =>
      let e := fl.getD i (0, [])
      zeroAt bs (h.rasterOff + 66 + 128 * i) 14 && zeroAt bs (h.rasterOff + 160 + 128 * i) 32 && decide (e.1 ≤ 1023) &&
      ((fl.take i).all fun f => f.1 ≠ e.1) &&
      (List.finRange 10).all fun l => (s.fabric.links.get l).down || nthD 0 e.2 l.val &&& reservedSlots == 0
    if 1 ≤ n ∧ n ≤ 1024 ∧ h.rasterSize = 64 + 128 * n ∧ zeroAt bs (h.rasterOff + 2) 62 then
      firstBad ((List.range n).map fun i => (h.rasterOff + 64 + 128 * i, entry i))
    else some h.rasterOff

/-- The raster under check 6: the place among the entries of the first one with a slot, on a link that is up, that an earlier one has. -/
def rasterClash (s : State) (fl : List (Nat × List Nat)) : Option Nat :=
  (List.range fl.length).find? fun i => (List.finRange 10).any fun l => !(s.fabric.links.get l).down &&
    (nthD 0 (fl.getD i (0, [])).2 l.val &&& (fl.take i).foldl (fun a e => a ||| nthD 0 e.2 l.val) 0) != 0

/-! ## The checks of an EXEC -/

/-- A program that has passed every check. -/
structure Program where
  header : Header
  queues : List (Nat × Desc)
  channels : List Channel
  raster : List (Nat × List Nat)
deriving Repr

/-- The queue-table entry of a core absent from core_map that is not 0 (R158). -/
def queueBad (bs : List Byte) (h : Header) : Option Nat :=
  firstBad ((List.range 256).map fun i => (h.queueOff + 8 * i, bit h.coreMap (i / 4) || queueEntry bs h i == (0, 0)))

/-- Whether the owner's signature is there and verifies where the context is sealed (check 3 of R160, R411). -/
def signatureOk (x : Ctx) (bs : List Byte) (h : Header) : Bool :=
  match x.sealing with
    | none => true
    | some k => match k.st with
      | .sealing => false
      | .sealed => h.signed && ecdsaOk k.signX k.signY (digestOf bs h) (fieldAt bs 124 66) (fieldAt bs 190 66)

/-- The first descriptor that breaks check 5, or all of them parsed. -/
def checkDescs (x : Ctx) (h : Header) (flows : List Nat) (ks : List Channel) : List RawDesc → Except Spot (List (Nat × Desc))
  | [] => .ok []
  | r :: rs =>
    let c : CoreId := ⟨r.queue / 4 % 64, by omega⟩
    match parseDesc r.bytes with
    | some (d, ok) =>
      if ok && inMap h.coreMap c && descOk x h flows ks c d then
        match checkDescs x h flows ks rs with
        | .ok l => .ok ((r.queue, d) :: l)
        | .error e => .error e
      else .error (r.off, r.tag)
    | none => .error (r.off, r.tag)

/-- The checks of R160 in their order. -/
def State.loadProgram (s : State) (x : Ctx) (addr : Nat) (bs : List Byte) : Except (Status × Spot) Program :=
  let h := Header.of bs
  let ks := (List.range h.chanCount).map fun i => parseChan bs h i
  let chans := ks.map fun k => k.1
  let fl := parseRaster bs h
  match versionBad bs with
  | some o => .error (.badVersion, o, 0)
  | none => match sizesBad bs addr h with
  | some o => .error (.badLength, o, 0)
  | none => match splitAll bs h 256 0 with
  | .error e => .error (.badLength, e)
  | .ok raw =>
    if !digestOk bs h then .error (.accessDenied, 60, 0)
    else if !signatureOk x bs h then .error (.accessDenied, 124, 0)
    else if allDies.any fun d => (dieInMap h.coreMap d || decide (d.val ∈ (x.grad.ring.map fun r => r.dies.take r.replicas).getD [])) && s.fenced (.c d) then .error (.dieFenced, 8, 0)
    else if allDies.any fun d => dieInMap h.coreMap d && !(s.die (.c d)).loaded then .error (.notMeasured, 8, 0)
    else match (headerBad bs h).orElse fun _ => (chansBad h ks 0 []).orElse fun _ => (queueBad bs h).orElse fun _ => rasterBad s bs h fl with
    | some o => .error (.reservedNonzero, o, 0)
    | none => match checkDescs x h (fl.map fun e => e.1) chans raw with
      | .error e => .error (.reservedNonzero, e)
      | .ok ds => match rasterClash s fl with
        | none => .ok ⟨h, ds, chans, fl⟩
        | some i => .error (.badRaster, h.rasterOff + 64 + 128 * i, 0)

end Sys2Proof.Machine
end

