-- ==== Sys2Proof/Machine/Gradient.lean ====
section
/-! DEFINITION. Meanings of the gradient exchange: RING_MAP, GRAD_CONFIG, CASCADE_CONFIG, BUCKET_SEND, and the events of buckets,
chains and the cascade (R264 to R290). -/

namespace Sys2Proof

open Machine

/-! ## Geometry (R266, R267) -/

def GradConfigP.bytes (g : GradConfigP) : Nat := 2 ^ (20 + g.sizeCode)
def GradConfigP.elem (g : GradConfigP) : Fmt := (fmtOf g.fmt).getD .fp32
def GradConfigP.units (g : GradConfigP) : Nat := g.bytes / g.elem.bytes / 1024
def GradConfigP.unitBytes (g : GradConfigP) : Nat := 1024 * g.elem.bytes

end Sys2Proof

namespace Sys2Proof.Machine

open Sys2Proof

/-- First unit of shard `j` of `R` (R267). -/
def shardStart (u r j : Nat) : Nat := j * u / r
/-- The units of a shard, and the shard of a unit. -/
def shardUnits (u r j : Nat) : List Nat := (List.range (shardStart u r (j + 1))).drop (shardStart u r j)
def shardOf (u r unit : Nat) : Nat := ((List.range r).find? fun j => unit < shardStart u r (j + 1)).getD 0

/-- Replicas of the whole ring, and the ring position of this device's first one (R285). -/
def Grad.total (g : Grad) : Nat :=
  match g.casc with
  | some k => k.counts.sum
  | none => (g.ring.map fun r => r.replicas).getD 0
def Grad.base (g : Grad) : Nat :=
  match g.casc with
  | some k => (k.counts.take k.cfg.index).sum
  | none => 0

/-- Whether a ring position lies on this device, and the device of a position (R285). -/
def Grad.isLocal (g : Grad) (p : Nat) : Bool := decide (g.base ≤ p) && decide (p < g.base + g.replicas.length)
def Grad.deviceOf (g : Grad) (p : Nat) : Nat :=
  match g.casc with
  | some k => ((List.range k.counts.length).find? fun d => p < (k.counts.take (d + 1)).sum).getD 0
  | none => 0

/-- The replica at a ring position. -/
def Grad.replica? (g : Grad) (p : Nat) : Option Replica := if g.isLocal p then g.replicas[p - g.base]? else none
def Grad.modReplica (g : Grad) (p : Nat) (f : Replica → Replica) : Grad := { g with replicas := g.replicas.modify (p - g.base) f }
def Replica.bucket? (r : Replica) (id round : Nat) : Option ActiveBucket := r.active.find? fun a => a.sent.id == id && a.round == round
def Replica.modBucket (r : Replica) (id : Nat) (f : ActiveBucket → ActiveBucket) : Replica :=
  { r with active := r.active.map fun a => if a.sent.id = id then f a else a }

/-- The bucket state emptied, with the round counters at 0 (R264, R266, R270). -/
def Grad.emptied (g : Grad) : Grad :=
  { g with replicas := g.replicas.map fun r => ⟨r.die, [], 0, 0, 0, [], 0, false⟩, chains := [], shardMsgs := [], waits := [],
           pinReleased := [false, false, false, false], pinSampled := [false, false, false, false] }

/-- Buckets discarded by a fence, a die reset or a broken cascade; the round counters stay (R282, R283). -/
def Grad.discarded (g : Grad) : Grad :=
  { g with replicas := g.replicas.map fun r => { r with queue := [], active := [], nextEnter := 0, nextDone := 0, orFlags := 0, orNonfinite := false },
           chains := [], shardMsgs := [], waits := [] }

/-- The pinned physical pages of a context's buckets: those accepted or in reduction, and those whose BUCKET_SEND waits (R268). -/
def Grad.pins (g : Grad) : List Nat :=
  (g.replicas.flatMap fun r => (r.queue ++ r.active.map fun a => a.sent).flatMap fun b => b.pages) ++ g.waits.flatMap fun w => w.2.2

/-! ## Configuration -/

/-- A command on a context that exists. -/
def State.onCtx (s : State) (h : CmdHdr) (ctx : Nat) (f : CtxId → Ctx → State) : State :=
  match s.ctx? (ctxOf ctx) with
  | some x => f (ctxOf ctx) x
  | none => s.complete h .badContext

/-- BUSY with a retry hint that the specification does not fix (R356). -/
def State.busy (s : State) (h : CmdHdr) : State :=
  let (n, s) := s.draw
  s.complete h .busy n

/-- RING_MAP (R264). -/
def execRingMap (h : CmdHdr) (p : RingMapP) (s : State) : Host.Outcome State Fault Refusal :=
  .next (s.host1 h (.ringMap p) fun s => s.onCtx h p.ctx fun n x =>
    let dies := (p.dies.take p.replicas).map fun d => (⟨d % 16, by omega⟩ : DieId)
    if s.running = some n then s.busy h
    else if p.replicas = 0 ∨ 16 < p.replicas ∨ ¬ dies.Nodup then s.complete h .badLength
    else if dies.any fun d => s.fenced (.c d) then s.complete h .dieFenced
    else
      let g := { x.grad with ring := some p, replicas := dies.map fun d => ⟨d, [], 0, 0, 0, [], 0, false⟩ }
      (s.putCtx n { x with grad := g.emptied }).complete h .done)

/-- GRAD_CONFIG (R266). -/
def execGradConfig (h : CmdHdr) (p : GradConfigP) (s : State) : Host.Outcome State Fault Refusal :=
  .next (s.host1 h (.gradConfig p) fun s => s.onCtx h p.ctx fun n x =>
    if p.bucketCount = 0 ∨ p.recBase % 128 ≠ 0 then s.complete h .badLength
    else if s.running = some n then s.busy h
    else (s.putCtx n { x with grad := { x.grad with cfg := some p }.emptied }).complete h .done)

/-- The fields of a CASCADE_CONFIG that have a range (R284). -/
def CascadeConfigP.inRange (p : CascadeConfigP) : Bool :=
  decide (1 ≤ p.devices) && decide (p.devices ≤ 8) && decide (p.index < p.devices) && decide (p.master < p.devices) && p.inbox % 2097152 == 0

/-- Whether the 16 MiB of an inbox lie in HBM pages of the context that no other context has sealed (R284). -/
def State.inboxOk (s : State) (n : CtxId) (v : Nat) : Bool :=
  decide (v + 2 ^ 24 ≤ 2 ^ 48) && (List.range 256).all fun i => match s.xlate n (v + 65536 * i) .hbmRead with
    | .ok _ => true
    | .error _ => false

/-- CASCADE_CONFIG; the master learns the ring from it and writes the map to every member (R284, R286). -/
def execCascadeConfig (h : CmdHdr) (p : CascadeConfigP) (s : State) : Host.Outcome State Fault Refusal :=
  .next (s.host1 h (.cascadeConfig p) fun s => s.onCtx h p.ctx fun n x =>
    let counts := (p.counts.take p.devices).map fun k => k + 1
    let master := p.index == p.master
    let own := (x.grad.ring.map fun r => r.replicas).getD 0
    if x.sealing.isSome then s.complete h .deniedSealed
    else if s.running = some n then s.busy h
    else if master && (128 < counts.sum || nthD 0 counts p.index ≠ own) then s.complete h .badLength
    else if !CascadeConfigP.inRange p || (p.devices ≠ 1 && !s.inboxOk n p.inbox) then s.complete h .reservedNonzero
    else if p.devices = 1 then (s.putCtx n { x with grad := { x.grad with casc := none } }).complete h .done
    else
      let peers := (List.range p.devices).filter fun d => d ≠ p.index
      let k : Cascade := ⟨p, if master then counts else [], master, false, 0, 0, [], peers.map fun d => (d, s.timeNs)⟩
      let s := s.putCtx n { x with grad := { x.grad with casc := some k } }
      let s := if master then peers.foldl (fun s d => s.send (.peerMap n d counts)) s else s
      s.complete h .done)

/-! ## BUCKET_SEND -/

/-- The fault of an operation that has no transfer open is held (R225, R226). -/
def State.holdOp (s : State) (c : CoreId) (u : Cur) (addr access reason done : Nat) : State :=
  let (id, s) := s.takeFaultId
  let s := s.modCore c fun k => { (k.modQueue u.q fun q =>
    { q with wait := .held id, run := q.run.map fun r => { r with suspended := true } }) with
    cur := if k.cur = some u.q then none else k.cur }
  let s := s.modCtx u.ctx fun y => { y with held := y.held ++ [⟨id, .op c u.q u.desc.opTag, .pageFault, addr, none⟩] }
  let s := s.modHbm fun h => { h with pageFaults := satAt 0xFFFF (h.pageFaults + 1) }
  s.event u.ctx 0x03 .pageFault id [(24, 8, addr % 2 ^ 48 + 2 ^ 48 * access + 2 ^ 50 * reason), (32, 8, done), (40, 1, 0),
    (41, 1, c.val), (42, 1, u.q.val), (44, 4, u.desc.opTag.toNat)]

/-- The physical addresses of the 64 KiB steps of a buffer, or the first step that faults (R268). -/
def State.pinSteps (s : State) (n : CtxId) (v : Nat) : Nat → Except (Nat × Reason) (List Nat)
  | 0 => .ok []
  | k + 1 =>
    match s.xlate n v .atomic, (s.ctxD n).pageAt v with
    | .ok _, some p => match s.pinSteps n (v / 65536 * 65536 + 65536) k with
      | .ok l => .ok ((p.target + (v / 65536 * 65536 - p.vaddr)) :: l)
      | .error e => .error e
    | .error r, _ => .error (v, r)
    | .ok _, none => .error (v, .notMapped)

/-- The pages that a BUCKET_SEND has pinned while it waits for its queue, or those that it pins now (R268). -/
def State.pinBucket (s : State) (u : Cur) (c : CoreId) (p : BucketP) : Except (Nat × Reason) (List Nat) :=
  match u.x.grad.waits.find? fun w => w.1 == c && w.2.1 == u.run.op with
  | some w => .ok w.2.2
  | none => s.pinSteps u.ctx p.addr ((p.addr % 65536 + p.size + 65535) / 65536)

/-- Whether the send queue of a replica takes a bucket: it has room, or the bucket is the one that is next in entry order and has not
been accepted (R268). -/
def Replica.takes (r : Replica) (id count : Nat) : Bool :=
  decide (r.queue.length < 64) || (decide (id = r.nextEnter % count) && !r.queue.any fun b => b.id == id)

/-- A BUCKET_SEND pins its buffer and ends once its bucket is accepted; a full queue makes it wait, but for the bucket that is
next in entry order (R268). -/
def execBucketSend (c : CoreId) (p : BucketP) (s : State) : Host.Outcome State Fault Refusal :=
  .next (match s.currentIs c (.bucketSend p) with
  | none => s
  | some u =>
    if u.run.endAt.isSome then s
    else match u.x.grad.cfg, (List.range u.x.grad.replicas.length).find? fun i => (u.x.grad.replicas.map fun r => r.die)[i]? == some c.die with
      | some g, some i =>
        match s.pinBucket u c p with
        | .error (v, r) => s.holdOp c u v 1 r.code 0
        | .ok pages =>
          let pos := u.x.grad.base + i
          match u.x.grad.replica? pos with
          | none => s
          | some r =>
            let others := u.x.grad.waits.filter fun w => !(w.1 == c && w.2.1 == u.run.op)
            if !r.takes p.bucket g.bucketCount then
              s.modCtx u.ctx fun x => { x with grad := { x.grad with waits := others ++ [(c, u.run.op, pages)] } }
            else
              let sig := if u.desc.sigEn then some (u.desc.sigCtr, u.desc.sigCore, u.desc.sigInc) else none
              let b : SentBucket := ⟨p.bucket, c, u.q, u.run.op, u.desc.opTag, sig, pages, p.addr⟩
              let s := s.modCtx u.ctx fun x =>
                { x with grad := { x.grad with waits := others }.modReplica pos fun r => { r with queue := r.queue ++ [b] } }
              let s := s.waited c u.x
              s.endOp c u.q (s.core c).cyc
      | _, _ => s)

/-! ## Contributions -/

/-- Where byte `i` of a bucket's buffer lies. -/
def State.bucketByte (s : State) (b : SentBucket) (i : Nat) : Nat × Nat :=
  let a := b.vaddr % 65536 + i
  placeOf s.hbm.dwi (nthD 0 b.pages (a / 65536) + a % 65536)

/-- The elements of a unit of a replica's buffer; none where HBM cannot supply them (R269). -/
def State.unitWords (s : State) (g : GradConfigP) (b : SentBucket) (unit : Nat) : Option (List Nat) :=
  let f := g.elem
  let at_ := fun (k : Nat) => s.bucketByte b (unit * g.unitBytes + k * f.bytes)
  if (List.range 1024).all fun k => s.hbmReadable (at_ k).1 (at_ k).2 then
    some ((List.range 1024).map fun k => leNat (readBytes s.hbm.mem (hbmKey (at_ k).1 (at_ k).2) f.bytes))
  else none

/-- The reads of a unit reset the ages of the frames that it lies in (R232). -/
def State.touchUnit (s : State) (g : GradConfigP) (b : SentBucket) (unit : Nat) : State :=
  [0, g.unitBytes - 1].foldl (fun s i =>
    let (d, o) := s.bucketByte b (unit * g.unitBytes + i)
    s.modHbm fun h => h.touch d o) s

/-- A bucket element widened to FP32, and whether it is NaN or infinite (R272, R277). -/
def widen (f : Fmt) (w : Nat) : Nat := toF32 (f.elem w)
def nonfinite (f : Fmt) (ws : List Nat) : Bool := ws.any fun w => !(f.elem w).isFinite

/-- The reduced element in the bucket format: one rounding with IEEE overflow (R272). -/
def reduceTo (f : Fmt) (x : Nat) : Nat := encodeTo f .rne true (f32 x)

/-- The sum of squares of a reduced unit, in element order; each square and each sum is rounded (R111, R273). -/
def unitSumsq (f : Fmt) (ws : List Nat) : Nat := ws.foldl (fun a w => f32Add a (f32Mul (widen f w) (widen f w))) 0

/-- The program of a bucket whose data HBM cannot supply stops (R213, R431). -/
def State.gradLost (s : State) (n : CtxId) (b o : Nat) : State :=
  s.faultOp n { status := .uncorrectableData, cls := 4, struct_ := 0x05, die := 16 + b, address := dpaOf s.hbm.dwi b o } [s.hbm.body b o]

/-- The first byte of a unit of a bucket that HBM cannot supply, or the unit's first byte. -/
def State.lostByte (s : State) (g : GradConfigP) (b : SentBucket) (unit : Nat) : Nat × Nat :=
  let at_ := fun (k : Nat) => s.bucketByte b (unit * g.unitBytes + k * g.elem.bytes)
  at_ (((List.range 1024).find? fun k => !s.hbmReadable (at_ k).1 (at_ k).2).getD 0)

/-- A change of a context's gradient state. -/
def State.modGrad (s : State) (n : CtxId) (f : Grad → Grad) : State := s.modCtx n fun x => { x with grad := f x.grad }

/-! ## Chains -/

/-- A chain leaves position `p` for the next one with its sums, or its owner with the reduced unit (R272). -/
def nextHop (g : GradConfigP) (total bucket round unit p flags : Nat) (sums : List Nat) : Chain :=
  let owner := shardOf g.units total unit
  let to_ := (p + 1) % total
  if to_ = owner then ⟨bucket, round, unit, to_, true, flags, sums.map fun x => BitVec.ofNat 32 (reduceTo g.elem x), none⟩
  else ⟨bucket, round, unit, to_, false, flags, sums.map fun x => BitVec.ofNat 32 x, none⟩

/-- The stop of a ring position: its bed's, or the easel die's for a replica of another device (R278, R285). -/
def Grad.stopOf (g : Grad) (p : Nat) : Fin 5 :=
  match g.replica? p with
  | some r => stopOfBed r.die.bed
  | none => easelStop

/-- The flow of a channel; none for P4 traffic (R266, R278). -/
def GradConfigP.flowOf (g : GradConfigP) (bucket : Nat) : Option Nat :=
  let f := nthD 0xFFFF g.flows (bucket % 4)
  if f = 0xFFFF then none else some f

/-- A chain leaves a stop for its next position: over the mesh of the same bed, else as a packet in the flow of its channel (R278). The
packet's payload is the chain's sums. -/
def State.sendChain (s : State) (n : CtxId) (g : GradConfigP) (src : Fin 5) (k : Chain) : State :=
  let dst := (s.ctxD n).grad.stopOf k.to_
  if src = dst then s.modGrad n fun r => { r with chains := r.chains ++ [k] }
  else
    let id := s.fabric.nextId
    let flow := GradConfigP.flowOf g k.bucket
    let p : Pkt := { id := id, ctx := n, xfer := id, seq := 0, flow := flow, vc := if flow.isSome then 0 else 2, pos := .queued 0 0, tile := k.unit,
                     hops := 0, dst := dst, drops := [], members := [], bytes := [] }
    let s := s.modFabric fun f => { f with nextId := id + 1 }
    (s.modGrad n fun r => { r with chains := r.chains ++ [{ k with pkt := some id }] }).enqueue p src false

/-- The chain of a unit of the owned shard starts at its owner `p` (R272, R277). -/
def State.startChain (s : State) (n : CtxId) (g : GradConfigP) (p : Nat) (a : ActiveBucket) (unit : Nat) : State :=
  match s.unitWords g a.sent unit with
  | none => s.gradLost n (s.lostByte g a.sent unit).1 (s.lostByte g a.sent unit).2
  | some ws =>
    let flags := if nonfinite g.elem ws then 2 ^ p else 0
    let r := (s.ctxD n).grad
    (s.touchUnit g a.sent unit).sendChain n g (r.stopOf p) (nextHop g r.total a.sent.id a.round unit p flags (ws.map fun w => widen g.elem w))

/-- The chains of the units of a position's shard that have not landed start (R272, R281). -/
def State.startShard (s : State) (n : CtxId) (p : Nat) (a : ActiveBucket) : State :=
  match (s.ctxD n).grad.cfg with
  | none => s
  | some g =>
    let us := (shardUnits g.units (s.ctxD n).grad.total p).filter fun u => (assoc? u a.landed).isNone
    us.foldl (fun s u => s.startChain n g p a u) s

/-- The lines of a bucket's record, and of the round record with the last bucket (R275). -/
def recordLines (g : GradConfigP) (id : Nat) : List Nat :=
  (if id + 1 = g.bucketCount then [lineOf g.recBase] else []) ++ [lineOf (g.recBase + 64 * (id + 1))]

/-- The record lines of a bucket marked wet on its replica (R275). -/
def State.markRecord (s : State) (g : GradConfigP) (b : SentBucket) : State :=
  s.markWet b.core.die b.core b.queue b.op b.opTag (s.core b.core).cyc ((recordLines g b.id).dedup.map fun l => (l, none))

/-- The pin of a channel is released once every local replica has entered the bucket (R287). -/
def Grad.pace (g : Grad) (id : Nat) : Grad :=
  let c := id % 4
  let all := g.replicas.all fun r => r.active.any fun a => a.sent.id == id
  let g := if (g.replicas.filter fun r => r.active.any fun a => a.sent.id == id).length = 1 then
    { g with pinSampled := g.pinSampled.set c false } else g
  if all then { g with pinReleased := g.pinReleased.set c true } else g

/-- A gradient event of the running context, where its program goes on. -/
def State.gradOn (s : State) (n : CtxId) (f : Ctx → GradConfigP → State) : State :=
  if !s.ticking || s.running ≠ some n then s
  else match s.ctx? n with
    | none => s
    | some x => match x.grad.cfg with
      | none => s
      | some g => if ((x.exec.map fun e => e.stopSt.isSome).getD false) then s else f x g

/-- The next accepted bucket in id order enters reduction on its channel (R270, R272, R275, R286, R287). -/
def execBucketEnter (n : CtxId) (pos : Nat) (s : State) : Host.Outcome State Fault Refusal :=
  .next (s.gradOn n fun x g =>
    match x.grad.replica? pos with
    | none => s
    | some r =>
      let id := r.nextEnter
      let mapped := (x.grad.casc.map fun k => k.mapReceived && !k.broken).getD true
      match r.queue.find? fun b => b.id == id with
      | none => s
      | some b =>
        if !mapped || (4 ≤ id && r.nextDone ≤ id - 4) then s
        else
          let a : ActiveBucket := ⟨b, r.round, [], 0, false, []⟩
          let s := s.modGrad n fun q => (q.modReplica pos fun r =>
            { r with queue := r.queue.erase b, active := r.active ++ [a], nextEnter := id + 1 }).pace id
          (s.markRecord g b).startShard n pos a)

/-- A shard's sum of squares and flag word sent to every replica of the ring (R273, R285). -/
def State.sendShard (s : State) (n : CtxId) (p : Nat) (a : ActiveBucket) (sumsq : Nat) : State :=
  let g := (s.ctxD n).grad
  let v := BitVec.ofNat 32 sumsq
  let mine := (List.range g.replicas.length).map fun i =>
    (⟨a.sent.id, a.round, p, g.base + i, v, a.flags, a.reducedNonfinite⟩ : ShardMsg)
  let s := s.modGrad n fun g => { g with shardMsgs := g.shardMsgs ++ mine }
  match g.casc with
  | some k => ((List.range k.cfg.devices).filter fun d => d ≠ k.cfg.index).foldl
      (fun s d => s.send (.peerWrite n d (.sumsq a.sent.id a.round p v a.flags a.reducedNonfinite))) s
  | none => s

/-- A reduced unit lands over the owner's elements; the last one of the shard sends its sum of squares (R272, R273, R277). -/
def State.landUnit (s : State) (n : CtxId) (g : GradConfigP) (p : Nat) (a : ActiveBucket) (k : Chain) : State :=
  if (assoc? k.unit a.landed).isSome then s
  else
    let f := g.elem
    let ws := k.vals.map fun w => w.toNat
    let put := fun (s : Option State) (e : Nat × Nat) => s.bind fun s =>
      let (b, o) := s.bucketByte a.sent (k.unit * g.unitBytes + e.1 * f.bytes)
      s.hbmWrite b o (leBytes f.bytes e.2) false
    match (ws.zipIdx.map fun e => (e.2, e.1)).foldl put (some s) with
    | none =>
      let (b, o) := s.bucketByte a.sent (k.unit * g.unitBytes)
      s.gradLost n b o
    | some s =>
      let a := { a with landed := a.landed ++ [(k.unit, BitVec.ofNat 32 (unitSumsq f ws))], flags := a.flags ||| k.flags,
                        reducedNonfinite := a.reducedNonfinite || nonfinite f ws }
      let units := shardUnits g.units (s.ctxD n).grad.total p
      let whole := units.all fun u => (assoc? u a.landed).isSome
      let s := s.modGrad n fun q => q.modReplica p fun r => r.modBucket a.sent.id fun _ => a
      if whole then
        let sum := units.foldl (fun t u => f32Add t ((assoc? u a.landed).getD 0).toNat) 0
        s.sendShard n p a sum
      else s

/-- Whether the chains of a bucket may cross to another device (R286, R287). -/
def Grad.mayCross (g : Grad) (k : Chain) : Bool :=
  nthD false g.pinSampled (k.bucket % 4) && (match g.casc with
    | some c => decide (k.round ≤ c.roundStarted)
    | none => false)

/-- A chain packet that has come to its next ring position: the replica there adds its contribution, or the reduced unit lands; a packet
for another device crosses PCIe once its channel is paced (R272, R277, R285 to R287). It waits where the bucket has not entered. -/
def execChainPacket (i : Nat) (s : State) : Host.Outcome State Fault Refusal :=
  .next (match s.running with
  | none => s
  | some n => s.gradOn n fun x g =>
    match x.grad.chains[i]? with
    | none => s
    | some k =>
      if k.pkt.isSome then s else
      let taken := s.modGrad n fun q => { q with chains := q.chains.eraseIdx i }
      match x.grad.replica? k.to_ with
      | none =>
        if x.grad.mayCross k then
          let msg := if k.last then CascMsg.reduced k.bucket k.round k.unit k.flags (k.vals.map fun w => w.toNat)
            else .chain k.bucket k.round k.unit k.flags k.vals k.to_
          taken.send (.peerWrite n (x.grad.deviceOf k.to_) msg)
        else s
      | some r => match r.bucket? k.bucket k.round with
        | none => s
        | some a =>
          if k.last then taken.landUnit n g k.to_ a k
          else match taken.unitWords g a.sent k.unit with
            | none => taken.gradLost n (taken.lostByte g a.sent k.unit).1 (taken.lostByte g a.sent k.unit).2
            | some ws =>
              let sums := (k.vals.zip ws).map fun e => f32Add e.1.toNat (widen g.elem e.2)
              let flags := if nonfinite g.elem ws then k.flags ||| 2 ^ k.to_ else k.flags
              (taken.touchUnit g a.sent k.unit).sendChain n g (x.grad.stopOf k.to_)
                (nextHop g x.grad.total k.bucket k.round k.unit k.to_ flags sums))

/-- A shard's sum of squares and flag word reach a replica (R273). -/
def execShardSumsqArrival (i : Nat) (s : State) : Host.Outcome State Fault Refusal :=
  .next (match s.running with
  | none => s
  | some n => s.gradOn n fun x _ =>
    match x.grad.shardMsgs[i]? with
    | none => s
    | some m => match (x.grad.replica? m.to_).bind fun r => r.bucket? m.bucket m.round with
      | none => s
      | some a =>
        let shards := if a.shards.any fun e => e.1 == m.shard then a.shards else a.shards ++ [(m.shard, m.sumsq, m.flags, m.nonfin)]
        s.modGrad n fun q => { (q.modReplica m.to_ fun r => r.modBucket m.bucket fun a => { a with shards := shards }) with
          shardMsgs := q.shardMsgs.eraseIdx i })

/-! ## Completion -/

/-- A bucket record or a round record (R275). -/
def gradRecord (id round sumsq total flags : Nat) (nonfin : Bool) : List Byte :=
  record 64 [(0, 4, id), (4, 4, round), (8, 4, sumsq), (12, 1, total), (16, 16, flags), (32, 1, bitOf nonfin)]

/-- The master starts the next round once its last replica has completed a round (R286). -/
def State.startRound (s : State) (n : CtxId) : State :=
  let g := (s.ctxD n).grad
  match g.casc with
  | some k =>
    let low := (g.replicas.map fun r => r.round).foldl min ((g.replicas.head?.map fun r => r.round).getD 0)
    if k.cfg.index = k.cfg.master ∧ k.roundStarted < low then
      let s := s.modGrad n fun g => { g with casc := g.casc.map fun k => { k with roundStarted := low } }
      ((List.range k.cfg.devices).filter fun d => d ≠ k.cfg.index).foldl (fun s d => s.send (.peerRound n d low)) s
    else s
  | none => s

/-- The operation of a completed bucket completes: its marks clear and its signal is applied (R163, R276). -/
def State.bucketDone (s : State) (n : CtxId) (b : SentBucket) : State :=
  let s := s.modCore b.core fun k => { k with trailing := k.trailing.filter fun t => t.op ≠ b.op }
  let s := s.clearMarks b.core b.queue b.op
  let s := match b.sig with
    | some (ctr, core, inc) => s.applySignal n ctr core inc
    | none => s
  s.finishExec n

/-- A bucket completes on its replica, in id order: its record, at the end of the round the round record, and its signal
(R271, R273, R275 to R277). -/
def execBucketComplete (n : CtxId) (pos : Nat) (s : State) : Host.Outcome State Fault Refusal :=
  .next (s.gradOn n fun x g =>
    match x.grad.replica? pos with
    | none => s
    | some r => match r.bucket? r.nextDone r.round with
      | none => s
      | some a =>
        let total := x.grad.total
        let parts := (List.range total).map fun j => a.shards.find? fun e => e.1 == j
        let ended := (s.core a.sent.core).trailing.any fun t => t.op == a.sent.op
        if !(parts.all fun e => e.isSome) || !ended then s
        else
          let vs := parts.filterMap id
          let sum := vs.foldl (fun t e => f32Add t e.2.1.toNat) 0
          let flags := vs.foldl (fun t e => t ||| e.2.2.1) 0
          let nonfin := vs.any fun e => e.2.2.2
          let id := a.sent.id
          let lastB := id + 1 = g.bucketCount
          let put := fun (s : State) (off : Nat) (bs : List Byte) =>
            s.modSlice r.die fun k => { k with mem := writeBytes k.mem (g.recBase + off) bs }
          let s := put s (64 * (id + 1)) (gradRecord id r.round sum total flags nonfin)
          let s := if lastB then put s 0 (gradRecord g.bucketCount r.round 0 total (r.orFlags ||| flags) (r.orNonfinite || nonfin)) else s
          let s := s.modGrad n fun q => q.modReplica pos fun r =>
            let left := r.active.filter fun b => b.sent.id ≠ id
            if lastB then { r with active := left, nextDone := 0, nextEnter := 0,
                                   round := (r.round + 1) % 2 ^ 32, orFlags := 0, orNonfinite := false }
            else { r with active := left, nextDone := id + 1,
                          orFlags := r.orFlags ||| flags, orNonfinite := r.orNonfinite || nonfin }
          let bad := flags ≠ 0 || nonfin
          let s := if bad then { s with regs := { s.regs with gradNonfinite := true } } else s
          let s := if bad then s.modCtx n fun x => { x with exec := x.exec.map fun e => { e with nonfinite := true } } else s
          let s := if lastB then s.startRound n else s
          s.bucketDone n a.sent)

/-! ## The cascade -/

/-- A change of a context's cascade. -/
def State.modCasc (s : State) (n : CtxId) (f : Cascade → Cascade) : State := s.modGrad n fun g => { g with casc := g.casc.map f }

/-- The cascade of a context is broken: its program stops with BARRIER_BROKEN and its buckets are discarded (R288). -/
def State.breakCascade (s : State) (n : CtxId) : State :=
  let s := (s.modCasc n fun k => { k with broken := true }).modGrad n Grad.discarded
  let s := { s with regs := { s.regs with cascBroken := true } }
  let s := s.faultOp n { status := .barrierBroken, cls := 4, struct_ := 0x10 } []
  if s.running = some n then s else s.endExec n

/-- Whether the device takes posted writes of its peers: it is operational, and memory writes are not dropped (R341, R462, R486). -/
def State.inboxOpen (s : State) : Bool :=
  s.host.operational && s.clk.booted && !s.clk.inReset && !s.clk.warming && !s.clk.tripped && !s.dbg.frozen

/-- A chain from another device goes from the easel die to its position (R285). -/
def State.takeChain (s : State) (n : CtxId) (k : Chain) : State :=
  match (s.ctxD n).grad.cfg with
  | some g => s.sendChain n g easelStop k
  | none => s

/-- A peer's posted write reaches the inbox of a context (R285, R288). -/
def execCascInboxWrite (n : CtxId) (msg : CascMsg) (s : State) : Host.Outcome State Fault Refusal :=
  .next (match (s.ctxD n).grad.casc with
  | none => s
  | some k =>
    if k.broken || !s.inboxOpen then s
    else match msg with
      | .chain b r u f v to_ => s.takeChain n ⟨b, r, u, to_, false, f, v, none⟩
      | .reduced b r u f v =>
        let g := (s.ctxD n).grad
        let owner := (g.cfg.map fun c => shardOf c.units g.total u).getD 0
        s.takeChain n ⟨b, r, u, owner, true, f, v.map fun w => BitVec.ofNat 32 w, none⟩
      | .sumsq b r j v f nf => s.modGrad n fun g =>
          let ms := (List.range g.replicas.length).map fun i => (⟨b, r, j, g.base + i, v, f, nf⟩ : ShardMsg)
          { g with shardMsgs := g.shardMsgs ++ ms }
      | .heartbeat d c =>
        let s := s.stamp
        if assoc? d k.hbSeen = some c then s
        else s.modCasc n fun k => { k with hbSeen := assocSet d c k.hbSeen, hbAt := assocSet d s.timeNs k.hbAt }
      | .broken => s.breakCascade n)

/-- The master's ring map, as the replicas of each device, reaches a member (R286). -/
def execCascMapArrival (n : CtxId) (counts : List Nat) (s : State) : Host.Outcome State Fault Refusal :=
  .next (if !s.inboxOpen then s else s.modCasc n fun k => if k.cfg.index = k.cfg.master then k else { k with counts := counts, mapReceived := true })

/-- The master's round-start word reaches a member (R286). -/
def execCascRoundStart (n : CtxId) (round : Nat) (s : State) : Host.Outcome State Fault Refusal :=
  .next (if !s.inboxOpen then s else s.modCasc n fun k => if k.cfg.index = k.cfg.master then k else { k with roundStarted := max k.roundStarted round })

/-- A hatch pin of the cascade, which this device has released, is sampled released; the device pulls it low again (R287). -/
def execCascHatchRelease (chan : Fin 4) (s : State) : Host.Outcome State Fault Refusal :=
  .next (match s.runCtx with
  | none => s
  | some (n, x) =>
    if x.grad.casc.isSome && nthD false x.grad.pinReleased chan.val then
      s.modGrad n fun g => { g with pinSampled := g.pinSampled.set chan.val true, pinReleased := g.pinReleased.set chan.val false }
    else s)

/-- The contexts in a cascade that is not broken. -/
def State.cascades (s : State) : List (CtxId × Cascade) :=
  s.ctxs.filterMap fun e => match e.2.grad.casc with
    | some k => if k.broken then none else some (e.1, k)
    | none => none

/-- The peers that watch this device's heartbeat: the master, or every member (R288). -/
def Cascade.watchers (k : Cascade) : List Nat :=
  if k.cfg.index = k.cfg.master then (List.range k.cfg.devices).filter fun d => d ≠ k.cfg.index else [k.cfg.master]

/-- Every 100 µs the device writes its heartbeat counter to the peers that watch it (R288). -/
def execCascHeartbeat (s : State) : Host.Outcome State Fault Refusal :=
  .next (if !s.ticking then s else
  s.cascades.foldl (fun s e =>
    let s := e.2.watchers.foldl (fun s d => s.send (.peerWrite e.1 d (.heartbeat e.2.cfg.index (e.2.hbCount + 1)))) s
    s.modCasc e.1 fun k => { k with hbCount := k.hbCount + 1 }) s)

/-- A heartbeat that this device watches has not changed for 1 ms: the master tells every other member, and the cascade is broken
here (R288). -/
def execCascHeartbeatLoss (dev : Nat) (s : State) : Host.Outcome State Fault Refusal :=
  .next (if !s.ticking then s else
  s.cascades.foldl (fun s e =>
    if dev ∈ e.2.watchers then
      let s := { s with timeNs := max s.timeNs ((assoc? dev e.2.hbAt).getD 0 + 1000000) }
      let s := if e.2.cfg.index = e.2.cfg.master then
        (e.2.watchers.filter fun d => d ≠ dev).foldl (fun s d => s.send (.peerWrite e.1 d .broken)) s else s
      s.breakCascade e.1
    else s) s)

/-! ## Stops and resumes -/

/-- Chains in flight discarded by a pre-emption: those that this device owns and starts again (R281). -/
def Grad.halted (g : Grad) : Grad :=
  match g.cfg with
  | some c => { g with chains := g.chains.filter fun k => !g.isLocal (shardOf c.units g.total k.unit) }
  | none => g

/-- The chains of units that have not landed run again, and record lines are wet again (R281, R275). -/
def State.restartGrad (s : State) (n : CtxId) : State :=
  let g := (s.ctxD n).grad
  match g.cfg with
  | none => s
  | some c => (List.range g.replicas.length).foldl (fun s i =>
      match g.replicas[i]? with
      | none => s
      | some r => r.active.foldl (fun s a => (s.markRecord c a.sent).startShard n (g.base + i) a) s) s

end Sys2Proof.Machine
end

