-- ==== Sys2Proof/Machine/MemCmds.lean ====
section
/-! DEFINITION. Meanings of the memory commands: MAP, UNMAP, COPY, FILL, AGE_SCAN, EVICT, MEM_CONFIG_WRITE and FRAME_SCRUB
(R218 to R234, R364, R412, R413). -/

namespace Sys2Proof.Machine

open Sys2Proof

/-! ## Commands that wait -/

/-- Whether a command has started and has not completed. -/
def HostIf.inProgress (i : HostIf) (h : CmdHdr) (c : HostCmd) : Bool := i.fetched.any fun f => f.hdr = h && f.cmd = c && f.started

/-- A command that may have to wait for the device after its start: `wait` says while it does; it keeps its place. -/
def State.host2 (s : State) (h : CmdHdr) (c : HostCmd) (wait : State → Bool) (body : State → State) : State :=
  let begun := s.host.inProgress h c
  if s.live && (begun || s.host.ready h c) then
    s.gate h c begun fun s => if wait s then (if begun then s else s.start h c) else body s
  else s

/-! ## Pages -/

/-- The parts of frames that a page takes, by seal key (R413). -/
def Page.parts (p : Page) (units : Nat) : List Nat :=
  if p.far then []
  else (List.range (p.size / 65536)).flatMap fun i => (List.range 4).map fun j =>
    let (b, o) := placeOf units (p.target + 65536 * i + (if bit p.target 40 then 4096 else 16384) * j)
    sealKey b o

/-- Units of 64 KiB that a context's mappings use (R231). -/
def Ctx.used (x : Ctx) : Nat := (x.pages.map fun p => if p.far then 0 else p.size / 65536).sum
/-- The quota of a context (R231). -/
def State.quota (s : State) (n : CtxId) : Nat := sget 0xC00000 s.hbm.quotas n.val

/-- Whether two runs of bytes meet. -/
def meets (a n b m : Nat) : Bool := a < b + m && b < a + n

/-- Whether a page of a context is pinned: by a bucket (R268) or by an HBM ring (R348). -/
def State.pinned (s : State) (n : CtxId) (p : Page) : Bool :=
  (!p.far && ((s.ctxD n).grad.pins.any fun d => p.target ≤ d && d < p.target + p.size)) ||
  (s.host.rings.any fun e => e.1.1 == n && e.2.pins.any fun v => p.vaddr ≤ v && v < p.vaddr + p.size) ||
  (s.host.events.any fun e => e.1 == n && e.2.pins.any fun v => p.vaddr ≤ v && v < p.vaddr + p.size)

/-- Whether a tile in flight was translated through a page (R222). -/
def State.translating (s : State) (n : CtxId) (p : Page) : Bool :=
  let parts := p.parts s.hbm.dwi
  let inPart := fun (q : Place) => match q with
    | .hbm b o => decide (sealKey b.val o ∈ parts)
    | .far a _ _ _ => p.far && p.target ≤ a && a < p.target + p.size
    | _ => false
  s.fabric.xfers.any fun x => x.ctx == n && x.pieces.any fun q => !q.settled && (inPart q.src || inPart q.dst)

/-- The open range of a sealed context (R411). -/
def Ctx.inOpen (x : Ctx) (v : Nat) : Bool :=
  match x.sealing with
  | some k => k.openBase ≤ v && v < k.openBase + k.openSize
  | none => false

/-! ## MAP -/

/-- The page of a mapping record. -/
def MapP.page (p : MapP) (i : Nat) : Page :=
  let k := if p.big then 2097152 else 65536
  ⟨p.vaddr + i * k, p.big, p.far, p.wr, p.ns, p.at_, p.target + i * k⟩
def MapP.size (p : MapP) : Nat := if p.big then 2097152 else 65536

/-- Whether HBM bytes `[t, t + n)` are populated, outside the device region and not lost to a fence (R210, R219, R221, R439). -/
def State.mappable (s : State) (t n : Nat) : Bool :=
  let h := s.hbm
  populated h.dwi t && populated h.dwi (t + n - 1) && (bit t 40 || t / 2 ^ 38 == (t + n - 1) / 2 ^ 38) &&
  (bit t 40 || !meets t n (h.devBase * 2 ^ 21) (h.devSize * 2 ^ 21)) && t + n ≤ 2 ^ 41 &&
  (if bit t 40 then !h.dwLost else !s.fenced (.b ⟨t / 2 ^ 38 % 4, by omega⟩))

/-- The reason for which MAP refuses its record (R221); none where it maps. -/
def State.mapReason (s : State) (n : CtxId) (x : Ctx) (p : MapP) : Option Nat :=
  let bytes := p.count * MapP.size p
  let pages := (List.range p.count).map (MapP.page p)
  let units := s.hbm.dwi
  if x.pages.any fun q => meets p.vaddr bytes q.vaddr q.size ∨
      (q.big ≠ p.big ∧ meets (p.vaddr / 2097152 * 2097152) (roundUp (p.vaddr % 2097152 + bytes) 2097152) (q.vaddr / 2097152 * 2097152) 2097152 ∧
        meets p.vaddr bytes q.vaddr q.size) then some 1
  else if !p.far && !s.mappable p.target bytes then some 2
  else if !p.far && s.quota n < x.used + bytes / 65536 then some 3
  else if pages.any fun q => (q.parts units).any fun k => match assoc? k s.hbm.sealedFrames with
      | some c => decide (c ≠ n)
      | none => false then some 4
  else if x.sealing.isSome && ((p.far && p.wr) || s.ctxs.any fun e => e.1 ≠ n && e.2.pages.any fun q =>
      !p.far && !q.far && pages.any fun r => (r.parts units).any fun k => decide (k ∈ q.parts units)) then some 5
  else none

/-- The frames of new pages sealed to a sealing or sealed context, but for its open range (R412); parts of them that waited
for scrubbing stay. -/
def State.sealPages (s : State) (n : CtxId) (x : Ctx) (ps : List Page) : State :=
  if x.sealing.isNone then s
  else
    let parts := (ps.filter fun p => !x.inOpen p.vaddr).flatMap fun p => p.parts s.hbm.dwi
    s.modHbm fun h => { h with sealedFrames := h.sealedFrames ++ (parts.filter fun k => (assoc? k h.sealedFrames).isNone).map fun k => (k, n),
                               scrubbing := h.scrubbing.filter fun k => k ∉ parts }

/-- Pages in address order. -/
def insertPage (p : Page) : List Page → List Page
  | [] => [p]
  | q :: qs => if p.vaddr < q.vaddr then p :: q :: qs else q :: insertPage p qs

/-- MAP: every page or none; where the device region runs out of room, the pages that fit (R220, R221, R507). -/
def execMap (h : CmdHdr) (p : MapP) (s : State) : Host.Outcome State Fault Refusal :=
  .next (s.host1 h (.map p) fun s => s.onCtx h p.ctx fun n x =>
    let k := MapP.size p
    let s := s.modHbm fun m => { m with locked := true }
    if p.vaddr % k ≠ 0 ∨ p.target % k ≠ 0 ∨ 2 ^ 48 < p.vaddr + p.count * k ∨ (p.far ∧ 2 ^ 64 < p.target + p.count * k) then
      s.complete h .badLength
    else match s.mapReason n x p with
      | some r => s.complete h .accessDenied r
      | none =>
        let room := Config.mapRoom s.hbm.devSize ((s.ctxs.map fun e => e.2.pages.length).sum)
        let m := min p.count room
        let ps := (List.range m).map (MapP.page p)
        let s := (s.putCtx n { x with pages := ps.foldl (fun l q => insertPage q l) x.pages }).sealPages n x ps
        s.complete h (if m < p.count then .donePartial else .done) m)

/-! ## UNMAP and scrubbing -/

/-- The sealed parts of removed pages that no mapping of the context holds any more are sent to scrubbing (R413). -/
def State.toScrub (s : State) (n : CtxId) (gone : List Page) : State :=
  let kept := (s.ctxD n).pages.flatMap fun p => p.parts s.hbm.dwi
  let parts := (gone.flatMap fun p => p.parts s.hbm.dwi).filter fun k => k ∉ kept && assoc? k s.hbm.sealedFrames = some n
  s.modHbm fun h => { h with scrubbing := h.scrubbing ++ (parts.dedup.filter fun k => k ∉ h.scrubbing) }

/-- The pages of a context that a range touches. -/
def Ctx.pagesIn (x : Ctx) (v n : Nat) : List Page := x.pages.filter fun p => meets v n p.vaddr p.size

/-- UNMAP: every mapped page of its range, once nothing is in flight through one and none is pinned (R222, R268, R348). -/
def execUnmap (h : CmdHdr) (p : RangeP) (s : State) : Host.Outcome State Fault Refusal :=
  let bad := fun (x : Ctx) => p.vaddr % 65536 ≠ 0 ∨ p.length % 65536 ≠ 0 ∨ 2 ^ 48 < p.vaddr + p.length ∨
    (x.pagesIn p.vaddr p.length).any fun q => q.vaddr < p.vaddr || p.vaddr + p.length < q.vaddr + q.size
  .next (s.host2 h (.unmap p)
    (fun s => match s.ctx? (ctxOf p.ctx) with
      | some x => !decide (bad x) && (x.pagesIn p.vaddr p.length).any fun q => s.pinned (ctxOf p.ctx) q || s.translating (ctxOf p.ctx) q
      | none => false)
    fun s => s.onCtx h p.ctx fun n x =>
      if bad x then s.complete h .badLength
      else
        let gone := x.pagesIn p.vaddr p.length
        let s := (s.putCtx n { x with pages := x.pages.filter fun q => q ∉ gone }).toScrub n gone
        let s := s.dropEntries n fun v => gone.any fun q => q.vaddr == v
        s.complete h .done gone.length)

/-- In the background a sealed frame is overwritten with zeros and becomes unsealed (R413). -/
def execFrameScrub (s : State) : Host.Outcome State Fault Refusal :=
  .next (if !s.clk.booted || s.clk.inReset || s.clk.tripped || s.dbg.frozen then s else
  match s.hbm.scrubbing with
  | [] => s
  | k :: _ =>
    let parts := s.hbm.scrubbing.filter fun j => j / 128 = k / 128
    s.modHbm fun h => { h with
      mem := parts.foldl (fun m j => sclear m (hbmKey (j / 2 ^ 24) (j % 2 ^ 24 * 16384)) 16384) h.mem,
      sealedFrames := h.sealedFrames.filter fun e => e.1 ∉ parts, scrubbing := h.scrubbing.filter fun j => j ∉ parts })

/-! ## COPY and FILL -/

/-- Whether a byte of a virtual range lies in a page sealed to a context. -/
def State.anySealed (s : State) (x : Ctx) (v n : Nat) : Bool :=
  (x.pagesIn v n).any fun p => (p.parts s.hbm.dwi).any fun k => (assoc? k s.hbm.sealedFrames).isSome

/-- COPY (R364): the limits of its fields, sealed data kept in its context, IDE where the context asks for it; then its transfer
begins, unless the copies of the command front end's control state disagree, as `check` says (R352, R428). -/
def execCopy (h : CmdHdr) (p : CopyP) (check : Bool) (s : State) : Host.Outcome State Fault Refusal :=
  .next (s.host1 h (.copy p) fun s => s.onCtx h p.ctx fun n x =>
    let top := fun (host : Bool) => if host then 2 ^ 64 else 2 ^ 48
    let farSrc := !p.srcHost && (x.pagesIn p.src p.length).any fun q => q.far && !s.ideCovers (q.target + (max p.src q.vaddr - q.vaddr))
    let farDst := (x.pagesIn p.dst p.length).any fun q => q.far
    if p.src % 64 ≠ 0 ∨ p.dst % 64 ≠ 0 ∨ p.length % 64 ≠ 0 ∨ p.length = 0 ∨ 2 ^ 40 - 64 < p.length ∨
        top p.srcHost < p.src + p.length ∨ top p.dstHost < p.dst + p.length then s.complete h .badLength
    else if !p.srcHost && s.anySealed x p.src p.length && (p.dstHost || farDst) then s.complete h .deniedSealed
    else if x.ideRequired && ((p.srcHost && !s.ideCovers p.src) || farSrc) then s.complete h .accessDenied
    else if check then s.cmdCheck h n 0x0A 31
    else (s.start h (.copy p)).openCmd n (.copy h p) p.length)

/-- FILL: the pattern over the range (R364), with `check` as COPY has it. -/
def execFill (h : CmdHdr) (p : FillP) (check : Bool) (s : State) : Host.Outcome State Fault Refusal :=
  .next (s.host1 h (.fill p) fun s => s.onCtx h p.ctx fun n _ =>
    if p.dst % 64 ≠ 0 ∨ p.length % 64 ≠ 0 ∨ p.length = 0 ∨ 2 ^ 40 - 64 < p.length ∨ 2 ^ 48 < p.dst + p.length then s.complete h .badLength
    else if check then s.cmdCheck h n 0x0A 31
    else (s.start h (.fill p)).openCmd n (.fill h p) p.length)

/-! ## AGE_SCAN -/

/-- The age of a frame (R232). -/
def Hbm.age (h : Hbm) (frame : Nat) : Nat := min 255 (h.scans - sget 0 h.touched frame)

/-- The entries of one context: virtual 2 MiB ranges with their lowest ages, by rising address (R233). -/
def State.ageEntries (s : State) (n : CtxId) (x : Ctx) (threshold : Nat) : List (Nat × Nat × Nat) :=
  let hbm := x.pages.filter fun p => !p.far
  let ranges := (hbm.map fun p => p.vaddr / 2097152).dedup
  ranges.filterMap fun r =>
    let frames := (hbm.filter fun p => p.vaddr / 2097152 = r).map fun p => p.target / 2 ^ 21
    let age := (frames.map s.hbm.age).foldl min 255
    if threshold ≤ age then some (age, n.val, r) else none

/-- Entries by descending age, then by context, then by address. -/
def ageBefore (a b : Nat × Nat × Nat) : Bool := b.1 < a.1 || (a.1 == b.1 && (a.2.1 < b.2.1 || (a.2.1 == b.2.1 && a.2.2 ≤ b.2.2)))
def insertAge (a : Nat × Nat × Nat) : List (Nat × Nat × Nat) → List (Nat × Nat × Nat)
  | [] => [a]
  | b :: l => if ageBefore a b then a :: b :: l else b :: insertAge a l

/-- AGE_SCAN: every age rises, and the old ranges are reported (R232, R233). -/
def execAgeScan (h : CmdHdr) (p : AgeScanP) (s : State) : Host.Outcome State Fault Refusal :=
  .next (s.host1 h (.ageScan p) fun s =>
    let named := if p.all then s.ctxs else s.ctxs.filter fun e => e.1 = ctxOf p.ctx
    if !p.all && named.isEmpty then s.complete h .badContext
    else if p.size % 8 ≠ 0 then s.complete h .badLength
    else
      let s := s.modHbm fun m => { m with scans := m.scans + 1 }
      let all := (named.flatMap fun e => s.ageEntries e.1 e.2 p.threshold).foldl (fun l e => insertAge e l) []
      let fit := all.take (p.size / 8)
      let bs := fit.flatMap fun e => leBytes 8 (e.2.1 + 2 ^ 12 * e.2.2 + 2 ^ 39 * e.1)
      let s := if bs.isEmpty then s else s.send (.hostWrite (s.funcOf h.ctx) (s.pasidOf h.ctx) p.buffer bs true)
      s.complete h (if fit.length < all.length then .donePartial else .done) fit.length)

/-! ## EVICT -/

/-- Whether a media job of a context is in progress. -/
def State.hasJob (s : State) (n : CtxId) : Bool := s.media.jobs.any fun j => j.ctx == n

/-- EVICT: the checks of R234, then the pages of its range one after another. Duplicated control state of the unit that translates and
moves them can disagree, where `check` says so (R428). -/
def execEvict (h : CmdHdr) (p : EvictP) (check : Bool) (s : State) : Host.Outcome State Fault Refusal :=
  .next (s.host1 h (.evict p) fun s => s.onCtx h p.ctx fun n x =>
    if p.vaddr % 2097152 ≠ 0 ∨ p.length % 2097152 ≠ 0 ∨ 2 ^ 48 < p.vaddr + p.length ∨ 2 ^ 64 < p.target + p.length then s.complete h .badLength
    else if s.running = some n || s.hasJob n then s.busy h
    else if s.anySealed x p.vaddr p.length then s.complete h .deniedSealed
    else if (x.pagesIn p.vaddr p.length).any fun q => s.pinned n q then s.busy h
    else if check then s.cmdCheck h n 0x03 (16 + s.regionBed.val)
    else (s.start h (.evict p)).evictFrom h n p p.vaddr 0 0)

/-! ## MEM_CONFIG_WRITE -/

/-- Whether the device region lies in the populated bed-local memory of one bed (R237). -/
def devRegionOk (dwi base size : Nat) : Bool :=
  let a := base * 2 ^ 21
  decide (32 ≤ size) && decide (size ≤ 8192) && decide (a % 2 ^ 38 + size * 2 ^ 21 ≤ dwStart dwi)

/-- A write of MEM_DWI_SIZE, MEM_DEVREG_BASE or MEM_DEVREG_SIZE; once locked it only sets CFG_LOCKED, but for the 0 that a lost
device-wide region without mappings accepts (R219, R237, R439). -/
def State.writeMemCfg (s : State) (r : MemCfgReg) (v : Nat) : State :=
  let h := s.hbm
  let free := h.dwLost && !s.ctxs.any fun e => e.2.pages.any fun p => !p.far && bit p.target 40
  match r with
  | .dwiSize =>
    let u := field v 0 9
    if h.locked && free then (if u = 0 then s.modHbm fun h => { h with dwi := 0, dwLost := false } else s)
    else if h.locked then s.modHbm fun h => { h with cfgLocked := true }
    else if 256 ≤ u || !devRegionOk u h.devBase h.devSize then s
    else s.modHbm fun h => { h with dwi := u }
  | .devregBase =>
    let b := field v 0 19
    if h.locked then s.modHbm fun h => { h with cfgLocked := true }
    else if devRegionOk h.dwi b h.devSize then s.modHbm fun h => { h with devBase := b } else s
  | .devregSize =>
    let n := field v 0 14
    if h.locked then s.modHbm fun h => { h with cfgLocked := true }
    else if devRegionOk h.dwi h.devBase n then s.modHbm fun h => { h with devSize := n } else s

/-- Whether BAR 0 of the device takes writes: configuration space is ready, and neither a freeze nor a reset is in progress (R341,
R462, R486). -/
def State.regsOpen (s : State) : Bool :=
  s.host.configReady && s.clk.booted && !s.clk.inReset && !s.clk.warming && !s.clk.tripped && !s.dbg.frozen

/-- MEM_CONFIG_WRITE. -/
def execMemConfigWrite (r : MemCfgReg) (value : Word32) (s : State) : Host.Outcome State Fault Refusal :=
  .next (if s.regsOpen then s.writeMemCfg r value.toNat else s)

end Sys2Proof.Machine
end

