-- ==== Sys2Proof/Machine/TileFormer.lean ====
section
/-! DEFINITION. The tile former: from the sampled pictures of a clip to the bytes of its slot (R306, R320 to R325). Filter taps and
the rounding of the colour matrix are not published; they are constants of Config. -/

namespace Sys2Proof

open Machine

/-! ## Geometry of a format (R324) -/

def TileFormatP.tokens (f : TileFormatP) : Nat := f.frames / f.tp * (f.cropH / f.ph) * (f.cropW / f.pw)
def TileFormatP.features (f : TileFormatP) : Nat := f.tp * f.ph * f.pw * 3
def TileFormatP.padFeatures (f : TileFormatP) : Nat := roundUp f.features 256
def TileFormatP.isMx (f : TileFormatP) : Bool := f.fmt == 0x20
def TileFormatP.elemBytes (f : TileFormatP) : Nat :=
  if f.featureMajor then f.padFeatures * roundUp f.tokens 256 * 2
  else f.tokens * f.padFeatures * (if f.isMx then 1 else 2)
def TileFormatP.scaleBytes (f : TileFormatP) : Nat := if f.isMx then f.tokens * f.padFeatures / 32 else 0
def TileFormatP.tiles (f : TileFormatP) : Nat := 1 + ceilDiv f.elemBytes 4096 + ceilDiv f.scaleBytes 4096
/-- Pictures between the first pictures of successive clips (R320). -/
def TileFormatP.step (f : TileFormatP) : Nat := if f.hop = 0 then f.frames * f.stride else f.hop

/-- The ranges of a TILE_FORMAT (R320). -/
def TileFormatP.inRange (f : TileFormatP) : Bool :=
  let side := fun (n : Nat) => decide (16 ≤ n) && decide (n ≤ 4096)
  (f.fmt == 0x02 || f.fmt == 0x20) && decide (1 ≤ f.frames) && decide (f.frames ≤ 256) &&
  decide (1 ≤ f.stride) && decide (f.stride ≤ 64) && !(f.featureMajor && f.isMx) && decide (f.range ≠ 3) && decide (f.hop ≤ 4096) &&
  side f.scaleW && side f.scaleH && decide (f.cropW ≤ f.scaleW) && decide (f.cropH ≤ f.scaleH) &&
  decide (1 ≤ f.tp) && decide (f.tp ≤ 4) && f.frames % f.tp == 0 && decide (1 ≤ f.ph) && decide (f.ph ≤ 32) &&
  decide (1 ≤ f.pw) && decide (f.pw ≤ 32) && f.cropW % f.pw == 0 && f.cropH % f.ph == 0

/-- The crop offset of a clip (R323). -/
def TileFormatP.crop (f : TileFormatP) (seed q : Nat) : Nat × Nat :=
  if f.randomCrop then
    let w := gWords seed 2 0 q
    (w.1 % (f.scaleW - f.cropW + 1), w.2.1 % (f.scaleH - f.cropH + 1))
  else ((f.scaleW - f.cropW) / 2, (f.scaleH - f.cropH) / 2)

end Sys2Proof

namespace Sys2Proof.Machine

open Sys2Proof

/-- The metadata word of an output picture with its time stamp; `jump` says that it is the first after a discontinuity (R306). -/
def metaWord (p : Picture) (pts : Nat) (jump : Bool) : Nat :=
  let frac := if p.codedLuma = 0 then 0 else satAt 0xFFFF (ceilDiv (p.concealedLuma * 65536) p.codedLuma)
  frac + 2 ^ 16 * bitOf (decide (0 < p.concealedLuma)) + 2 ^ 17 * bitOf p.refConcealed + 2 ^ 18 * (p.structure_ % 4) +
  2 ^ 20 * (p.deint % 4) + 2 ^ 22 * bitOf p.telecine + 2 ^ 23 * bitOf jump + 2 ^ 24 * (p.coding % 4) +
  2 ^ 26 * bitOf p.orderOverride + 2 ^ 31 * (pts % 2 ^ 33)

/-! ## Resampling (R322) -/

/-- The sample at the rational position `num / den` of a line: 8 taps around its floor at the nearest of 64 phases. At a whole
position the weights leave that sample alone; the other weights, and a tie between phases, are not published. -/
def tapAt (l : List Nat) (num : Int) (den : Nat) : Nat :=
  let at_ := fun (i : Int) => l.getD (min i.toNat (l.length - 1)) 0
  let fl := num / (den : Int)
  let r := 64 * (num % (den : Int)).toNat
  let window := (List.range 8).map fun (i : Nat) => at_ (fl - 3 + (i : Int))
  if 2 * (r % den) = den then Config.mediaValue 2 ([r, den] ++ window) % 2 ^ 32
  else
    let k := if den < 2 * (r % den) then r / den + 1 else r / den
    if k = 0 then at_ fl else if k = 64 then at_ (fl + 1) else Config.mediaValue 1 (k :: window) % 2 ^ 32

/-- The line halved by averaging pairs while `out` is below half its length; an odd last sample is averaged with itself. -/
def halvePairs : List Nat → List Nat
  | [] => []
  | [a] => [f32Mul (f32Add a a) 0x3F000000]
  | a :: b :: l => f32Mul (f32Add a b) 0x3F000000 :: halvePairs l
def halveTo (out : Nat) : Nat → List Nat → List Nat
  | 0, l => l
  | n + 1, l => if 2 * out < l.length then halveTo out n (halvePairs l) else l

/-- A line scaled to `out` samples. -/
def scaleLine (out : Nat) (l : List Nat) : List Nat :=
  let h := halveTo out l.length l
  (List.range out).map fun x => tapAt h (((2 * x + 1) * h.length : Nat) - (out : Int)) (2 * out)

/-- Rows and columns exchanged. -/
def columns (w : Nat) (rows : List (List Nat)) : List (List Nat) := (List.range w).map fun x => rows.map fun r => r.getD x 0

/-- Whether the horizontal axis is resampled first, which R322 does not say. -/
def horizontalFirst : Bool := Config.mediaValue 3 [] % 2 == 1

/-- A plane resampled to `outW` × `h`, by a function for each axis. -/
def resample (h outW : Nat) (fx fy : List Nat → List Nat) (rows : List (List Nat)) : List (List Nat) :=
  let vert := fun (w : Nat) (rows : List (List Nat)) => columns h ((columns w rows).map fy)
  if horizontalFirst then vert outW (rows.map fx) else (vert ((rows.headD []).length) rows).map fx

/-- Stage 1: a chroma plane at luma resolution, by the stream's sample location (R322). -/
def upsample (p : Picture) (rows : List (List Nat)) : List (List Nat) :=
  let half := fun (shift : Int) (n : Nat) (l : List Nat) => (List.range n).map fun (i : Nat) => tapAt l (2 * (i : Int) - shift) 4
  let sx : Int := if p.chromaLoc = 1 ∨ p.chromaLoc = 3 ∨ p.chromaLoc = 5 then 1 else 0
  let sy : Int := if p.chromaLoc = 2 ∨ p.chromaLoc = 3 then 0 else if p.chromaLoc = 4 ∨ p.chromaLoc = 5 then 2 else 1
  let fy := if p.chroma = 0 then half sy p.height else fun l => l
  resample p.height p.width (half sx p.width) fy rows

/-! ## Colour (R322) -/

/-- The matrix of a picture: 1 BT.601, 2 BT.709, 3 BT.2020. -/
def TileFormatP.matrixOf (f : TileFormatP) (p : Picture) : Nat :=
  if f.matrix ≠ 0 then f.matrix
  else if p.matrixCoeff = 1 then 2 else if p.matrixCoeff = 5 ∨ p.matrixCoeff = 6 then 1 else if p.matrixCoeff = 9 then 3
  else if p.height ≤ 576 then 1 else 2

def TileFormatP.isFull (f : TileFormatP) (p : Picture) : Bool :=
  if f.range = 2 then true else if f.range = 1 then false else p.fullRange.getD false

/-- Luma and chroma on the unit scale. -/
def unitLuma (full : Bool) (depth y : Nat) : Nat :=
  let k := 2 ^ (depth - 8)
  if full then f32Div y (f32OfNat (2 ^ depth - 1)) else f32Div (f32Sub y (f32OfNat (16 * k))) (f32OfNat (219 * k))
def unitChroma (full : Bool) (depth c : Nat) : Nat :=
  let k := 2 ^ (depth - 8)
  if full then f32Div (f32Sub c (f32OfNat (2 ^ (depth - 1)))) (f32OfNat (2 ^ depth - 1))
  else f32Div (f32Sub c (f32OfNat (128 * k))) (f32OfNat (224 * k))

/-- A channel clamped to [0, 1]. -/
def clampUnit (x : Nat) : Nat := f32Min (f32Max x 0) f32One

/-- One RGB channel. Its value is real arithmetic whose rounding is not published, but for R and B where their chroma is 0. -/
def rgbChannel (matrix c y cb cr : Nat) : Nat :=
  clampUnit (if (c = 0 ∧ f32Zero cr) ∨ (c = 2 ∧ f32Zero cb) then y else Config.mediaValue 4 [matrix, c, y, cb, cr] % 2 ^ 32)

/-- The three channels of a pixel from its stored luma and upsampled chroma. -/
def pixel (f : TileFormatP) (p : Picture) (y cb cr : Nat) : List Nat :=
  let full := TileFormatP.isFull f p
  let y' := unitLuma full p.depth y
  let (b, r) := if p.chroma = 2 then (Config.mediaValue 5 [1] % 2 ^ 32, Config.mediaValue 5 [2] % 2 ^ 32)
    else (unitChroma full p.depth cb, unitChroma full p.depth cr)
  if f.ycc then [y', b, r] else [0, 1, 2].map fun c => rgbChannel (TileFormatP.matrixOf f p) c y' b r

/-- The rows of a stored plane as FP32 words. -/
def planeRows (w : Nat) (l : List Nat) : List (List Nat) := (chunksOf w (l.length + 1) l).map fun r => r.map f32OfNat

/-- Stages 1 to 5 of a sampled picture: three planes of the crop (R322). -/
def formPicture (f : TileFormatP) (ox oy : Nat) (p : Picture) : List (List (List Nat)) :=
  let cw := (p.width + 1) / 2
  let y := planeRows p.width p.luma
  let cb := upsample p (planeRows cw p.cb)
  let cr := upsample p (planeRows cw p.cr)
  let px := (List.range p.height).map fun j => (List.range p.width).map fun i =>
    let g := fun (m : List (List Nat)) => (m.getD j []).getD i 0
    pixel f p (g y) (g cb) (g cr)
  [0, 1, 2].map fun c =>
    let plane := px.map fun r => r.map fun v => v.getD c 0
    let scaled := resample f.scaleH f.scaleW (scaleLine f.scaleW) (scaleLine f.scaleH) plane
    ((scaled.drop oy).take f.cropH).map fun r => ((r.drop ox).take f.cropW).map fun v =>
      f32Mul (f32Sub v (f.mean.getD c 0)) (f.invStd.getD c 0)

/-! ## The slot (R324, R325) -/

/-- The features of a token, padded with zeros. -/
def tokenRow (f : TileFormatP) (pics : List (List (List (List Nat)))) (n : Nat) : List Nat :=
  let nx := f.cropW / f.pw
  let ny := f.cropH / f.ph
  let x := n % nx
  let y := n / nx % ny
  let t := n / nx / ny
  (List.range f.padFeatures).map fun i =>
    if i < f.features then
      let c := i % 3
      let dx := i / 3 % f.pw
      let dy := i / 3 / f.pw % f.ph
      let dt := i / 3 / f.pw / f.ph
      (((((pics.getD (t * f.tp + dt) []).getD c []).getD (y * f.ph + dy) []).getD (x * f.pw + dx) 0))
    else 0

/-- Bytes padded to a whole number of tiles. -/
def toTiles (bs : List Byte) : List Byte := padTo (roundUp bs.length 4096) bs

/-- The header tile of a clip (R325). -/
def clipHeader (f : TileFormatP) (q stream prog ox oy : Nat) (metas : List Nat) : List Byte :=
  record 4096 ([(0, 8, q), (8, 1, stream), (9, 1, prog), (10, 2, f.frames), (12, 2, ox), (14, 2, oy), (16, 4, f.tokens),
    (20, 2, f.padFeatures), (22, 1, f.fmt), (23, 1, bitOf f.featureMajor)] ++ metas.zipIdx.map fun m => (64 + 8 * m.2, 8, m.1))

/-- Stage 6 and the layout: the bytes of a clip's slot (R322, R324). -/
def clipBytes (f : TileFormatP) (seed q stream prog : Nat) (pics : List (Picture × Nat)) : List Byte :=
  let (ox, oy) := f.crop seed q
  let header := clipHeader f q stream prog ox oy (pics.map fun p => p.2)
  let formed := pics.map fun p => formPicture f ox oy p.1
  let rows := (List.range f.tokens).map (tokenRow f formed)
  let half := fun (w : Nat) => leBytes 2 (encodeTo .bf16 .rne true (f32 w))
  if f.isMx then
    let blocks := rows.flatMap fun r => (chunksOf 32 (r.length + 1) r).map fun b => mxBlock .mxf8e4 false [] (b.map f32)
    header ++ toTiles (blocks.flatMap fun b => b.2.map fun e => BitVec.ofNat 8 e) ++ toTiles (blocks.map fun b => BitVec.ofNat 8 b.1)
  else if f.featureMajor then
    header ++ toTiles ((List.range f.padFeatures).flatMap fun i => (List.range (roundUp f.tokens 256)).flatMap fun n =>
      half ((rows.getD n []).getD i 0))
  else header ++ toTiles (rows.flatMap fun r => r.flatMap half)

end Sys2Proof.Machine
end

