-- ==== Sys2Proof/Machine/Shuffle.lean ====
section
/-! DEFINITION. Meanings of the reservoir: TILE_FORMAT, SHUFFLE_CONFIG, SHUFFLE_SEEK, CLIP_DRAW, DRAW_SLOT_FILLED and
VOID_RANGE_DROP (R320, R327 to R336). -/

namespace Sys2Proof.Machine

open Sys2Proof

/-- Whether a context has a stream open (R291). -/
def State.hasStream (s : State) (n : CtxId) : Bool := s.media.streams.any fun t => t.ctx == n

/-- TILE_FORMAT (R320). -/
def execTileFormat (h : CmdHdr) (p : TileFormatP) (s : State) : Host.Outcome State Fault Refusal :=
  .next (s.host1 h (.tileFormat p) fun s => s.onCtx h p.ctx fun n x =>
    if !p.inRange then s.complete h .reservedNonzero
    else match x.shuffle with
      | none => s.complete h .badContext
      | some r =>
        if r.cfg.slotBytes < p.tiles * 4096 then s.complete h .badLength
        else if s.media.streams.any fun t => t.ctx == n && t.p.tileFormat == p.handle then s.busy h
        else (s.putCtx n { x with formats := assocSet p.handle p x.formats }).complete h .done)

/-- The lane of a core in a configuration, 0xFF for none (R327). -/
def laneList (p : ShuffleConfigP) : List Nat := p.lane.take 64

/-- The ranges of a SHUFFLE_CONFIG: every lane below L named exactly once, and a slot that the region can hold (R327, R328). -/
def shuffleInRange (p : ShuffleConfigP) : Bool :=
  decide (1 ≤ p.size) && decide (p.size ≤ 128) && decide (1 ≤ p.lanes) && decide (p.lanes ≤ 64) && p.slotBytes % 4096 == 0 &&
  decide (8192 ≤ p.slotBytes) && decide (p.slotBytes ≤ p.size * 2 ^ 30 - ShuffleState.area p.size) && p.base % 2097152 == 0 &&
  (laneList p).all (fun l => l == 0xFF || decide (l < p.lanes)) &&
  (List.range p.lanes).all fun l => ((laneList p).filter fun k => k == l).length == 1

/-- SHUFFLE_CONFIG, in the order of R327's table, after the end of the address space (R507). -/
def execShuffleConfig (h : CmdHdr) (p : ShuffleConfigP) (s : State) : Host.Outcome State Fault Refusal :=
  .next (s.host1 h (.shuffleConfig p) fun s => s.onCtx h p.ctx fun n x =>
    if 2 ^ 48 < p.base + p.size * 2 ^ 30 then s.complete h .badLength
    else if s.running = some n || s.hasStream n then s.busy h
    else if !shuffleInRange p then s.complete h .reservedNonzero
    else if x.formats.any fun f => p.slotBytes < f.2.tiles * 4096 then s.complete h .badLength
    else if allCores.any fun c => nthD 0xFF p.lane c.val < p.lanes && s.fenced (.c c.die) then s.complete h .dieFenced
    else (s.putCtx n { x with shuffle := some (Reservoir.fresh p) }).complete h .done)

/-- SHUFFLE_SEEK: operation 0 sets every lane's position, operation 1 voids a range (R336, R365). Where the void table has no
room for the range, the command completes with BUSY. -/
def execShuffleSeek (h : CmdHdr) (p : ShuffleSeekP) (s : State) : Host.Outcome State Fault Refusal :=
  .next (s.host1 h (.shuffleSeek p) fun s => s.onCtx h p.ctx fun n x =>
    match x.shuffle with
    | none => s.complete h .badContext
    | some r =>
      if p.voidRange then
        let v := addVoid p.a p.b r.voids
        if p.b ≤ p.a then s.complete h .badLength
        else if voidRoom < v.length then s.busy h
        else (s.modShuffle n fun r => { r with voids := v }).complete h .done
      else if s.running = some n then s.busy h
      else (s.modShuffle n fun r => { r with pos := r.pos.map fun _ => p.a }.reseat).complete h .done)

/-! ## Draws -/

/-- Voided numbers that one command passes over at most; the rest is passed over by the next. -/
def seekFuel : Nat := 65536

/-- The destination bytes of a CLIP_DRAW from its current clip and offset on (R333). -/
def drawRest (p : ClipP) (bytes : Nat) (r : Run) : List Nat :=
  let start := r.seq * bytes + r.doneBytes
  walkBytes p.dst start (p.clips * bytes - start)

/-- A draw finds its number: where the slot is filled its copy starts, else it waits with MEDIA_WAIT (R332, R335). -/
def State.drawNext (s : State) (c : CoreId) (u : Cur) (lane : Nat) (r : Reservoir) : State :=
  match r.seek lane seekFuel with
  | (r', none) => s.modShuffle u.ctx fun _ => r'
  | (r', some q) =>
    let waiting := (assoc? lane r'.want).isSome
    if r'.holds q then
      let s := s.modShuffle u.ctx fun _ => { r' with want := assocDel lane r'.want }
      let s := if waiting then s.waited c u.x else s
      s.openXfer c u (.draw (q % r'.slots)) .fp32 none r'.cfg.slotBytes u.run.doneBytes [] []
    else s.modShuffle u.ctx fun _ => { r' with want := assocSet lane q r'.want }

/-- CLIP_DRAW in hand: its destination lines are wet from its issue, and its draws follow one another (R175, R333). -/
def State.clipDrawStep (s : State) (c : CoreId) (p : ClipP) (u : Cur) : State :=
  match u.x.shuffle, u.x.shuffle.bind fun r => r.lane? c with
  | some r, some lane =>
    let t := (s.core c).cyc
    let lines := linesOf (drawRest p r.cfg.slotBytes u.run)
    let marked := (s.slice c.die).wet.any fun m => m.own c u.q u.run.op
    if marked then s.drawNext c u lane r
    else match s.wetHit c u.q u.run.op t lines with
      | some m => s.hazard c u t m
      | none => (s.markWet c.die c u.q u.run.op u.desc.opTag t (lines.map fun l => (l, none))).drawNext c u lane r
  | _, _ => s

def execClipDraw (c : CoreId) (p : ClipP) (s : State) : Host.Outcome State Fault Refusal :=
  .next (s.runTransfer c (.clipDraw p) fun u => s.clipDrawStep c p u)

/-- A draw that waits with MEDIA_WAIT finds its slot filled and copies the clip (R332). -/
def execDrawSlotFilled (c : CoreId) (s : State) : Host.Outcome State Fault Refusal :=
  .next (match s.current c with
  | none => s
  | some u => match u.desc.op, u.x.shuffle, u.x.shuffle.bind fun r => r.lane? c with
    | .clipDraw p, some r, some lane =>
      if (s.currentIs c (.clipDraw p)).isNone || u.run.xfer.isSome || u.run.endAt.isSome then s
      else match assoc? lane r.want with
        | some q => if r.holds q then s.drawNext c u lane r else s
        | none => s
    | _, _, _ => s)

/-- A range of the void table that every lane has passed is dropped (R330). -/
def execVoidRangeDrop (n : CtxId) (s : State) : Host.Outcome State Fault Refusal :=
  .next (if !s.clk.booted || s.clk.inReset || s.clk.tripped || s.dbg.frozen then s else s.modShuffle n fun r =>
    match r.voids.find? fun v => r.past v with
    | some v => { r with voids := r.voids.erase v }
    | none => r)

end Sys2Proof.Machine
end

