-- ==== Sys2Proof/Machine/Media.lean ====
section
/-! DEFINITION. Meanings of ingest: streams, feeds and jobs, pictures and clips, the ends of jobs and what follows from them
(R291 to R319, R321, R329). -/

namespace Sys2Proof.Machine

open Sys2Proof

/-! ## Streams -/

def State.stream? (s : State) (n : CtxId) (k : Nat) : Option Stream := s.media.streams.find? fun t => t.ctx == n && t.p.stream == k

/-- Bytes that a work slice of a stream needs, W (R292). -/
def workNeed (p : IngestOpenP) : Nat :=
  let px := p.maxWidth * p.maxHeight * (if p.bit10 then 2 else 1)
  17 * (if p.c422 then px * 2 else px * 3 / 2) + 4 * 2 ^ 20

/-- Whether a teletext page is three BCD digits from 0x100 to 0x899 (R291). -/
def ttOk (p : Nat) : Bool := decide (0x100 ≤ p) && decide (p ≤ 0x899) && decide (field p 0 4 ≤ 9) && decide (field p 4 4 ≤ 9)

/-- The ranges of an INGEST_OPEN (R291). -/
def ingestInRange (p : IngestOpenP) : Bool :=
  let fft := 512 * 2 ^ p.stftFft
  decide (p.input ≤ 2) && (if p.input = 2 then decide (1 ≤ p.esCodec) && decide (p.esCodec ≤ 5) else p.esCodec == 0) &&
  decide (p.mediaMask % 16 ≠ 0) && decide (1 ≤ p.jobs) && decide (p.jobs ≤ 64) && decide (1 ≤ p.programs) && decide (p.programs ≤ 16) &&
  (p.programs == 1 || !(p.pidMode || p.input == 2)) &&
  p.maxWidth % 16 == 0 && decide (16 ≤ p.maxWidth) && decide (p.maxWidth ≤ 8192) &&
  p.maxHeight % 16 == 0 && decide (16 ≤ p.maxHeight) && decide (p.maxHeight ≤ 4352) && decide (p.deint ≤ 2) &&
  decide (p.audioTracks ≤ 4) && decide (p.audioOut ≤ 2) && p.workBase % 2097152 == 0 &&
  decide (64 ≤ p.stftWin) && decide (p.stftWin ≤ 2048) && decide (16 ≤ p.stftHop) && decide (p.stftHop ≤ 1024) &&
  decide (p.stftHop ≤ p.stftWin) && decide (p.stftFft ≤ 2) && decide (p.stftWin ≤ fft) &&
  decide (32 ≤ p.mels) && decide (p.mels ≤ 128) && ttOk p.ttPage

/-- The dies of a mask, and those of them that are not fenced. -/
def maskDies (m : Nat) : List BedId := allBeds.filter fun d => bit m d.val
def State.openDies (s : State) (m : Nat) : List BedId := (maskDies m).filter fun d => !s.fenced (.m d)

/-- INGEST_OPEN, in the order of R292's table. -/
def execIngestOpen (h : CmdHdr) (p : IngestOpenP) (s : State) : Host.Outcome State Fault Refusal :=
  .next (s.host1 h (.ingestOpen p) fun s => s.onCtx h p.ctx fun n x =>
    if (s.stream? n p.stream).isSome then s.complete h .badContext
    else if 1024 ≤ s.media.streams.length then s.busy h
    else if !ingestInRange p then s.complete h .reservedNonzero
    else if p.workSize * 2097152 < p.jobs * workNeed p ∨ 2 ^ 48 < p.workBase + p.workSize * 2097152 then s.complete h .badLength
    else if (s.openDies p.mediaMask).isEmpty then s.complete h .dieFenced
    else if (assoc? p.tileFormat x.formats).isNone then s.complete h .badLength
    else (s.modMedia fun m => { m with streams := m.streams ++ [⟨n, p, none⟩] }).complete h .done)

/-! ## Jobs -/

def State.job? (s : State) (i : Nat) : Option Job := s.media.jobs.find? fun j => j.id == i
def State.modJob (s : State) (i : Nat) (f : Job → Job) : State :=
  s.modMedia fun m => { m with jobs := m.jobs.map fun j => if j.id = i then f j else j }
def State.feed? (s : State) (i : Nat) : Option FeedRec := s.media.feeds.find? fun f => f.id == i
def State.modMediaDie (s : State) (d : BedId) (f : MediaDie → MediaDie) : State := s.modMedia fun m => { m with dies := vmod m.dies d f }

/-- The first clip sequence number of a job (R293). -/
def FeedRec.base (f : FeedRec) (prog : Nat) : Nat := f.p.seqBase + prog * f.p.clipStride

/-- Engines of a die that can take a job (R294, R315). -/
def State.freeEngines (s : State) (d : BedId) : List Nat :=
  let m := s.media.dies.get d
  (List.range 64).filter fun e => e ∉ m.out && !(m.pending.any fun k => k.2 == e) &&
    !(s.media.jobs.any fun j => j.die == some d && j.engine == e)

/-- Dies on which a job can start (R294, R405). -/
def State.startDies (s : State) (m : Nat) : List BedId :=
  (s.openDies m).filter fun d => (s.die (.m d)).loaded && !(s.die (.m d)).resetting && !(s.freeEngines d).isEmpty

/-- Jobs of a stream that hold an engine. -/
def State.jobsOn (s : State) (n : CtxId) (k : Nat) : List Job := s.media.jobs.filter fun j => j.ctx == n && j.stream == k && j.die.isSome

/-- Whether a queued job can start (R294). -/
def State.canStart (s : State) (j : Job) : Bool :=
  j.st == .queued && (match s.stream? j.ctx j.stream with
    | some t => decide ((s.jobsOn j.ctx j.stream).length < t.p.jobs) && !(s.startDies t.p.mediaMask).isEmpty
    | none => false)

/-! ## Arrivals and completions -/

/-- The media dies of a feed's stream arrive at its hatch line (R192, R193, R317). -/
def State.mediaArrive (s : State) (n : CtxId) (line : LineId) (mask : Nat) : State :=
  (maskDies mask).foldl (fun s d =>
    match s.ctx? n with
    | none => s
    | some x =>
      match x.line? line with
      | some h =>
        if bit h.mask (64 + d.val) then s.putCtx n (x.setLine line (h.arrive (64 + d.val) s.timeNs).1)
        else s.modMedia fun m => { m with arriveLost := true, lostArrivals := m.lostArrivals + 1 }
      | none => s.modMedia fun m => { m with arriveLost := true, lostArrivals := m.lostArrivals + 1 }) s

/-- A feed whose last job has ended: its arrivals, then its record (R294, R317). -/
def State.endFeed (s : State) (i : Nat) : State :=
  match s.feed? i with
  | none => s
  | some f =>
    if f.left ≠ 0 then s
    else
      let s := match s.stream? f.ctx f.p.stream with
        | some t => if f.p.arrive then s.mediaArrive f.ctx t.p.arriveLine t.p.mediaMask else s
        | none => s
      let s := s.modMedia fun m => { m with feeds := m.feeds.filter fun g => g.id ≠ i }
      let st := ((List.range 16).filterMap fun k => (assoc? k f.statuses).bind fun t => if t = .done then none else some t).headD .done
      s.complete f.hdr st f.output

/-- A closing stream without jobs is free and its INGEST_CLOSE completes (R295). -/
def State.endStream (s : State) (n : CtxId) (k : Nat) : State :=
  match s.stream? n k with
  | none => s
  | some t => match t.closing with
    | none => s
    | some h =>
      if s.media.jobs.any fun j => j.ctx == n && j.stream == k then s
      else (s.modMedia fun m => { m with streams := m.streams.filter fun u => !(u.ctx == n && u.p.stream == k) }).complete h .done

/-! ## Page faults of a job (R313) -/

/-- The fault of a job is held: it keeps its engine and the host hears of it (R225, R313). `then_` is the end that a RETRY goes on with. -/
def State.holdJob (s : State) (j : Job) (v : Nat) (a : Access) (r : Reason) (then_ : Option (Status × Nat)) : State :=
  let (id, s) := s.takeFaultId
  let s := s.modJob j.id fun j => { j with st := .held id v then_ }
  let s := s.modCtx j.ctx fun x => { x with held := x.held ++ [⟨id, .job j.id, .pageFault, v, none⟩] }
  let s := s.modHbm fun m => { m with pageFaults := satAt 0xFFFF (m.pageFaults + 1) }
  let seq := ((s.feed? j.feed).map fun f => f.hdr.seq.toNat).getD 0
  s.event j.ctx 0x03 .pageFault id [(24, 8, v % 2 ^ 48 + 2 ^ 48 * a.code + 2 ^ 50 * r.code), (32, 8, 0), (40, 1, 2), (41, 1, j.stream),
    (42, 1, j.prog), (44, 4, seq)]

/-- RESUME_FAULT RETRY: the job goes on where it stopped (R313). -/
def Job.retried (j : Job) : Job :=
  match j.st with
  | .held _ _ (some (st, code)) => { j with st := .ending st code }
  | .held _ _ none => { j with st := .running }
  | _ => j

/-! ## Auxiliary records (R310) -/

/-- PTS order; at equal PTS audio first, then by kind, then by track. -/
def auxBefore (a b : AuxRec) : Bool :=
  let key := fun (r : AuxRec) => (bitOf (decide (1 < r.kind))) * 256 + r.kind * 16 + r.track
  a.pts < b.pts || (a.pts == b.pts && key a ≤ key b)
def insertAux (a : AuxRec) : List AuxRec → List AuxRec
  | [] => [a]
  | b :: l => if auxBefore a b then a :: b :: l else b :: insertAux a l

/-- The bytes of a record. -/
def AuxRec.bytes (r : AuxRec) (prog : Nat) : List Byte :=
  let bs := record 16 [(0, 1, r.kind % 16 + 16 * (r.track % 16)), (1, 1, prog), (2, 2, r.info), (4, 4, r.payload.length),
    (8, 8, r.pts % 2 ^ 33)] ++ r.payload
  padTo (roundUp bs.length 64) bs

/-- Records that fit in a share, up to the first that does not; the rest is dropped. -/
def auxFit (prog : Nat) : Nat → List AuxRec → List Byte × Nat
  | _, [] => ([], 0)
  | room, r :: rs =>
    let bs := AuxRec.bytes r prog
    if bs.length ≤ room then
      let (l, d) := auxFit prog (room - bs.length) rs
      (bs ++ l, d)
    else ([], rs.length + 1)

/-- Address and size of the share of a program (R310). -/
def auxShare (f : FeedRec) (programs prog : Nat) : Nat × Nat :=
  let k := f.p.auxSize / programs / 64 * 64
  (f.p.auxBase + prog * k, if f.p.auxBase = 0 then 0 else k)

/-! ## The end of a job -/

/-- The first source byte that a job has not used; the whole of its source at its end (R304, R311). -/
def Job.consumed (j : Job) (f : FeedRec) (st : Status) (endCode : Nat) : Nat :=
  if st = .done ∧ endCode = 0 then f.p.length else j.bytesUsed

/-- The cadence that held for most of a job's output pictures; a tie is not settled (R309, R311). -/
def Job.cadence (j : Job) : Nat :=
  let count := fun (k : Nat) => (j.cadences.filter fun c => c == k).length
  let most := (List.range 4).foldl (fun a k => max a (count k)) 0
  match (List.range 4).filter fun k => count k == most with
  | [k] => k
  | ks => nthD 0 ks (Config.mediaValue 14 (ks ++ j.cadences) % max 1 ks.length)

/-- The report of a job (R311). -/
def jobReport (t : IngestOpenP) (j : Job) (st : Status) (endCode dropped used : Nat) : List Byte :=
  let prog := if t.pidMode || t.input == 2 then 0 else nthD 0 t.sel j.prog
  let count := fun (pick : Demux → List Nat) => ((j.demux.map pick).getD []).filter (fun o => o < used) |>.length
  record 64 [(0, 2, st.code), (2, 2, prog), (4, 4, j.decoded), (8, 4, j.pics), (12, 4, j.concealedPics), (16, 4, used),
    (20, 4, count fun d => d.skipped), (24, 2, satAt 0xFFFF (count fun d => d.ccErrors)), (26, 2, satAt 0xFFFF (count fun d => d.jumps)),
    (28, 1, j.cadence % 4 + 4 * bitOf j.weave.bottomFirst + 8 * (endCode % 4)), (30, 2, satAt 0xFFFF dropped), (32, 4, j.clipsFilled),
    (36, 4, j.skippedPics), (40, 8, (j.firstPts.getD 0) % 2 ^ 33)]

/-- The numbers that a job leaves unused, as a range (R311). -/
def State.unused (s : State) (j : Job) : Option (Nat × Nat) :=
  (s.feed? j.feed).bind fun f =>
    if j.clipsFilled < f.p.clipStride then some (f.base j.prog + j.clipsFilled, f.base j.prog + f.p.clipStride) else none

/-- The void table after a job's end. -/
def State.voidsAfter (s : State) (j : Job) : List (Nat × Nat) :=
  match (s.ctxD j.ctx).shuffle, s.unused j with
  | some r, some v => addVoid v.1 v.2 r.voids
  | some r, none => r.voids
  | none, _ => []

/-- The filling slots of a job return to empty (R329). -/
def Reservoir.dropJob (r : Reservoir) (job : Nat) : Reservoir := { r with sts := r.sts.filter fun e => e.2 ≠ .filling job }

/-- A job leaves its engine and its feed; a failed reconstruction check takes the engine from service until it is tested (R294,
R312, R315). -/
def State.removeJob (s : State) (j : Job) (st : Status) (dropped : Nat) : State :=
  let s := s.modShuffle j.ctx fun r => { (r.dropJob j.id) with voids := s.voidsAfter j }
  let s := s.modMedia fun m => { m with
    jobs := m.jobs.filter fun k => k.id ≠ j.id,
    jobErr := m.jobErr || decide (st ≠ .done), auxDrop := m.auxDrop || decide (dropped ≠ 0),
    feeds := m.feeds.map fun f => if f.id = j.feed then
      { f with left := f.left - 1, statuses := f.statuses ++ [(j.prog, st)], output := f.output + j.pics } else f }
  let s := s.modCtx j.ctx fun x => { x with held := x.held.filter fun e => e.by_ ≠ .job j.id }
  (s.endFeed j.feed).endStream j.ctx j.stream

/-- The record of a job that ended with a device fault: class C (R312, R431). -/
def State.logJob (s : State) (j : Job) (st : Status) (struct_ : Nat) : State :=
  let die := (j.die.map fun d => 20 + d.val).getD 31
  (s.logFault { status := st, cls := 3, selftest := decide (st = .internalError), struct_ := struct_, ctx := j.ctx.val, die := die } []).2

/-- The record of a job's access that HBM cannot serve (R434, R435). -/
def State.logJobData (s : State) (j : Job) (b o : Nat) : State :=
  (s.logFault { status := .uncorrectableData, cls := 3, struct_ := 0x05, ctx := j.ctx.val, die := 16 + b, address := dpaOf s.hbm.dwi b o }
    [s.hbm.body b o]).2

/-- A job ends (R311). Where its unused numbers do not fit the void table it waits (R330). The aux records of the source that it has
used and its report are written first; where a page faults, the job is held (R313), unless `force` gives up what cannot be written. -/
def State.endJob (s : State) (i : Nat) (st : Status) (endCode : Nat) (force : Bool) : State :=
  match s.job? i with
  | none => s
  | some j =>
    match s.feed? j.feed, s.stream? j.ctx j.stream with
    | some f, some t =>
      if !force && voidRoom < (s.voidsAfter j).length then s.modJob i fun j => { j with st := .ending st endCode }
      else
        let (base, room) := auxShare f t.p.programs j.prog
        let used := j.consumed f st endCode
        let aux := (j.aux.filter fun a => a.1 < used).map fun a => a.2
        let (bs, dropped) := auxFit j.prog room (aux.foldl (fun l a => insertAux a l) [])
        let put : State → Except Halt State := fun s => match s.vwrite j.ctx base bs with
          | .error e => .error e
          | .ok s => s.vwrite j.ctx (f.p.report + 64 * j.prog) (jobReport t.p j st endCode dropped used)
        match put s with
        | .ok s => s.removeJob j st dropped
        | .error (.page v a r) => if force then s.removeJob j st dropped else s.holdJob j v a r (some (st, endCode))
        | .error _ => s.removeJob j st dropped
    | _, _ => s.modMedia fun m => { m with jobs := m.jobs.filter fun k => k.id ≠ i }

/-- A job ends by a cause other than those of R304; what its report then says of the condition is open. -/
def State.stopJob (s : State) (i : Nat) (st : Status) (force : Bool) : State := s.endJob i st (Config.mediaValue 8 [st.code]) force

/-- Every job of a context ends with CONTEXT_ENDED and its streams close (R314). -/
def State.endMedia (s : State) (n : CtxId) : State :=
  let s := ((s.media.jobs.filter fun j => j.ctx == n).map fun j => j.id).foldl (fun s i => s.stopJob i .contextEnded true) s
  let closing := (s.media.streams.filter fun t => t.ctx == n).filterMap fun t => t.closing
  let s := s.modMedia fun m => { m with streams := m.streams.filter fun t => t.ctx ≠ n, feeds := m.feeds.filter fun f => f.ctx ≠ n }
  closing.foldl (fun s h => s.complete h .done) s

/-- Queued jobs without an unfenced permitted die end with DIE_FENCED (R316). -/
def State.reapJobs (s : State) : State :=
  let gone := s.media.jobs.filter fun j => j.st == .queued && (match s.stream? j.ctx j.stream with
    | some t => (s.openDies t.p.mediaMask).isEmpty
    | none => true)
  (gone.map fun j => j.id).foldl (fun s i => s.stopJob i .dieFenced false) s

/-- A media die is fenced or reset: its running jobs end with DIE_FENCED (R316). -/
def State.fenceMedia (s : State) (d : BedId) : State :=
  let gone := (s.media.jobs.filter fun j => j.die == some d).map fun j => j.id
  (gone.foldl (fun s i => s.stopJob i .dieFenced false) s).reapJobs

/-! ## Feeds -/

/-- Jobs that have not started (R293). -/
def Media.queued (m : Media) : Nat := (m.jobs.filter fun j => j.st == .queued).length

/-- A job that has not started. -/
def Job.fresh (id feed : Nat) (n : CtxId) (stream prog : Nat) : Job where
  id := id
  feed := feed
  ctx := n
  stream := stream
  prog := prog
  st := .queued
  die := none
  engine := 0
  slice := 0
  demux := none
  todo := []
  ending := .source
  skippedPics := 0
  aux := []
  weave := ⟨none, true, [], false, false, 0, [], [], none, none⟩
  ready := []
  jumps := []
  cadences := []
  pics := 0
  concealedPics := 0
  decoded := 0
  samples := 0
  firstPts := none
  lastPts := 0
  lastDur := 0
  clips := []
  clipsFilled := 0
  bytesUsed := 0

/-- The jobs of a feed. -/
def feedJobs (n : CtxId) (p : IngestFeedP) (feed first programs : Nat) : List Job :=
  (List.range programs).map fun k => Job.fresh (first + k) feed n p.stream k

/-- INGEST_FEED: a feed is accepted when its jobs are queued; its record follows the last of them (R293, R294, R317, R507). -/
def execIngestFeed (h : CmdHdr) (p : IngestFeedP) (s : State) : Host.Outcome State Fault Refusal :=
  .next (s.host1 h (.ingestFeed p) fun s => s.onCtx h p.ctx fun n x =>
    match s.stream? n p.stream with
    | none => s.complete h .badContext
    | some t =>
      let lost := match x.line? t.p.arriveLine with
        | some l => !((maskDies t.p.mediaMask).all fun d => bit l.mask (64 + d.val))
        | none => true
      if t.closing.isSome then s.complete h .badContext
      else if p.length = 0 ∨ 2 ^ 30 < p.length ∨ p.maxFrames = 0 ∨ 4096 < p.maxFrames ∨ p.clipStride = 0 ∨ 2 ^ 24 < p.clipStride ∨
          p.auxBase % 64 ≠ 0 ∨ p.auxSize % 64 ≠ 0 ∨ 2 ^ 48 < p.source + p.length ∨ 2 ^ 48 < p.auxBase + p.auxSize ∨
          2 ^ 48 < p.report + 64 * t.p.programs then s.complete h .badLength
      else if p.arrive && !t.p.arriveEn then s.complete h .reservedNonzero
      else if p.arrive && lost then s.complete h .badLength
      else if 4096 < s.media.queued + t.p.programs then s.busy h
      else
        let id := s.media.nextId
        let jobs := feedJobs n p id (id + 1) t.p.programs
        let s := s.start h (.ingestFeed p)
        (s.modMedia fun m => { m with feeds := m.feeds ++ [⟨id, h, n, p, t.p.programs, [], 0⟩], jobs := m.jobs ++ jobs,
                                      nextId := id + 1 + t.p.programs }).reapJobs)

/-- INGEST_CLOSE (R295). -/
def execIngestClose (h : CmdHdr) (p : IngestCloseP) (s : State) : Host.Outcome State Fault Refusal :=
  .next (s.host1 h (.ingestClose p) fun s => s.onCtx h p.ctx fun n _ =>
    match s.stream? n p.stream with
    | none => s.complete h .badContext
    | some t =>
      if t.closing.isSome then s.complete h .badContext
      else
        let s := s.start h (.ingestClose p)
        (s.modMedia fun m => { m with streams := m.streams.map fun u => if u.ctx == n && u.p.stream == p.stream then { u with closing := some h } else u }).endStream
          n p.stream)

/-! ## The start of a job -/

/-- The source of a job read in address order, in pieces of at most 64 bytes (R318). -/
def Moving.readAll (m : Moving) (n : CtxId) (e : Env) (v len : Nat) : Nat → List (List Byte) → Except Halt (List (List Byte) × Moving)
  | 0, acc => .ok (acc, m)
  | k + 1, acc =>
    if len ≤ m.done then .ok (acc, m)
    else
      let step := min (64 - (v + m.done) % 64) (len - m.done)
      match m.fetch n e (.virt v) m.done step with
      | .error h => .error h
      | .ok (bs, m) => { m with done := m.done + step }.readAll n e v len k (bs :: acc)

/-- A job with its streams chosen: the decoding processes of their standards give its pictures and its aux records (R296, R301, R302). -/
def Job.chosen (j : Job) (t : IngestOpenP) (d : Demux) : Job :=
  let v := Config.decodeVideo d.codec d.video
  { j with demux := some d, todo := v.pics, ending := v.ending, skippedPics := v.skipped, aux := auxRecords t d, jumps := d.jumps }

/-- A job reads its source and chooses its streams, or ends or is held at its source (R297, R298, R312, R313, R318, R412). -/
def State.beginJob (s : State) (j : Job) (env : Env) : State :=
  match s.feed? j.feed, s.stream? j.ctx j.stream with
  | some f, some t =>
    let x := s.ctxD j.ctx
    let bare := x.ideRequired && (x.pagesIn f.p.source f.p.length).any fun q =>
      q.far && !s.ideCovers (q.target + (max f.p.source q.vaddr - q.vaddr))
    if bare then s.stopJob j.id .farTierError false
    else match (Moving.readAll ⟨s, env.bytes, 0, 0, false⟩ j.ctx env f.p.source f.p.length (f.p.length + 1) []) with
      | .error (.page _ _ .sealed) => s.stopJob j.id .deniedSealed false
      | .error (.page v a r) => s.holdJob j v a r none
      | .error (.far e) =>
        (s.modHbm fun m => { m with farErr := true, farFaults := satAt 0xFFFF (m.farFaults + 1) }).stopJob j.id e.status false
      | .error (.data b o) => (s.logJobData j b o).stopJob j.id .uncorrectableData false
      | .ok (bs, m) =>
        match demux t.p j.prog bs.reverse.flatten with
        | .error st => m.s.stopJob j.id st false
        | .ok d => m.s.modJob j.id fun j => j.chosen t.p d
  | _, _ => s

/-- The oldest queued job that can start takes the lowest free engine of the permitted die with most of them, and the lowest free
work slice; a job that was held at its source goes on (R292, R294, R313). -/
def execIngestJobStart (job : Nat) (env : Env) (s : State) : Host.Outcome State Fault Refusal :=
  .next (if !s.ticking || s.clk.halted || s.host.updating then s
  else match s.job? job with
    | none => s
    | some j =>
      if j.st = .running ∧ j.demux.isNone then s.beginJob j env
      else match s.media.jobs.find? s.canStart with
        | none => s
        | some k =>
          if k.id ≠ job then s
          else match s.stream? j.ctx j.stream with
            | none => s
            | some t =>
              let best := (s.startDies t.p.mediaMask).foldl (fun (a : Option BedId) d => match a with
                | none => some d
                | some b => if (s.freeEngines b).length < (s.freeEngines d).length then some d else some b) none
              match best with
              | none => s
              | some d =>
                let slices := (s.jobsOn j.ctx j.stream).map fun q => q.slice
                let slice := ((List.range t.p.jobs).find? fun i => i ∉ slices).getD 0
                let j' := { j with st := .running, die := some d, engine := (s.freeEngines d).headD 0, slice := slice }
                (s.modJob job fun _ => j').beginJob j' env)

/-! ## Pictures and clips -/

/-- The PTS of an output picture: its own, or the previous one's plus its duration; an elementary stream starts at 0 (R299, R300). The
first of a transport stream has none to follow. -/
def Job.ptsOf (j : Job) (t : IngestOpenP) (p : Picture) : Nat :=
  match p.pts with
  | some v => v % 2 ^ 33
  | none => match j.firstPts with
    | some _ => (j.lastPts + j.lastDur) % 2 ^ 33
    | none => if t.input = 2 then 0 else Config.mediaValue 6 [p.width, p.height, p.frameDur] % 2 ^ 33

/-- Whether a stream takes a decoded picture (R301). -/
def takesPicture (t : IngestOpenP) (p : CodedPicture) : Bool :=
  decide (p.width ≤ t.maxWidth) && decide (p.height ≤ t.maxHeight) && (p.depth == 8 || (p.depth == 10 && t.bit10)) && (p.chroma ≠ 1 || t.c422)

/-- Whether a job has decoded all that R304 lets it decode. -/
def Job.spent (j : Job) (f : FeedRec) : Bool := decide (f.p.maxFrames ≤ j.decoded) || decide (2 ^ 33 ≤ j.samples)

/-- The next picture of a job is decoded, concealed and deinterlaced (R301, R304 to R309). -/
def Job.decode (j : Job) (t : IngestOpenP) (f : FeedRec) : Job :=
  match j.todo with
  | [] => j
  | c :: rest =>
    if j.spent f || !takesPicture t c then j
    else
      let p := CodedPicture.concealed c j.decoded
      let last := decide (f.p.maxFrames ≤ j.decoded + 1) || decide (2 ^ 33 ≤ j.samples + c.width * c.height)
      let next := if last then none else (rest.head?.filter (takesPicture t)).map fun q => CodedPicture.concealed q (j.decoded + 1)
      let (w, out) := j.weave.step t p next
      { j with todo := rest, weave := w, ready := j.ready ++ out.map fun o => o.1, cadences := j.cadences ++ out.map fun o => o.2,
               decoded := j.decoded + 1, samples := j.samples + c.width * c.height, bytesUsed := max j.bytesUsed c.used }

/-- Pictures are decoded until one is ready for the tile former, or none is left to decode. -/
def Job.advance (j : Job) (t : IngestOpenP) (f : FeedRec) : Nat → Job
  | 0 => j
  | n + 1 => if j.ready.isEmpty then (j.decode t f).advance t f n else j

/-- The clips in assembly after output picture `n`: each takes it where its window samples it (R321). -/
def Job.sample (j : Job) (f : TileFormatP) (stride n : Nat) (pic : Picture × Nat) : List Clip :=
  let hits := fun (i : Nat) => i * f.step ≤ n && (n - i * f.step) % f.stride == 0 && decide ((n - i * f.step) / f.stride < f.frames)
  let old := j.clips.map fun c => if hits c.idx then
    { c with pics := c.pics ++ [pic], ready := decide (c.pics.length + 1 = f.frames) } else c
  if n % f.step = 0 ∧ n / f.step < stride then old ++ [⟨n / f.step, [pic], decide (f.frames = 1), none⟩] else old

/-- An output picture in the counts and the clips of its job, with its metadata word (R299, R306, R311, R321). -/
def Job.output (j : Job) (t : IngestOpenP) (fmt : TileFormatP) (stride : Nat) (pic : Picture) : Job :=
  let pts := j.ptsOf t pic
  let jump := j.jumps.any fun o => o ≤ pic.off
  { j with
    jumps := j.jumps.filter fun o => pic.off < o, pics := j.pics + 1,
    concealedPics := j.concealedPics + bitOf (decide (0 < pic.concealedLuma)),
    firstPts := some (j.firstPts.getD pts), lastPts := pts, lastDur := pic.frameDur,
    clips := j.sample fmt stride j.pics (pic, metaWord pic pts jump) }

/-- What the checks of an engine have found since the job's last row: single-bit errors that its reference store corrected, and a
picture reconstructed once more whose second result checks; both are masked and counted (R315, R428, R431). -/
def State.engineFinds (s : State) (d : BedId) (fixed : Nat) (retry : Bool) : State :=
  let s := if retry then (s.modMediaDie d fun m => { m with masked := m.masked + 1 }).countA else s
  { s with log := { s.log with countA := satAt (2 ^ 32 - 1) (s.log.countA + fixed) } }

/-- The next output picture of a job reaches the tile former with its metadata word; what the engine's checks
found in it was masked (R299, R301, R304 to R309, R315, R321). Where no picture is left to decode, none does: the job can only end. -/
def execPictureOutput (job : Nat) (fixed : Nat) (retry : Bool) (s : State) : Host.Outcome State Fault Refusal :=
  .next (if !s.ticking || s.clk.halted then s
  else match s.job? job with
    | none => s
    | some j => match s.stream? j.ctx j.stream, s.feed? j.feed, j.die with
      | some t, some f, some d => match assoc? t.p.tileFormat (s.ctxD j.ctx).formats with
        | none => s
        | some fmt =>
          let waits := j.clips.any fun c => c.ready && c.slot.isNone
          if j.st ≠ .running ∨ j.demux.isNone ∨ waits then s
          else
            let j' := j.advance t.p f j.todo.length
            match j'.ready with
            | [] => s.modJob job fun _ => j'
            | pic :: rest =>
              let s := (s.engineFinds d fixed retry).modMediaDie d fun m => { m with pictures := (m.pictures + 1) % 2 ^ 48 }
              s.modJob job fun _ => { j' with ready := rest }.output t.p fmt f.p.clipStride pic
      | _, _, _ => s)

/-- The first clip of a job that has its pictures and no slot, and the first that fills one. -/
def Job.readyClip (j : Job) : Option Clip := j.clips.find? fun c => c.ready && c.slot.isNone
def Job.fillingClip (j : Job) : Option Clip := j.clips.find? fun c => c.slot.isSome
def Job.dropClip (j : Job) (i : Nat) : Job := { j with clips := j.clips.filter fun c => c.idx ≠ i }

/-- A clip's first tile is ready: its slot becomes filling, or the job waits, or the clip is discarded (R329). A number that is
voided counts as not empty. -/
def execClipReady (job : Nat) (s : State) : Host.Outcome State Fault Refusal :=
  .next (if !s.ticking || s.clk.halted then s
  else match s.job? job with
    | none => s
    | some j => match j.readyClip, s.feed? j.feed, (s.ctxD j.ctx).shuffle with
      | some c, some f, some r =>
        let q := f.base j.prog + c.idx
        let slot := q % r.slots
        let e := q / r.slots
        if j.st ≠ .running then s
        else if r.gen slot < e then s
        else if r.gen slot = e ∧ r.slot slot = .empty ∧ !r.voided q then
          (s.modShuffle j.ctx fun r => r.setSlot slot (.filling job)).modJob job fun j =>
            { j with clips := j.clips.map fun k => if k.idx = c.idx then { k with slot := some slot } else k }
        else
          let s := { s with regs := { s.regs with shufReused := true } }
          s.modJob job fun j => { (j.dropClip c.idx) with clipsFilled := j.clipsFilled + 1 }
      | _, _, _ => s)

/-- Bytes that the tile former writes into HBM pages of a context, tile by tile. -/
def State.writeSlot (s : State) (n : CtxId) (v : Nat) : List (List Byte) → Except Halt State
  | [] => .ok s
  | bs :: rest =>
    match s.xlate n v .write with
    | .error r => .error (.page v .write r)
    | .ok (.far _ _ _) => .error (.page v .write .wrongTier)
    | .ok (.hbm b o) => match s.hbmWrite b o bs (v % 65536 == 0 && decide (15 ≤ rest.length)) with
      | none => .error (.data b o)
      | some s => s.writeSlot n (v + bs.length) rest

/-- Every tile of a clip has landed: its slot is filled, where it is still the clip's own (R322 to R325, R329). -/
def execClipFilled (job : Nat) (s : State) : Host.Outcome State Fault Refusal :=
  .next (if !s.ticking || s.clk.halted then s
  else match s.job? job with
    | none => s
    | some j => match j.fillingClip, s.feed? j.feed, s.stream? j.ctx j.stream with
      | some c, some f, some t =>
        let x := s.ctxD j.ctx
        match assoc? t.p.tileFormat x.formats, x.shuffle, c.slot with
        | some fmt, some r, some slot =>
          if j.st ≠ .running then s
          else
            let bs := clipBytes fmt r.cfg.seed (f.base j.prog + c.idx) j.stream j.prog c.pics
            match s.writeSlot j.ctx (r.slotAddr slot) (chunksOf 4096 (bs.length + 1) bs) with
            | .error (.page v a y) => s.holdJob j v a y none
            | .error (.data b o) => (s.logJobData j b o).stopJob job .uncorrectableData false
            | .error (.far f) => s.stopJob job f.status false
            | .ok s =>
              let s := s.modShuffle j.ctx fun r => if r.slot slot = .filling job then r.setSlot slot .filled else r
              s.modJob job fun j => { (j.dropClip c.idx) with clipsFilled := j.clipsFilled + 1 }
        | _, _, _ => s
      | _, _, _ => s)

/-! ## INGEST_JOB_END -/

/-- The end of a job that has come to one of the conditions of R304, or to what R300, R301 and R305 reject: its status and the condition's
code. Its clips in assembly are filled first. -/
def Job.naturalEnd (j : Job) (t : IngestOpenP) (f : FeedRec) : Option (Status × Nat) :=
  let other := fun (st : Status) => some (st, Config.mediaValue 8 [st.code])
  if j.clipsFilled = f.p.clipStride then some (.done, 3)
  else if !j.ready.isEmpty || j.readyClip.isSome || j.fillingClip.isSome then none
  else if f.p.maxFrames ≤ j.decoded then some (.done, 1)
  else if 2 ^ 33 ≤ j.samples then some (.done, 2)
  else match j.todo with
    | p :: _ => if takesPicture t p then none else other .mediaUnsupported
    | [] => match j.ending with
      | .source => some (.done, 0)
      | .unsupported => other .mediaUnsupported
      | .streamError => other .mediaStreamError

/-- The status of a fault that an engine finds (R312). -/
def JobFault.status : JobFault → Status
  | .far f => f.status
  | .uncorrectable => .uncorrectableData
  | .deniedSealed => .deniedSealed
  | .internal _ => .internalError

/-- What the device records of such a fault, and the engine it takes from service (R228, R312, R315). -/
def State.noteJobFault (s : State) (j : Job) (w : JobFault) : State :=
  match w, j.die with
  | .internal control, some d => (s.logJob j .internalError (if control then 0x09 else 0x08)).modMediaDie d fun m =>
      { m with pending := m.pending ++ [(j.ctx, j.engine)] }
  | .uncorrectable, _ => s.logJob j .uncorrectableData 0x05
  | .far _, _ => s.modHbm fun m => { m with farErr := true, farFaults := satAt 0xFFFF (m.farFaults + 1) }
  | _, _ => s

/-- A job ends, by itself or by a fault that its engine finds; its feed and its stream may complete with it (R294, R295, R304, R311, R312,
R315, R317, R330). -/
def execIngestJobEnd (job : Nat) (why : Option JobFault) (fixed : Nat) (retry : Bool) (s : State) : Host.Outcome State Fault Refusal :=
  .next (if !s.ticking || s.clk.halted then s
  else match s.job? job with
    | none => s
    | some j => match j.st, s.feed? j.feed, s.stream? j.ctx j.stream with
      | .ending st code, _, _ => s.endJob job st code false
      | .running, some f, some t =>
        if j.demux.isNone then s
        else match why with
          | none => match j.naturalEnd t.p f with
            | some (st, code) => ((j.die.map fun d => s.engineFinds d fixed retry).getD s).endJob job st code false
            | none => s
          | some w => (((j.die.map fun d => s.engineFinds d fixed retry).getD s).noteJobFault j w).stopJob job (JobFault.status w) false
      | _, _, _ => s)

end Sys2Proof.Machine
end

