-- ==== Sys2Proof/Machine/Contexts.lean ====
section
/-! DEFINITION. Meanings of the context commands: how a program stops and quiesces, is saved and restored (R374 to R396), and the
commands on programs, counters and lines (R181, R182, R190, R226, R352, R361 to R365, R466). -/

namespace Sys2Proof.Machine

open Sys2Proof

/-! ## Small commands -/

/-- NOP (R361). -/
def execNop (h : CmdHdr) (s : State) : Host.Outcome State Fault Refusal :=
  .next (s.host1 h .nop fun s => s.complete h .done)

/-- FENCE: it starts once what it waits for has completed, and completes (R352, R362). -/
def execFence (h : CmdHdr) (allRings : Bool) (s : State) : Host.Outcome State Fault Refusal :=
  .next (s.host1 h (.fence allRings) fun s => s.complete h .done)

/-- TIMESTAMP: the device time as progress word (R361). -/
def execTimestamp (h : CmdHdr) (s : State) : Host.Outcome State Fault Refusal :=
  .next (s.host1 h .timestamp fun s => let s := s.stamp
    s.complete h .done s.timeNs)

/-! ## Commands that take long -/

/-- A command that may stay in progress: `body` is told whether it has begun. -/
def State.hostLong (s : State) (h : CmdHdr) (c : HostCmd) (body : Bool → State → State) : State :=
  let begun := s.host.inProgress h c
  if s.live && (begun || s.host.ready h c) then s.gate h c begun (body begun) else s

def State.waitOn (s : State) (h : CmdHdr) (c : HostCmd) (begun : Bool) : State := if begun then s else s.start h c

/-! ## Quiesce (R179, R384 to R386) -/

/-- Whether a piece is on its way inside the device: it completes before its core quiesces. -/
def Piece.inFlight (p : Piece) : Bool := p.st == .reading || p.st == .waitWrite || p.st == .waitStop || p.st == .moving || p.st == .writing

/-- Whether the cores chosen by `on` have reached their stop points: no unit, pull or preload is unfinished, no issued tile is in
flight, and no message of theirs is on its way. -/
def State.canQuiesce (s : State) (n : CtxId) (on : CoreId → Bool) : Bool :=
  (allCores.all fun c => !on c || match (s.core c).cur with
    | none => true
    | some q => match ((s.core c).queue q).ops, ((s.core c).queue q).run with
      | d :: _, some r => r.outcome.isNone && (match d.op with
        | .pull _ | .preload _ => false
        | _ => true)
      | _, _ => true) &&
  (s.fabric.xfers.all fun x => x.ctx ≠ n || x.cmd?.isSome || !on x.core || x.pieces.all fun p => !p.inFlight) &&
  s.fabric.vc4.all fun v => match v with
    | .signal k _ _ _ _ own => k ≠ n || !((own.map on).getD true)
    | .ack _ k _ => k ≠ n
    | .member _ k _ => k ≠ n

/-- Operations that only wait for their pulls to land complete (R163, R179). -/
def State.landPulls (s : State) (n : CtxId) (c : CoreId) : State :=
  let done := (s.core c).trailing.filter fun t => t.at_.isSome
  let s := done.foldl (fun s t =>
    let s := s.clearMarks c t.queue t.op
    if t.desc.sigEn then s.applySignal n t.desc.sigCtr t.desc.sigCore t.desc.sigInc else s) s
  let last := (done.filterMap fun t => t.at_).foldl max (s.core c).cyc
  (s.stallTo c 0 last).modCore c fun k => { (k.settle (k.cyc + 257)) with trailing := k.trailing.filter fun t => t.at_.isNone }

/-- Whether a transfer reads or writes the far tier. -/
def Xfer.isFar (x : Xfer) : Bool := x.pieces.any fun p => match p.src, p.dst with
  | .far .., _ | _, .far .. => true
  | _, _ => false

/-- A transfer whose operation has stopped: an ATOMIC_ADD keeps what its adders hold, under a new identifier (R258); every other one is dropped and remembered by
the bytes complete and by the members that acknowledged; a stop of the whole program notes a far-tier one (R179, R180, R384 to
R386). -/
def State.parkXfer (s : State) (x : Xfer) : State :=
  let done := x.doneAt
  let noteRun := fun (keep : Bool) (r : Run) => if r.xfer = some x.id then
    { r with doneBytes := done, acks := x.delivered, xfer := if keep then some x.id else none } else r
  let note := fun (s : State) (keep : Bool) =>
    s.modCore x.core fun k => { k with queues := k.queues.map fun (q : Queue) => { q with run := q.run.map (noteRun keep) } }
  let freeTags : State → State := fun s => { s with beds := s.beds.map fun b => { b with tags := b.tags.filter fun t => t.xfer ≠ x.id } }
  let cut := (allCores.all fun c => !inMap (s.ctxD x.ctx).coreMap c || (s.core c).stopping) && x.isFar
  let s := if cut then s.modCtx x.ctx fun y => { y with exec := y.exec.map fun e => { e with farStopped := true } } else s
  if allQueues.any fun q => (((s.core x.core).queue q).run.bind fun r => r.xfer) = some x.id then
    match x.kind with
    | .atomic _ _ _ _ => ((freeTags (note s true)).modXfer x.id fun x => { x.rewound with stop := true }).renumber x.id
    | _ => (freeTags (note s false)).dropXfer x.id
  else s

/-- The attached pull that an OUTER had still to issue at the bite boundary at which it stops (R67, R84). -/
def State.issueAtt (s : State) (c : CoreId) : State :=
  match s.current c with
  | some u => match s.flushAtt c u with
    | .ok (s, _) => s
    | .error s => s
  | none => s

/-- The BUCKET_SENDs of a core whose buckets are in reduction (R275). -/
def Grad.bucketOps (g : Grad) (c : CoreId) : List Nat :=
  g.replicas.flatMap fun r => (r.active.filter fun a => a.sent.core == c).map fun a => a.sent.op

/-- A core quiesces: its operation keeps its indices, its pulls have landed, and none of its lines is wet but for the record lines of
buckets that stay in reduction (R179, R180, R275). -/
def State.quiesceCore (s : State) (n : CtxId) (c : CoreId) : State :=
  let s := s.issueAtt c
  let s := s.landPulls n c
  let s := (s.fabric.xfers.filter fun x => x.ctx == n && x.cmd?.isNone && x.core == c).foldl (fun s x => s.parkXfer x) s
  let park := fun (q : Queue) => { q with
    wait := (match q.wait with
      | .wet _ => .none
      | w => w),
    run := q.run.map fun r => if r.outcome.isNone then { r with suspended := true, resumed := true } else r }
  let s := s.modCore c fun k => { k with cur := none, queues := k.queues.map park }
  let kept := (s.ctxD n).grad.bucketOps c
  { s with slices := s.slices.map fun k => { k with wet := k.wet.filter fun m => m.core ≠ c || m.op ∈ kept } }

/-- Whether a command that switches a context out is in progress (R384). -/
def State.preempting (s : State) (n : CtxId) : Bool := s.host.fetched.any fun f => f.started && match f.cmd with
  | .ctxPreempt k _ => ctxOf k == n
  | .ctxRun k => ctxOf k ≠ n
  | _ => false

/-- What is left of a context's program in the fabric is discarded (R107, R385); its commands' transfers go on. -/
def State.dropFlow (s : State) (n : CtxId) : State :=
  let mine := s.fabric.xfers.filter fun x => x.ctx == n
  let ids := (mine.filter fun x => x.cmd?.isNone).map fun x => x.id
  let kept := (mine.filter fun x => x.cmd?.isSome).map fun x => x.id
  let keepMsg := fun (v : Vc4) => match v with
    | .signal k .. => decide (k ≠ n)
    | .ack i k _ => decide (k ≠ n ∨ i ∈ kept)
    | .member _ k _ => decide (k ≠ n)
  let s := s.modFabric fun f => { f with xfers := f.xfers.filter fun x => x.id ∉ ids,
                                         pkts := f.pkts.filter fun p => p.xfer ∉ ids, vc4 := f.vc4.filter keepMsg }
  { s with beds := s.beds.map fun b => { b with tags := b.tags.filter fun t => t.xfer ∉ ids } }

/-- The adders' states and held contributions of a context are discarded (R107). -/
def State.dropGroups (s : State) (n : CtxId) : State :=
  { s with beds := s.beds.map fun b => { b with adders := b.adders.map fun a =>
    { states := a.states.filter fun t => t.ctx ≠ n, hold := a.hold.filter fun t => t.ctx ≠ n } } }

/-- A core enters the stopped state under STOP_AT or a halting STOP_MARK, and the host hears of it (R181, R391). The op_tag is that of
the operation whose end stopped the core, or of the next one where a STOP_AT stopped it without an end. -/
def State.stopCore (s : State) (n : CtxId) (c : CoreId) (q : QueueId) : State :=
  let w := (s.core c).queue q
  let (cause, tag) := match (s.core c).stopBy with
    | some e => (e.2.1, e.2.2.toNat)
    | none => (0, (w.ops.head?.map fun d => d.opTag.toNat).getD 0)
  let s := s.modCore c fun k => { k with stopping := false, stopped := true, stopBy := none }
  s.event n 0x05 .done 0 [(24, 1, c.val + 64 * q.val), (25, 1, cause), (28, 4, tag), (32, 4, w.count), (36, 4, w.mark.toNat)]

/-- The queue that stops a core: the one that asked for it, or the first whose count has reached its STOP_AT value. -/
def stopQueue (x : Ctx) (k : Core) (c : CoreId) : QueueId :=
  match k.stopBy with
  | some e => e.1
  | none => (allQueues.find? fun q => match assoc? (4 * c.val + q.val) x.stops with
    | some v => decide (v ≤ (k.queue q).count)
    | none => false).getD 0

/-- A core that quiesces with its whole program; one that STOP_AT or STOP_MARK had asked to stop enters the stopped state (R181). -/
def State.parkCore (s : State) (n : CtxId) (c : CoreId) : State :=
  let s := s.quiesceCore n c
  if (s.core c).stopBy.isSome then s.stopCore n c (stopQueue (s.ctxD n) (s.core c) c) else s

/-- Every core of a stopping context reaches its stop point and quiesces. A program that stops for good ends its EXEC (R179, R380,
R384); a core that STOP_AT stops at once enters the stopped state (R466). -/
def execQuiesce (s : State) : Host.Outcome State Fault Refusal :=
  .next (if !s.ticking then s else
  match s.runCtx with
  | none => s
  | some (n, x) => match x.exec with
    | none => s
    | some e =>
      let on := inMap e.coreMap
      if e.stopSt.isSome || (s.preempting n && x.program) then
        if s.canQuiesce n on then
          let s := (allCores.filter on).foldl (fun s c => s.parkCore n c) s
          if e.stopSt.isSome then (s.dropFlow n).endExec n else s
        else s
      else
        let one := fun (c : CoreId) => on c && (s.core c).stopping
        if (allCores.any one) && s.canQuiesce n one then
          (allCores.filter one).foldl (fun s c => (s.quiesceCore n c).stopCore n c (stopQueue x (s.core c) c)) s
        else s)

/-! ## The save area (R381 to R383) -/

/-- Bed and bed offset of a save area (R363). -/
def State.saveBase (s : State) (x : Ctx) : Nat × Nat := placeOf s.hbm.dwi ((s.hbm.devBase + x.saveOff) * 2 ^ 21)

/-- The format byte of a plate in the save header: R73's owner, or words that are not +0. The low words of a double-word plate have
no code of their own. -/
def Core.plateFmt (k : Core) (p : Nat) : Nat :=
  let info := k.plate.toList.getD p PlateInfo.reset
  let filled := fun (p : Nat) => k.plates.any fun c => c.1 / 65536 == p
  let owned := match info.st with
    | .owned _ => true
    | _ => false
  if info.dword && (owned || filled p || filled (p + 4)) then 0x40
  else if 4 ≤ p && (k.plate.toList.getD (p - 4) PlateInfo.reset).dword then 0
  else if owned || filled p then 0x01 else 0

/-- Plates whose words a save writes. -/
def Core.keptPlates (k : Core) : List Nat :=
  (List.range 8).filter fun p => k.plateFmt p ≠ 0 || (4 ≤ p && k.plateFmt (p - 4) = 0x40)

/-- Offset of the plates of a core in the save area (R382). -/
def platesOff (c : CoreId) : Nat := 2 ^ 21 + c.val * 2 ^ 21

/-- The plates of a core written to its part of the save area. -/
def savePlates (m : Sparse Byte) (base : Nat) (c : CoreId) (k : Core) : Sparse Byte :=
  let kept := k.keptPlates
  let m := kept.foldl (fun m p => sclear m (base + platesOff c + p * 262144) 262144) m
  k.plates.foldl (fun m e => if e.1 / 65536 ∈ kept then writeBytes m (base + platesOff c + 4 * e.1) (leBytes 4 e.2.toNat) else m) m

/-- The words of the kept plates of a core, read back from its part of the save area. -/
def loadPlates (m : Sparse Byte) (base : Nat) (c : CoreId) (kept : List Nat) : Sparse Word32 :=
  (scut m (base + platesOff c) (2 ^ 21) 0).foldl (fun w e =>
    if e.1 / 262144 ∈ kept then
      sset 0 w (e.1 / 4) (BitVec.ofNat 32 ((sget 0 w (e.1 / 4)).toNat + e.2.toNat * 2 ^ (8 * (e.1 % 4))))
    else w) []

/-- Offset of the slice of a die in the save area. -/
def sliceOff (d : DieId) : Nat := 146 * 2 ^ 20 + d.val * 2 ^ 26

/-- The save header (R383). -/
def saveHeader (n : CtxId) (x : Ctx) (prog : Bool) (stopped : Bool) (us : Nat) (fmts : List (List Nat)) : List Byte :=
  let range := x.savedRange.getD (0, 0)
  record 4096 ([(0, 4, 0x56534B43), (4, 2, n.val),
    (6, 1, bitOf prog + 2 * bitOf x.savedRange.isSome + 4 * bitOf x.faulted + 8 * bitOf stopped), (8, 4, x.saveCount % 2 ^ 32), (12, 4, us % 2 ^ 32),
    (16, 4, range.1), (20, 4, range.2), (24, 4, (x.exec.map fun e => e.hdr.seq.toNat).getD 0), (28, 1, (x.exec.map fun e => e.hdr.ring.val).getD 0),
    (32, 4, 1 + 2 ^ 8 * 0x0100)] ++ fmts.zipIdx.map fun f => (64 + 8 * f.2, 8, ((f.1.zipIdx.map fun b => b.1 * 2 ^ (8 * b.2)).sum)))

/-- Units of save area that the next save of a context needs (R381). -/
def saveNeed (prog scratch : Bool) : Nat := if prog || scratch then 585 else 1

/-- What the private program part keeps of a stopped program (R382, R386). -/
def State.savedPart (s : State) (n : CtxId) (m : Nat) : Saved :=
  let cs := allCores.filter (inMap m)
  let adders := allBeds.flatMap fun b => (List.finRange 3).map fun k => (3 * b.val + k.val, (s.bed b).adders.get k)
  { infos := cs.map fun c => (c.val, (s.core c).plate.toList),
    queues := cs.map fun c => (c.val, ((s.core c).bankWaits s.timeNs false).queues.toList),
    stopped := (cs.filter fun c => (s.core c).stopped).map fun c => c.val,
    trailing := cs.map fun c => (c.val, (s.core c).trailing),
    xfers := s.fabric.xfers.filter fun x => x.ctx == n && x.cmd?.isNone,
    tiles := adders.flatMap fun a => (a.2.states.filter fun t => t.ctx == n).map fun t => (a.1, t),
    hold := adders.flatMap fun a => (a.2.hold.filter fun t => t.ctx == n).map fun t => (a.1, t) }

/-- A core that no program uses. -/
def Core.idle (k : Core) : Core :=
  { k with plates := [], plate := Vector.replicate 8 PlateInfo.reset, ports := Ports.reset, queues := k.queues.map fun q => { Queue.empty with mark := q.mark },
           cur := none, shift := none, trailing := [], stopping := false, stopped := false, stopBy := none, idleAs := none }

/-- The running context is saved and no longer runs, with its PREEMPTED event (R384). `scratch` keeps the scratchpad of a context
between programs. -/
def State.saveCtx (s : State) (n : CtxId) (scratch : Bool) : State :=
  let x := s.ctxD n
  let prog := x.program
  let m := x.coreMap
  let keep := scratch || prog
  let far := (x.exec.map fun e => e.farStopped).getD false
  let (us, s) := s.draw
  let (bed, off) := s.saveBase x
  let base := hbmKey bed off
  let range := if keep then x.lastFoot.filter fun r => r.2 ≠ 0 else none
  let part := s.savedPart n m
  let fmts := allCores.map fun c => (List.range 8).map fun p => if prog && inMap m c then (s.core c).plateFmt p else 0
  let stopped := allCores.any fun c => (s.core c).stopped
  let mem := if prog then (allCores.filter (inMap m)).foldl (fun w c => savePlates w base c (s.core c)) s.hbm.mem else s.hbm.mem
  let mem := match range with
    | some (a, k) => allDies.foldl (fun w d => scopy 0 (s.slice d).mem w a k (base + sliceOff d + a)) mem
    | none => mem
  let lanes := if keep then x.lanes else (x.lanes.map fun l => (l.1, { l.2 with mirror := [] })).filter fun l => !l.2.isEmpty
  let x' := { x with savedRange := range, saveCount := x.saveCount + 1, lastSaveUs := us, lanes := lanes,
                     grad := x.grad.halted, exec := x.exec.map fun e => { e with farStopped := false }, saved := if prog then some part else none, runNs := x.runNs + (s.timeNs - x.runSince) }
  let mem := writeBytes mem base (saveHeader n x' prog stopped us fmts)
  let s := (s.modHbm fun h => { h with mem := mem }).putCtx n x'
  let s := if prog then (s.dropFlow n).dropGroups n else s
  let s := s.mapCores fun _ k => k.idle
  let s := s.event n 0x01 .preempted 0 [(24, 4, us), (28, 1, bitOf range.isSome + 2 * bitOf far + 4 * bitOf prog),
    (32, 4, (x.exec.map fun e => e.hdr.seq.toNat).getD 0), (36, 1, (x.exec.map fun e => e.hdr.ring.val).getD 0)]
  { s with running := none }

/-- Whether nothing of the running context's program is left to quiesce. -/
def State.quiet (s : State) (n : CtxId) : Bool :=
  let x := s.ctxD n
  !x.program || (s.canQuiesce n (inMap x.coreMap) && allCores.all fun c => !inMap x.coreMap c ||
    ((s.core c).stopping && (s.core c).cur.isNone && (s.core c).trailing.all fun t => t.at_.isNone))

/-- The context is switched out, once its cores are quiet; `none` while they are not, with the stop requested (R384). -/
def State.switchOut (s : State) (n : CtxId) (scratch : Bool) : State × Bool :=
  let x := s.ctxD n
  if s.quiet n then
    let s := if x.program then (allCores.filter (inMap x.coreMap)).foldl (fun s c => s.parkCore n c) s else s
    (s.saveCtx n scratch, true)
  else (s.stopCores x.coreMap, false)

/-- Whether another command that switches contexts is in progress (R394). -/
def State.switchBusy (s : State) (h : CmdHdr) : Bool := s.host.fetched.any fun f => f.started && f.hdr ≠ h && match f.cmd with
  | .ctxPreempt _ _ | .ctxRun _ => true
  | _ => false

/-- CTX_PREEMPT (R375, R381, R384, R394). -/
def execCtxPreempt (h : CmdHdr) (ctx : Nat) (scratch : Bool) (s : State) : Host.Outcome State Fault Refusal :=
  .next (s.hostLong h (.ctxPreempt ctx scratch) fun begun s =>
    if s.switchBusy h then s
    else if ctxOf ctx = 0 then s.complete h .badContext
    else s.onCtx h ctx fun n x =>
      if s.running ≠ some n then s.complete h .preempted
      else if x.saveSize < saveNeed x.program scratch then s.complete h .badLength
      else match s.switchOut n scratch with
        | (s, true) => s.complete h .done (s.ctxD n).lastSaveUs
        | (s, false) => s.waitOn h (.ctxPreempt ctx scratch) begun)

/-! ## Switch-in (R377, R378, R382) -/

/-- Whether `n` bytes of a bed can be read. -/
def State.regionReadable (s : State) (b off n : Nat) : Bool :=
  if s.hbm.badTiles.isEmpty && s.hbm.deadPcs.isEmpty && s.hbm.degraded.isEmpty then !s.hbmLost b off
  else (List.range (n / 4096)).all fun i => s.hbmReadable b (off + 4096 * i)

/-- Whether a restore of a context meets no uncorrectable tile (R382). -/
def State.saveReadable (s : State) (x : Ctx) : Bool :=
  let (b, o) := s.saveBase x
  s.regionReadable b o (2 ^ 21) && (x.saved.isNone || s.regionReadable b (o + 2 ^ 21) (144 * 2 ^ 20)) &&
  (match x.savedRange with
   | some (a, k) => allDies.all fun d => s.regionReadable b (o + sliceOff d + a / 4096 * 4096) (roundUp (a % 4096 + k) 4096)
   | none => true)

/-- The slices of a context that is switched in: its saved range, and zeros around it (R209, R377, R414). -/
def State.restoreSlices (s : State) (x : Ctx) : State :=
  let (b, o) := s.saveBase x
  let base := hbmKey b o
  { s with slices := Vector.ofFn fun d =>
      let k := s.slices.get d
      if s.fenced (.c d) then k
      else ⟨match x.savedRange with
        | some (a, n) => scopy 0 s.hbm.mem [] (base + sliceOff d + a) n a
        | none => [], []⟩ }

/-- The cores of a program in progress as its save area holds them (R377, R386). -/
def State.restoreCores (s : State) (x : Ctx) (v : Saved) : State :=
  let (b, o) := s.saveBase x
  let base := hbmKey b o
  let s := s.mapCores fun c k =>
    match assoc? c.val v.infos, assoc? c.val v.queues, assoc? c.val v.trailing with
    | some infos, some qs, some ts =>
      let plate := Vector.ofFn fun (p : Fin 8) => infos.getD p.val PlateInfo.reset
      let queues := Vector.ofFn fun (q : Fin 4) => qs.getD q.val Queue.empty
      let k : Core := { k.idle with plate := plate, queues := queues, trailing := ts, stopped := decide (c.val ∈ v.stopped) }
      let k := k.bankWaits s.timeNs true
      let fmt := fun (p : Nat) => fieldAt (readBytes s.hbm.mem (base + 64 + 8 * c.val) 8) p 1
      let kept := (List.range 8).filter fun p => fmt p ≠ 0 || (4 ≤ p && fmt (p - 4) = 0x40)
      { k with plates := loadPlates s.hbm.mem base c kept }
    | _, _, _ => k.idle
  let s := s.modFabric fun f => { f with xfers := f.xfers ++ v.xfers }
  { s with beds := Vector.ofFn fun bed => { s.beds.get bed with adders := Vector.ofFn fun k =>
      let a := (s.beds.get bed).adders.get k
      let i := 3 * bed.val + k.val
      { states := a.states ++ (v.tiles.filter fun t => t.1 = i).map fun t => t.2,
        hold := a.hold ++ (v.hold.filter fun t => t.1 = i).map fun t => t.2 } } }

/-- What RESUME_FAULT makes of a held operation of the running program: it goes on, or it ends with its fault status and the
program stops as class C (R226). -/
def State.answerOp (s : State) (n : CtxId) (f : HeldFault) (c : CoreId) (q : QueueId) (endIt : Bool) : State :=
  let s := s.modCtx n fun x => { x with held := x.held.filter fun (e : HeldFault) => e.id ≠ f.id }
  let w := (s.core c).queue q
  if w.wait ≠ .held f.id then s
  else if endIt then
    match w.ops, w.run with
    | d :: _, some r =>
      let s := s.modQueue c q fun w => { w with wait := .none, run := some { r with outcome := some (.fault f.status) } }
      s.stopProgram n f.status 3 (progressWord d.op c q (doneField d.op r)) f.id
    | _, _ => s
  else
    let cause := s.idleCause c (s.ctxD n)
    let again := fun (w : Queue) => { w with wait := .none, run := w.run.map fun r => { r with resumed := true } }
    s.modCore c fun k => { (k.modQueue q again) with idleAs := if cause = 8 then some 8 else k.idleAs }

/-- Answers given while the context did not run take effect (R226). -/
def State.applyAnswers (s : State) (n : CtxId) : State :=
  (s.ctxD n).held.foldl (fun s f => match f.by_, f.answer with
    | .op c q _, some e => s.answerOp n f c q e
    | _, _ => s) s

/-- BARRIERs of the running program that wait on a broken line end with BARRIER_BROKEN (R200). -/
def State.failBroken (s : State) (n : CtxId) : State :=
  s.failWaiters n fun l => (((s.ctxD n).line? l).map fun h => h.broken).getD false

/-- The fence that a program in progress meets at its switch-in: of a die of its core map, or of one that its ring map names and that
has been fenced since the program began (R282, R377). -/
def State.fencedProgram (s : State) (x : Ctx) : Bool :=
  x.program && allDies.any fun d => s.fenced (.c d) && (dieInMap x.coreMap d ||
    ((x.exec.map fun e => decide (d ∈ e.lost)).getD false && x.grad.replicas.any fun r => r.die == d))

/-- A context is switched in, where none runs; nothing of the one before it is left (R209, R377, R378, R414). -/
def State.switchIn (s : State) (n : CtxId) : State :=
  let s := if s.fencedProgram (s.ctxD n) then s.stopNow n .dieFenced 5 0 0 else s
  let s := if s.saveReadable (s.ctxD n) || ((s.ctxD n).saveCount = 0) then s
    else if (s.ctxD n).exec.isSome then s.stopNow n .uncorrectableData 4 0 0 else s.modCtx n fun x => { x with faulted := true }
  let x := s.ctxD n
  let s := s.mapCores fun _ k => k.idle
  let s := s.restoreSlices x
  let s := match x.saved with
    | some v => s.restoreCores x v
    | none => s
  let s := s.stamp
  let s := { (s.putCtx n { x with saved := none, runSince := s.timeNs }) with running := some n }
  ((s.applyAnswers n).failBroken n).restartGrad n

/-- CTX_RUN (R375, R377, R393, R394). -/
def execCtxRun (h : CmdHdr) (ctx : Nat) (s : State) : Host.Outcome State Fault Refusal :=
  .next (s.hostLong h (.ctxRun ctx) fun begun s =>
    if s.switchBusy h then s
    else if ctxOf ctx = 0 then s.complete h .badContext
    else s.onCtx h ctx fun n _ =>
      let finish := fun (s : State) =>
        let s := s.switchIn n
        let (us, s) := s.draw
        let s := s.modCtx n fun x => { x with lastSwitchUs := us }
        let s := s.event n 0x02 .done 0 [(24, 4, us)]
        s.complete h .done us
      match s.running with
      | none => finish s
      | some d =>
        if d = n then s.complete h .done
        else
          let y := s.ctxD d
          if y.program && y.saveSize < 585 then s.complete h .badLength
          else match s.switchOut d (decide (585 ≤ y.saveSize)) with
            | (s, true) => finish s
            | (s, false) => s.waitOn h (.ctxRun ctx) begun)

/-! ## Creation, reset and destruction -/

/-- The state of a context that a context reset clears (R379). -/
def Ctx.cleared (x : Ctx) : Ctx :=
  { x with faulted := false, saved := none, counters := [], held := [], lanes := [], stops := [],
           channels := x.channels.map fun c => { c with occ := 0 },
           lines := x.lines.map fun l => (l.1, { l.2 with gen := false, arrived := [], held := [], broken := false, times := [] }),
           grad := x.grad.emptied, shuffle := x.shuffle.map Reservoir.emptied }

/-- The context reset (R379): the EXEC in progress and the media jobs end, and the program's state is cleared. -/
def State.resetCtx (s : State) (n : CtxId) : State :=
  let s := match (s.ctxD n).exec with
    | some e => (s.modCtx n fun x => { x with exec := none }).complete e.hdr .contextEnded
    | none => s
  let s := ((s.endMedia n).dropFlow n).dropGroups n
  s.modCtx n Ctx.cleared

/-- CTX_RESUME (R375, R379). -/
def execCtxResume (h : CmdHdr) (ctx : Nat) (s : State) : Host.Outcome State Fault Refusal :=
  .next (s.host1 h (.ctxResume ctx) fun s =>
    if ctxOf ctx = 0 then s.complete h .badContext
    else s.onCtx h ctx fun n _ => if s.running = some n then s.busy h else (s.resetCtx n).complete h .done)

/-- Whether a function is enabled (R363). -/
def State.funcEnabled (s : State) (f : Nat) : Bool := f == 0 || (s.host.vfEnable && decide (f ≤ s.host.numVfs))

/-- Whether a save area lies where R363 asks for it. -/
def State.saveAreaOk (s : State) (p : CtxCreateP) : Bool :=
  decide (1 ≤ p.saveSize) && decide (32 ≤ p.saveOff) && decide (p.saveOff + p.saveSize ≤ s.hbm.devSize) &&
  s.ctxs.all fun e => e.1 = 0 || !meets p.saveOff p.saveSize e.2.saveOff e.2.saveSize

/-- CTX_CREATE (R363, R374). -/
def execCtxCreate (h : CmdHdr) (p : CtxCreateP) (s : State) : Host.Outcome State Fault Refusal :=
  .next (s.host1 h (.ctxCreate p) fun s =>
    let n := ctxOf p.ctx
    let bytes := p.stackSize * 2 ^ 23
    if p.ctx = 0 ∨ 4096 ≤ p.ctx ∨ (s.ctx? n).isSome then s.complete h .badContext
    else if !s.funcEnabled p.func || (p.func ≠ 0 && s.ctxs.any fun e => e.2.func == p.func && e.2.vfSlot == p.vfSlot) then s.complete h .badContext
    else if (p.func = 0 ∧ p.vfSlot ≠ 0) ∨ p.stackBase % 2097152 ≠ 0 ∨ p.stackSize = 0 ∨ 8192 < p.stackSize ∨ 2 ^ 48 < p.stackBase + 16 * bytes ∨
        !s.saveAreaOk p then s.complete h .badLength
    else
      let partners := allDies.map fun d => (d.val, (d.val + 8) % 16)
      let x : Ctx := { Ctx.fresh with func := p.func, vfSlot := p.vfSlot, pasid := if p.pasidEn then some p.pasid else none, srKey := p.srKey, stackBase := p.stackBase,
                                      stackSize := bytes, stackMask := p.stackMask, saveOff := p.saveOff, saveSize := p.saveSize, partner := partners }
      let s := s.modHbm fun m => { m with quotas := m.quotas.filter fun q => q.1 ≠ n.val }
      (s.putCtx n x).complete h .done)

/-- The part of a destroyed context's frames that are sealed to it goes to scrubbing (R413, R416). -/
def State.scrubCtx (s : State) (n : CtxId) : State :=
  s.modHbm fun m => { m with scrubbing := m.scrubbing ++ ((m.sealedFrames.filter fun e => e.2 = n).map fun e => e.1).filter fun k => k ∉ m.scrubbing }

/-- A context and everything that names it are removed (R363). -/
def State.removeCtx (s : State) (n : CtxId) : State :=
  let s := s.resetCtx n
  let mine := fun (f : Fetched) => match f.cmd with
    | .exec p => ctxOf p.ctx == n
    | .copy p => f.started && ctxOf p.ctx == n
    | .fill p => f.started && ctxOf p.ctx == n
    | .evict p => f.started && ctxOf p.ctx == n
    | _ => false
  let s := (s.dropCmds n).dropEntries n fun _ => true
  let s := (s.host.fetched.filter fun f => f.hdr.ctx == n || mine f).foldl (fun s f => s.complete f.hdr .contextEnded) s
  let s := s.scrubCtx n
  let s := s.modHost fun i => { i with
    rings := i.rings.filter fun e => e.1.1 ≠ n, events := i.events.filter fun e => e.1 ≠ n, windows := i.windows.filter fun w => w.2.ctx ≠ n }
  { s with ctxs := s.ctxs.filter fun e => e.1 ≠ n }

/-- CTX_DESTROY (R363, R375). -/
def execCtxDestroy (h : CmdHdr) (ctx : Nat) (s : State) : Host.Outcome State Fault Refusal :=
  .next (s.host1 h (.ctxDestroy ctx) fun s =>
    if ctxOf ctx = 0 then s.complete h .badContext
    else s.onCtx h ctx fun n _ => if s.running = some n then s.busy h else (s.removeCtx n).complete h .done)

/-! ## Faults, stops, lines and counters -/

/-- RESUME_FAULT (R226, R313). -/
def execResumeFault (h : CmdHdr) (p : ResumeFaultP) (s : State) : Host.Outcome State Fault Refusal :=
  .next (s.host1 h (.resumeFault p) fun s => s.onCtx h p.ctx fun n x =>
    match x.held.find? fun f => f.id == p.faultId with
    | none => s.complete h .badContext
    | some f =>
      let s := match f.by_ with
        | .op c q _ =>
          if s.running = some n then s.answerOp n f c q p.endIt
          else s.putCtx n { x with held := x.held.map fun (e : HeldFault) => if e.id = f.id then { e with answer := some p.endIt } else e }
        | .job j =>
          let s := s.putCtx n { x with held := x.held.filter fun (e : HeldFault) => e.id ≠ f.id }
          if p.endIt then s.stopJob j .pageFault true else s.modJob j fun k => k.retried
      s.complete h .done)

/-- A stopped core goes on (R181, R466). -/
def Core.resumed (k : Core) : Core := { k with stopped := false, stopBy := none, queues := k.queues.map fun w => { w with halted := false } }

/-- A STOP_AT value takes effect on a queue of the program that the cores hold (R181, R466). -/
def State.stopAtNow (s : State) (n : CtxId) (x : Ctx) (c : CoreId) (q : QueueId) (count : Nat) : State :=
  if ((s.core c).queue q).count < count then s.modCore c Core.resumed
  else if (s.core c).stopped then s
  else if ((s.core c).cur).isSome && x.program then s.modCore c fun k => { k with stopping := true }
  else s.stopCore n c q

/-- STOP_AT (R365, R466). -/
def execStopAt (h : CmdHdr) (p : StopAtP) (s : State) : Host.Outcome State Fault Refusal :=
  .next (s.host1 h (.stopAt p) fun s => s.onCtx h p.ctx fun n x =>
    let key := 4 * p.core.val + p.queue.val
    if p.clear && p.count ≠ 0 then s.complete h .reservedNonzero
    else if p.clear then
      let s := s.putCtx n { x with stops := assocDel key x.stops, saved := x.saved.map fun v => { v with stopped := v.stopped.filter fun c => c ≠ p.core.val } }
      let s := if s.running = some n && x.exec.isSome then s.modCore p.core Core.resumed else s
      s.complete h .done
    else
      let s := s.putCtx n { x with stops := assocSet key p.count x.stops }
      let s := if s.running = some n && x.exec.isSome then (if inMap x.coreMap p.core then s.stopAtNow n x p.core p.queue p.count else s)
        else s.modCtx n fun x => { x with saved := x.saved.map fun v =>
          match (assoc? p.core.val v.queues).bind fun qs => qs[p.queue.val]? with
          | some w => { v with stopped := if w.count < p.count then v.stopped.filter fun c => c ≠ p.core.val
              else if p.core.val ∈ v.stopped then v.stopped else v.stopped ++ [p.core.val] }
          | none => v }
      s.complete h .done)

/-- Set bits of a mask. -/
def popcount (n w : Nat) : Nat := ((List.range w).filter fun i => bit n i).length

/-- BARRIER_CONFIG (R190). -/
def execBarrierConfig (h : CmdHdr) (p : BarrierConfigP) (s : State) : Host.Outcome State Fault Refusal :=
  .next (s.host1 h (.barrierConfig p) fun s => s.onCtx h p.ctx fun n x =>
    let fencedIn := (allDies.any fun d => field p.mask (4 * d.val) 4 ≠ 0 && s.fenced (.c d)) ||
      allBeds.any fun m => bit p.mask (64 + m.val) && s.fenced (.m m)
    if s.running = some n then s.busy h
    else if popcount p.mask 68 ≠ p.count then s.complete h .badLength
    else if fencedIn then s.complete h .dieFenced
    else
      let lines := if p.mask = 0 then assocDel p.line.val x.lines else assocSet p.line.val ⟨p.mask, p.count, false, [], [], false, []⟩ x.lines
      (s.putCtx n { x with lines := lines }).complete h .done)

/-- COUNTER_SET (R182, R365). -/
def execCounterSet (h : CmdHdr) (p : CounterSetP) (s : State) : Host.Outcome State Fault Refusal :=
  .next (s.host1 h (.counterSet p) fun s => s.onCtx h p.ctx fun n x =>
    if s.running = some n then s.busy h
    else (s.putCtx n (x.setCounter p.core p.counter p.value.toNat)).complete h .done)

/-! ## QUERY (R362, R396) -/

/-- Dies of a kind that satisfy a test, as a mask. -/
def maskOf (l : List Nat) : Nat := (l.map fun i => 2 ^ i).sum

/-- The IDENT registers (R370). -/
def State.identPart (s : State) : Nat := 0x2516 + 2 ^ 16 * 0xA1 + 2 ^ 24 * (if s.fuses.es then 2 else 1)

/-- HBM bytes of the stacks that serve. -/
def State.hbmInService (s : State) : Nat :=
  (allBeds.map fun b => if s.fenced (.b b) then 0
    else ((List.range 3).filter fun i => (3 * b.val + i) ∉ s.hbm.failedStacks).length * 2 ^ 36).sum

/-- Item 0: the device summary. -/
def State.deviceSummary (s : State) : List Byte :=
  let ok := (allDies.filter fun d => (s.die (.c d)).loaded && !s.fenced (.c d)).map fun d => d.val
  let fencedC := (allDies.filter fun d => s.fenced (.c d)).map fun d => d.val
  let fencedBM := ((allBeds.filter fun b => s.fenced (.b b)).map fun b => b.val) ++ ((allBeds.filter fun b => s.fenced (.m b)).map fun b => 4 + b.val)
  record 64 [(0, 4, s.identPart), (4, 4, 1), (8, 8, s.fuses.serial), (16, 2, maskOf ok), (18, 2, maskOf fencedC), (20, 1, maskOf fencedBM),
    (22, 2, maskOf s.hbm.failedStacks.dedup), (24, 8, s.hbmInService)]

/-- Item 1: the state of a context (R396). -/
def State.contextReport (s : State) (n : CtxId) : List Byte :=
  match s.ctx? n with
  | none => record 64 [(0, 2, n.val)]
  | some x =>
    let run := s.running = some n
    let stopped := (run && x.exec.isSome && allCores.any fun c => (s.core c).stopped) || (x.saved.map fun v => !v.stopped.isEmpty).getD false
    let total := x.runNs + (if run then s.timeNs - x.runSince else 0)
    record 64 ([(0, 2, n.val), (2, 1, 1 + 2 * bitOf run + 4 * bitOf x.program + 8 * bitOf x.faulted + 16 * bitOf x.sealing.isSome + 32 * bitOf stopped +
      64 * bitOf x.savedRange.isSome), (3, 1, satAt 255 x.held.length), (4, 4, (x.exec.map fun e => e.hdr.seq.toNat).getD 0),
      (8, 1, (x.exec.map fun e => e.hdr.ring.val).getD 0), (9, 1, x.backlog.length), (10, 2, satAt 0xFFFF x.lostTotal), (12, 4, x.lastSaveUs % 2 ^ 32),
      (16, 4, x.lastSwitchUs % 2 ^ 32), (20, 8, total / 1000), (44, 4, saveNeed x.program x.lastFoot.isSome)] ++
      (x.held.take 8).zipIdx.map fun f => (28 + 2 * f.2, 2, f.1.id))

/-- Item 2: the parameters of a ring pair with its head and tail (R349, R362). -/
def ringReport (c : CtxId) (r : Fin 64) (x : Ring) : List Byte :=
  record 48 [(0, 2, c.val), (2, 1, r.val), (3, 1, x.sqLog + 16 * x.cqLog), (4, 1, bitOf x.sqHbm + 2 * bitOf x.cqHbm),
    (6, 2, x.vector + 2 ^ 15 * bitOf x.irqEn), (8, 8, x.sqBase), (16, 8, x.cqBase), (24, 2, x.sqHead), (26, 2, x.sqTail)]

/-- QUERY (R362, R396). -/
def execQuery (h : CmdHdr) (p : QueryP) (s : State) : Host.Outcome State Fault Refusal :=
  .next (s.host1 h (.query p) fun s =>
    match p.item with
    | 0 => s.report h p.buffer p.length s.deviceSummary
    | 1 => s.report h p.buffer p.length (s.contextReport (ctxOf p.ctx))
    | 2 => let r : Fin 64 := ⟨p.ring % 64, by omega⟩
      match s.host.ring? (ctxOf p.ctx) r with
      | some x => s.report h p.buffer p.length (ringReport (ctxOf p.ctx) r x)
      | none => s.complete h .badContext
    | _ => s.complete h .reservedNonzero)

/-! ## EXEC (R156 to R160, R352, R378) -/

/-- The dies whose descriptors can signal each counter (R199). -/
def ownersOf (qs : List (Nat × Desc)) : List (Nat × List DieId) :=
  let add := fun (l : List (Nat × List DieId)) (k : Nat) (d : DieId) =>
    let old := (assoc? k l).getD []
    if d ∈ old then l else assocSet k (old ++ [d]) l
  qs.foldl (fun l e =>
    let c : CoreId := ⟨e.1 / 4 % 64, by omega⟩
    let l := if e.2.sigEn then add l (ctrKey e.2.sigCore e.2.sigCtr) c.die else l
    match e.2.op with
    | .mcast p => (allDies.filter fun d => bit p.mask d.val).foldl (fun l d => add l (ctrKey (coreOf d p.memCore) p.memCtr) c.die) l
    | .outer p => if p.attHdr.sigEn then add l (ctrKey p.attHdr.sigCore p.attHdr.sigCtr) c.die else l
    | .stylus p => if p.pullHdr.sigEn then add l (ctrKey p.pullHdr.sigCore p.pullHdr.sigCtr) c.die else l
    | _ => l) []

/-- The footprint of a program with its mirror (R383). -/
def Header.range (h : Header) : Nat × Nat :=
  if h.mirrorSize = 0 then (h.footBase, h.footSize)
  else if h.footSize = 0 then (h.mirrorBase, h.mirrorSize)
  else
    let lo := min h.footBase h.mirrorBase
    (lo, max (h.footBase + h.footSize) (h.mirrorBase + h.mirrorSize) - lo)

/-- A queue with its program. -/
def Queue.load (q : Queue) (ops : List Desc) (x : Ctx) (c : CoreId) (limit now : Nat) : Queue :=
  ({ Queue.empty with ops := ops, mark := q.mark } : Queue).newHead x c limit now

/-- A program that has passed its checks is loaded: plates free and clear, queue counts 0, channels empty, and a core with a STOP_AT
count of 0 stopped before it issues (R158, R189, R199, R378, R466). -/
def State.beginProgram (s : State) (n : CtxId) (h : CmdHdr) (p : ExecP) (prog : Program) : State :=
  let hd := prog.header
  let e : Exec := ⟨h, hd.coreMap, hd.footBase, hd.footSize, hd.mirrorBase, hd.mirrorSize, if hd.rasterSize = 0 then none else some prog.raster,
    false, p.interlock, ownersOf prog.queues, [], none, 0, false, 0, false⟩
  let x := { s.ctxD n with exec := some e, channels := prog.channels, lastFoot := some hd.range }
  let ops := fun (c : CoreId) (q : Nat) => (prog.queues.filter fun d => d.1 = 4 * c.val + q).map fun d => d.2
  let s := s.mapCores fun c k => if inMap hd.coreMap c then
    { k.idle with freeAt := max k.freeAt (k.cyc + 257), queues := Vector.ofFn fun q => (k.queues.get q).load (ops c q.val) x c s.regs.waitLimit s.timeNs } else k
  let s := (s.putCtx n x).start h (.exec p)
  let s := (allCores.filter fun c => inMap hd.coreMap c && allQueues.any fun q => assoc? (4 * c.val + q.val) x.stops = some 0).foldl
    (fun s c => s.stopCore n c (stopQueue x (s.core c) c)) s
  s.finishExec n

/-- Whether this EXEC is the first of its context that waits (R352). -/
def State.firstExec (s : State) (h : CmdHdr) (n : CtxId) : Bool :=
  match s.host.fetched.find? fun f => !f.started && (match f.cmd with
    | .exec p => ctxOf p.ctx == n
    | _ => false) with
  | some f => f.hdr == h
  | none => false

/-- The bytes of a container: its header, and all of it where its version is accepted (R156, R159). -/
def State.readContainer (s : State) (n : CtxId) (env : Env) (addr : Nat) : Except Halt (List Byte × State) :=
  match Moving.readAll ⟨s, env.bytes, 0, 0, false⟩ n env addr 256 512 [] with
  | .error e => .error e
  | .ok (bs, m) =>
    let head := bs.reverse.flatten
    let size := fieldAt head 44 4
    if (versionBad head).isSome || size ≤ 256 then .ok (head, m.s)
    else match m.readAll n env addr size (size + 1) bs with
      | .error e => .error e
      | .ok (bs, m) => .ok (bs.reverse.flatten, m.s)

/-- EXEC: it waits until its context runs and no earlier EXEC of it is in progress; then the container is checked and its queues start
(R160, R352, R374, R375). -/
def execExecProgram (h : CmdHdr) (p : ExecP) (env : Env) (s : State) : Host.Outcome State Fault Refusal :=
  .next (s.host1 h (.exec p) fun s =>
    if ctxOf p.ctx = 0 then s.complete h .badContext
    else s.onCtx h p.ctx fun n x =>
      if x.exec.isSome || !s.firstExec h n then s
      else if x.faulted then s.complete h .badContext
      else if s.running ≠ some n || s.preempting n then s
      else match s.readContainer n env p.container with
        | .error t => s.commandHalt h n t p.container false 0
        | .ok (bs, s) => match s.loadProgram x p.container bs with
          | .ok prog => s.beginProgram n h p prog
          | .error (st, spot) =>
            let (id, s) := s.logFault { status := st, cls := 3, struct_ := 0x10, ctx := n.val, opTag := spot.2 }
              [record 64 [(0, 1, 8), (4, 4, spot.2), (8, 4, spot.1)]]
            s.complete h st 0 id)

end Sys2Proof.Machine
end

