-- ==== Sys2Proof/Machine/Packets.lean ====
section
/-! DEFINITION. Command packets: the layouts of the opcodes, the checks of R355, and the command that a packet spells (R349, R353
to R355, R361 to R366, R507, with R220, R264, R266, R284, R291, R293, R295, R320 and R327). -/

namespace Sys2Proof.Machine

open Sys2Proof

/-- What is said of an opcode: whether only rings of context 0 issue it, the bytes of its parameter layout, and the fields of that
layout by first bit and width. -/
structure OpInfo where
  ctx0 : Bool
  bytes : Nat
  fields : List (Nat × Nat)
deriving DecidableEq, Repr

/-- Bits `[lo + n - 1 : lo]` of the quantity at byte `b` (R15). -/
def bitsAt (b lo n : Nat) : Nat × Nat := (8 * b + lo, n)

/-- The fields of INGEST_OPEN (R291) and of TILE_FORMAT (R320). -/
def openFields : List (Nat × Nat) :=
  [bitsAt 0 0 12, bitsAt 2 0 6, bitsAt 3 0 5, bitsAt 4 0 4, bitsAt 5 0 8, bitsAt 6 0 5, bitsAt 7 0 6, bitsAt 8 0 16, bitsAt 10 0 16,
   bitsAt 12 0 6, bitsAt 13 0 8, bitsAt 14 0 7, bitsAt 15 0 4, bitsAt 16 0 256, bitsAt 48 0 48, bitsAt 56 0 32, bitsAt 60 0 16,
   bitsAt 62 0 16, bitsAt 64 0 2, bitsAt 65 0 8, bitsAt 66 0 12]
def formatFields : List (Nat × Nat) :=
  [bitsAt 0 0 12, bitsAt 2 0 8, bitsAt 3 0 8, bitsAt 4 0 9, bitsAt 6 0 6, bitsAt 7 0 7, bitsAt 8 0 13, bitsAt 10 0 13, bitsAt 12 0 13,
   bitsAt 14 0 13, bitsAt 16 0 13, bitsAt 18 0 3, bitsAt 19 0 6, bitsAt 20 0 6, bitsAt 24 0 192]

/-- The opcode table with the layouts of its parameters (R361); none for a reserved opcode. -/
def opInfo (op : Nat) : Option OpInfo :=
  let c := bitsAt 0 0 12
  match op with
  | 0x001 | 0x004 => some ⟨false, 0, []⟩
  | 0x002 => some ⟨false, 1, [bitsAt 0 0 1]⟩
  | 0x003 => some ⟨false, 20, [bitsAt 0 0 8, bitsAt 2 0 12, bitsAt 4 0 6, bitsAt 8 0 64, bitsAt 16 0 32]⟩
  | 0x010 => some ⟨true, 40, [c, bitsAt 2 0 6, bitsAt 3 0 7, bitsAt 4 0 20, bitsAt 8 0 64, bitsAt 16 0 48, bitsAt 24 0 14, bitsAt 28 0 16,
      bitsAt 32 0 14, bitsAt 36 0 14]⟩
  | 0x011 | 0x012 | 0x014 => some ⟨true, 2, [c]⟩
  | 0x013 => some ⟨true, 3, [c, bitsAt 2 0 1]⟩
  | 0x020 => some ⟨false, 48, [c, bitsAt 2 0 8, bitsAt 3 0 8, bitsAt 4 0 2, bitsAt 6 0 11, bitsAt 6 15 1, bitsAt 8 0 128]⟩
  | 0x100 => some ⟨true, 48, [c, bitsAt 16 0 54, bitsAt 24 0 64, bitsAt 32 0 21]⟩
  | 0x101 => some ⟨true, 24, [c, bitsAt 8 0 48, bitsAt 16 0 48]⟩
  | 0x102 => some ⟨false, 32, [c, bitsAt 2 0 2, bitsAt 8 0 128, bitsAt 24 0 40]⟩
  | 0x103 => some ⟨false, 24, [c, bitsAt 4 0 32, bitsAt 8 0 48, bitsAt 16 0 40]⟩
  | 0x104 => some ⟨true, 20, [c, bitsAt 0 15 1, bitsAt 2 0 8, bitsAt 8 0 64, bitsAt 16 0 32]⟩
  | 0x105 => some ⟨true, 32, [c, bitsAt 8 0 48, bitsAt 16 0 48, bitsAt 24 0 64]⟩
  | 0x106 => some ⟨true, 5, [c, bitsAt 2 0 16, bitsAt 4 0 1]⟩
  | 0x200 => some ⟨false, 16, [c, bitsAt 2 0 1, bitsAt 8 0 48]⟩
  | 0x201 => some ⟨false, 8, [c, bitsAt 2 0 6, bitsAt 3 0 3, bitsAt 4 0 32]⟩
  | 0x202 => some ⟨false, 17, [c, bitsAt 2 0 5, bitsAt 3 0 7, bitsAt 8 0 64, bitsAt 16 0 4]⟩
  | 0x203 => some ⟨false, 64, [c, bitsAt 2 0 5, bitsAt 4 0 128]⟩
  | 0x204 => some ⟨false, 8, [c, bitsAt 2 0 6, bitsAt 3 0 6, bitsAt 4 0 32]⟩
  | 0x205 => some ⟨false, 64, [c, bitsAt 2 0 3, bitsAt 3 0 32, bitsAt 8 0 26, bitsAt 12 0 64]⟩
  | 0x206 => some ⟨false, 128, [c, bitsAt 2 0 6, bitsAt 3 0 4, bitsAt 4 0 32, bitsAt 8 0 48, bitsAt 16 0 512]⟩
  | 0x300 => some ⟨false, 128, openFields⟩
  | 0x301 => some ⟨false, 64, [c, bitsAt 2 0 7, bitsAt 4 0 32, bitsAt 8 0 48, bitsAt 16 0 64, bitsAt 24 0 32, bitsAt 28 0 13, bitsAt 32 0 48,
      bitsAt 40 0 32, bitsAt 48 0 48]⟩
  | 0x302 => some ⟨false, 3, [c, bitsAt 2 0 6]⟩
  | 0x303 => some ⟨false, 64, formatFields⟩
  | 0x304 => some ⟨false, 128, [c, bitsAt 2 0 15, bitsAt 4 0 32, bitsAt 8 0 48, bitsAt 16 0 640]⟩
  | 0x305 => some ⟨false, 24, [c, bitsAt 2 0 1, bitsAt 8 0 128]⟩
  | 0x400 | 0x401 => some ⟨false, 24, [c, bitsAt 2 0 1, bitsAt 8 0 48, bitsAt 16 0 48]⟩
  | 0x402 | 0x403 | 0xF00 => some ⟨true, 3, [bitsAt 2 0 5]⟩
  | 0x404 => some ⟨true, 20, [bitsAt 2 0 16, bitsAt 8 0 64, bitsAt 16 0 32]⟩
  | 0x405 => some ⟨true, 4, [c, bitsAt 2 0 4, bitsAt 3 0 4]⟩
  | 0x500 => some ⟨false, 20, [c, bitsAt 8 0 64, bitsAt 16 0 32]⟩
  | 0x501 => some ⟨false, 32, [c, bitsAt 8 0 64, bitsAt 16 0 48, bitsAt 24 0 40]⟩
  | 0x502 => some ⟨false, 2, [c]⟩
  | 0x503 => some ⟨true, 20, [bitsAt 8 0 64, bitsAt 16 0 32]⟩
  | 0x504 => some ⟨true, 0, []⟩
  | 0x505 => some ⟨true, 20, [bitsAt 2 0 1, bitsAt 8 0 64, bitsAt 16 0 32]⟩
  | 0x600 => some ⟨true, 3, [bitsAt 0 0 12, bitsAt 2 0 1]⟩
  | 0x601 => some ⟨true, 20, [bitsAt 2 0 1, bitsAt 8 0 64, bitsAt 16 0 32]⟩
  | _ => none

/-- The bits of `w` that no field of a layout names (R16). -/
def outside (fs : List (Nat × Nat)) (w : Nat) : Nat := fs.foldl (fun n f => n - field w f.1 f.2 * 2 ^ f.1) w

/-- The die of a die code (R366). -/
def dieOf (n : Nat) : Option DieCode :=
  if n < 16 then some (.c ⟨n % 16, by omega⟩)
  else if n < 20 then some (.b ⟨n % 4, by omega⟩)
  else if n < 24 then some (.m ⟨n % 4, by omega⟩)
  else none

def coreNo (n : Nat) : CoreId := ⟨n % 64, by omega⟩
def dieNo (n : Nat) : DieId := ⟨n % 16, by omega⟩

/-- `k` entries of `n` bits from bit `lo` on. -/
def arrayOf (w lo n k : Nat) : List Nat := (List.range k).map fun i => field w (lo + n * i) n

/-- RING_CONFIG (R349): a disable and an event ring reserve the fields that they do not use. -/
def parseRingConfig (w : Nat) : Option HostCmd :=
  let f := fun b lo n => field w (8 * b + lo) n
  let p : RingConfigP := ⟨f 0 0 12, f 2 0 6, bit w 22, bit w 23, f 3 0 4, f 3 4 4, bit w 32, bit w 33, f 6 0 11, bit w 63, f 8 0 64, f 16 0 64⟩
  let wide := fun (hbm : Bool) (a : Nat) => hbm && decide (2 ^ 48 ≤ a)
  if p.event && p.ring ≠ 0 then none
  else if p.disable then (if w / 2 ^ 24 = 0 then some (.ringConfig p) else none)
  else if p.event && (p.sqLog ≠ 0 || p.sqHbm || p.sqBase ≠ 0) then none
  else if 10 < p.sqLog ∨ 10 < p.cqLog ∨ wide p.sqHbm p.sqBase ∨ wide p.cqHbm p.cqBase then none
  else some (.ringConfig p)

/-- INGEST_OPEN (R291). -/
def parseOpen (w : Nat) : Option HostCmd :=
  let f := fun b lo n => field w (8 * b + lo) n
  let g := fun b i => bit w (8 * b + i)
  let p : IngestOpenP := ⟨f 0 0 12, f 2 0 6, f 3 0 2, f 3 2 3, f 4 0 4, f 5 0 7, g 5 7, f 6 0 5, ⟨f 7 0 5 % 32, by omega⟩, g 7 5,
    f 8 0 16, f 10 0 16, g 12 0, g 12 1, f 12 2 2, g 12 4, g 12 5, f 13 0 8, f 14 0 3, f 14 3 2, g 14 5, g 14 6, f 15 0 4,
    arrayOf w 128 16 16, f 48 0 48, f 56 0 32, f 60 0 16, f 62 0 16, f 64 0 2, f 65 0 8, f 66 0 12⟩
  if p.pidMode && (p.sel.take 7).any fun k => 2 ^ 13 ≤ k then none else some (.ingestOpen p)

/-- TILE_FORMAT; none for a reserved code of its format or its range (R17, R320). -/
def parseFormat (w : Nat) : Option HostCmd :=
  let f := fun b lo n => field w (8 * b + lo) n
  let g := fun b i => bit w (8 * b + i)
  let p : TileFormatP := ⟨f 0 0 12, f 2 0 8, f 3 0 8, f 4 0 9, f 6 0 6, g 7 0, g 7 1, f 7 2 2, f 7 4 2, g 7 6, f 8 0 13, f 10 0 13, f 12 0 13,
    f 14 0 13, f 16 0 13, f 18 0 3, f 19 0 6, f 20 0 6, arrayOf w 192 32 3, arrayOf w 288 32 3⟩
  if (p.fmt ≠ 0x02 ∧ p.fmt ≠ 0x20) ∨ p.range = 3 then none else some (.tileFormat p)

/-- The command that an opcode and its parameter area spell; none where a reserved code is used or a field is set that the others
reserve (check 4 of R355, R507). -/
def parseParams (op w : Nat) : Option HostCmd :=
  let f := fun b lo n => field w (8 * b + lo) n
  let g := fun b i => bit w (8 * b + i)
  let ctx := f 0 0 12
  match op with
  | 0x001 => some .nop
  | 0x002 => some (.fence (g 0 0))
  | 0x003 => if 2 < f 0 0 8 then none else some (.query ⟨f 0 0 8, f 2 0 12, f 4 0 6, f 8 0 64, f 16 0 32⟩)
  | 0x004 => some .timestamp
  | 0x010 => some (.ctxCreate ⟨ctx, f 2 0 6, f 3 0 6, g 3 6, f 4 0 20, f 8 0 64, f 16 0 48, f 24 0 14, f 28 0 16, f 32 0 14, f 36 0 14⟩)
  | 0x011 => some (.ctxDestroy ctx)
  | 0x012 => some (.ctxRun ctx)
  | 0x013 => some (.ctxPreempt ctx (g 2 0))
  | 0x014 => some (.ctxResume ctx)
  | 0x020 => parseRingConfig w
  | 0x100 =>
    let p : MapP := ⟨ctx, f 16 0 48, g 16 48, g 16 49, g 16 50, g 16 51, g 16 52, g 16 53, f 24 0 64, f 32 0 21⟩
    if (!p.far && (2 ^ 41 ≤ p.target || p.ns || p.at_)) || !p.rd || p.count = 0 || 2 ^ 20 < p.count then none else some (.map p)
  | 0x101 => some (.unmap ⟨ctx, f 8 0 48, f 16 0 48⟩)
  | 0x102 => some (.copy ⟨ctx, g 2 0, g 2 1, f 8 0 64, f 16 0 64, f 24 0 40⟩)
  | 0x103 => some (.fill ⟨ctx, f 4 0 32, f 8 0 48, f 16 0 40⟩)
  | 0x104 => if g 0 15 && ctx ≠ 0 then none else some (.ageScan ⟨ctx, g 0 15, f 2 0 8, f 8 0 64, f 16 0 32⟩)
  | 0x105 => some (.evict ⟨ctx, f 8 0 48, f 16 0 48, f 24 0 64⟩)
  | 0x106 => some (.resumeFault ⟨ctx, f 2 0 16, g 4 0⟩)
  | 0x200 => some (.exec ⟨ctx, g 2 0, f 8 0 48⟩)
  | 0x201 => some (.stopAt ⟨ctx, coreNo (f 2 0 6), ⟨f 3 0 2 % 4, by omega⟩, g 3 2, f 4 0 32⟩)
  | 0x202 => some (.barrierConfig ⟨ctx, ⟨f 2 0 5 % 32, by omega⟩, f 3 0 7, f 8 0 68⟩)
  | 0x203 =>
    let p : RingMapP := ⟨ctx, f 2 0 5, arrayOf w 32 8 16⟩
    if (p.dies.drop p.replicas).any (fun d => d ≠ 0) || (p.dies.take p.replicas).any fun d => 16 ≤ d then none else some (.ringMap p)
  | 0x204 => some (.counterSet ⟨ctx, coreNo (f 2 0 6), ⟨f 3 0 6 % 64, by omega⟩, BitVec.ofNat 32 (f 4 0 32)⟩)
  | 0x205 =>
    let p : GradConfigP := ⟨ctx, f 2 0 3, f 3 0 8, f 4 0 16, f 6 0 8, f 8 0 26, arrayOf w 96 16 4⟩
    if p.sizeCode = 7 ∨ (p.fmt ≠ 1 ∧ p.fmt ≠ 2) then none else some (.gradConfig p)
  | 0x206 =>
    let p : CascadeConfigP := ⟨ctx, f 2 0 3, f 2 3 3, f 3 0 4, arrayOf w 32 4 8, f 8 0 48, arrayOf w 128 64 8⟩
    let idle := fun (i : Nat) => decide (i = p.index ∨ p.devices ≤ i)
    if (p.peers.zipIdx.any fun a => a.1 ≠ 0 && idle a.2) || (p.counts.drop p.devices).any (fun k => k ≠ 0) ||
        (p.index ≠ p.master && p.counts.any fun k => k ≠ 0) then none
    else some (.cascadeConfig p)
  | 0x300 => parseOpen w
  | 0x301 => some (.ingestFeed ⟨ctx, f 2 0 6, g 2 6, f 4 0 32, f 8 0 48, f 16 0 64, f 24 0 32, f 28 0 13, f 32 0 48, f 40 0 32, f 48 0 48⟩)
  | 0x302 => some (.ingestClose ⟨ctx, f 2 0 6⟩)
  | 0x303 => parseFormat w
  | 0x304 => some (.shuffleConfig ⟨ctx, f 2 0 8, f 3 0 7, f 4 0 32, f 8 0 48, f 16 0 128, arrayOf w 256 8 64⟩)
  | 0x305 =>
    let p : ShuffleSeekP := ⟨ctx, g 2 0, f 8 0 64, f 16 0 64⟩
    if !p.voidRange && p.b ≠ 0 then none else some (.shuffleSeek p)
  | 0x400 | 0x401 =>
    let p : ImpressionP := ⟨ctx, g 2 0, f 8 0 48, f 16 0 48⟩
    if !p.far && p.farAddr ≠ 0 then none else some (if op = 0x400 then .impressionTake p else .impressionRestore p)
  | 0x402 => (dieOf (f 2 0 5)).map .dieFence
  | 0x403 => match dieOf (f 2 0 5) with
    | some (.b _) | none => none
    | some d => some (.dieReset d)
  | 0x404 => some (.faultLogRead ⟨f 2 0 16, f 8 0 64, f 16 0 32⟩)
  | 0x405 => some (.partnerSet ⟨ctx, dieNo (f 2 0 4), dieNo (f 3 0 4)⟩)
  | 0x500 => some (.sealOpen ⟨ctx, f 8 0 64, f 16 0 32⟩)
  | 0x501 => some (.sealLoad ⟨ctx, f 8 0 64, f 16 0 48, f 24 0 40⟩)
  | 0x502 => some (.sealClose ctx)
  | 0x503 => some (.fwStage ⟨f 8 0 64, f 16 0 32⟩)
  | 0x504 => some .fwActivate
  | 0x505 => some (.debugUnlock ⟨g 2 0, f 8 0 64, f 16 0 32⟩)
  | 0x600 => some (.powerPolicy ⟨f 0 0 12, g 2 0⟩)
  | 0x601 => some (.telemetryRead ⟨g 2 0, f 8 0 64, f 16 0 32⟩)
  | 0xF00 => match dieOf (f 2 0 5) with
    | some (.b _) | none => none
    | some d => some (.selfTest d)
  | _ => none

/-- The context that a command names, if it names one (R353). -/
def HostCmd.names : HostCmd → Option Nat
  | .nop | .fence _ | .timestamp => none
  | .query p => if p.item = 0 then none else some p.ctx
  | .ctxCreate p => some p.ctx
  | .ctxDestroy c | .ctxRun c | .ctxPreempt c _ | .ctxResume c | .sealClose c => some c
  | .ringConfig p => some p.ctx
  | .map p => some p.ctx
  | .unmap p => some p.ctx
  | .copy p => some p.ctx
  | .fill p => some p.ctx
  | .ageScan p => if p.all then none else some p.ctx
  | .evict p => some p.ctx
  | .resumeFault p => some p.ctx
  | .exec p => some p.ctx
  | .stopAt p => some p.ctx
  | .barrierConfig p => some p.ctx
  | .ringMap p => some p.ctx
  | .counterSet p => some p.ctx
  | .gradConfig p => some p.ctx
  | .cascadeConfig p => some p.ctx
  | .ingestOpen p => some p.ctx
  | .ingestFeed p => some p.ctx
  | .ingestClose p => some p.ctx
  | .tileFormat p => some p.ctx
  | .shuffleConfig p => some p.ctx
  | .shuffleSeek p => some p.ctx
  | .impressionTake p | .impressionRestore p => some p.ctx
  | .partnerSet p => some p.ctx
  | .sealOpen p => some p.ctx
  | .sealLoad p => some p.ctx
  | .dieFence _ | .dieReset _ | .faultLogRead _ | .fwStage _ | .fwActivate | .debugUnlock _ | .powerPolicy _ | .telemetryRead _
  | .selfTest _ => none

/-- Whether a ring of context `c` may issue a command (R349, R353). -/
def allowed (c : CtxId) (i : OpInfo) (k : HostCmd) : Bool :=
  c == 0 || (!i.ctx0 && (match HostCmd.names k with
    | none => true
    | some n => n == c.val) && (match k with
    | .ringConfig p => !p.event && p.ring ≠ 0
    | _ => true))

/-- What a whole packet of ring (c, r) spells, by the checks of R355: its header with either the command or the status of the first
check that fails. -/
def parsePacket (c : CtxId) (r : Fin 64) (bs : List Byte) : CmdHdr × Except Status HostCmd :=
  let w := leNat bs
  let h : CmdHdr := ⟨c, r, BitVec.ofNat 32 (field w 32 32), bit w 24, bit w 25⟩
  let blocks := field w 16 5
  let op := field w 0 12
  let params := w / 2 ^ 128
  (h, if blocks = 0 ∨ 16 < blocks then .error .badLength
    else match opInfo op with
      | none => .error .badOpcode
      | some i =>
        if 64 * blocks < 16 + i.bytes then .error .badLength
        else if field w 12 4 ≠ 0 ∨ field w 21 3 ≠ 0 ∨ field w 26 6 ≠ 0 ∨ field w 64 64 ≠ 0 ∨ outside i.fields params ≠ 0 then .error .reservedNonzero
        else match parseParams op params with
          | none => .error .reservedNonzero
          | some k => if allowed c i k then .ok k else .error .accessDenied)

end Sys2Proof.Machine
end

