-- ==== Sys2Proof/Machine/HostRings.lean ====
section
/-! DEFINITION. Meanings of the ring commands and events: RING_CONFIG, the doorbells, the fetch of commands, ring errors and the
event backlog (R344, R348 to R355, R360, R392). -/

namespace Sys2Proof.Machine

open Sys2Proof

/-! ## Functions and their windows -/

/-- Bytes of BAR 4 of a function (R342). -/
def State.bar4Size (s : State) (f : Nat) : Nat := if f = 0 then 2 ^ s.host.barLog else 2 ^ 32

/-- The context that a doorbell page of a function belongs to (R342). -/
def State.pageCtx (s : State) (f page : Nat) : Option CtxId :=
  if f = 0 then (if page < 4096 then (s.ctx? (ctxOf page)).map fun _ => ctxOf page else none)
  else (s.ctxs.find? fun e => e.2.func == f && e.2.vfSlot == page).map fun e => e.1

/-- Whether a ring of a function is configured (R347). -/
def State.funcHasRing (s : State) (f : Nat) : Bool :=
  s.host.rings.any (fun e => s.funcOf e.1.1 == f) || s.host.events.any fun e => s.funcOf e.1 == f

/-! ## Doorbells -/

/-- The reasons of a dropped doorbell write (R371). -/
def dropInoperative : Nat := 0
def dropUnagreed : Nat := 1
def dropUnconfigured : Nat := 2
def dropIndex : Nat := 3
def dropOffset : Nat := 4

/-- A doorbell write is dropped and counted (R344, R371, R372). -/
def State.dropBell (s : State) (w : DoorbellWrite) (reason : Nat) : State :=
  let f : Fin 64 := ⟨w.func % 64, by omega⟩
  (s.modHost fun h => { h with
    drops := vmod h.drops f fun n => satAt (2 ^ 32 - 1) (n + 1),
    doorbellLast := w.page % 2 ^ 12 + 2 ^ 12 * (w.bell % 64) + 2 ^ 18 * reason }).raiseInt intDoorbell

/-- Whether a doorbell write lies in a doorbell page of an enabled function (R342, R344). -/
def State.bellExists (s : State) (w : DoorbellWrite) : Bool :=
  decide (w.func < 64) && s.funcEnabled w.func && decide (w.page < if w.func = 0 then 4096 else 64) && decide (w.bell < 64) && decide (w.off < 64)

/-- A doorbell write: what its offset names takes the index, or the write is dropped with the first reason that holds (R344). -/
def State.doorbell (s : State) (w : DoorbellWrite) : State :=
  let v := w.value % 2 ^ 16
  let bell : Fin 64 := ⟨w.bell % 64, by omega⟩
  let good := w.width == 4 && (w.off == 0 || w.off == 8 || (w.off == 16 && w.bell == 0))
  if !s.host.configReady || s.clk.inReset || s.clk.tripped || s.dbg.frozen then s
  else if !s.host.operational then s.dropBell w dropInoperative
  else if s.host.agreed.get ⟨w.func % 64, by omega⟩ = 0 then s.dropBell w dropUnagreed
  else if !good then s.dropBell w dropOffset
  else match s.pageCtx w.func w.page with
    | none => s.dropBell w dropUnconfigured
    | some c =>
      if w.off = 16 then match s.events? c with
        | some r =>
          if r.err then s.dropBell w dropUnconfigured
          else if ringEntries r.log ≤ v then s.dropBell w dropIndex
          else s.modHost fun h => { h with events := assocSet c { r with head := v } h.events }
        | none => s.dropBell w dropUnconfigured
      else match s.host.ring? c bell with
        | some r =>
          if r.err then s.dropBell w dropUnconfigured
          else if w.off = 0 then
            if ringEntries r.sqLog ≤ v then s.dropBell w dropIndex else s.putRing c bell { r with sqTail := v }
          else if ringEntries r.cqLog ≤ v then s.dropBell w dropIndex else s.putRing c bell { r with cqHead := v }
        | none => s.dropBell w dropUnconfigured

/-- A write of a submission tail (R344, R350). -/
def execDoorbellSqTail (w : DoorbellWrite) (s : State) : Host.Outcome State Fault Refusal :=
  if s.bellExists w then .next (s.doorbell w) else .fault .noSuchAddress

/-- A write of a completion head, which consumes the entries before it (R344, R350). -/
def execDoorbellCqHead (w : DoorbellWrite) (s : State) : Host.Outcome State Fault Refusal :=
  if s.bellExists w then .next (s.doorbell w) else .fault .noSuchAddress

/-- A write of the event head (R344, R360). -/
def execDoorbellEventHead (w : DoorbellWrite) (s : State) : Host.Outcome State Fault Refusal :=
  if s.bellExists w then .next (s.doorbell w) else .fault .noSuchAddress

/-! ## Ring errors -/

/-- A ring enters error: it fetches nothing, and the host hears of it (R351, R373, R391). -/
def State.ringFails (s : State) (c : CtxId) (sel : RingSel) (st : Status) (addr : Nat) : State :=
  let known := match sel with
    | .pair r => (s.host.ring? c r).isSome
    | .event => (s.events? c).isSome
  let no := match sel with
    | .pair r => r.val
    | .event => 63
  let ringErr := fun (e : (CtxId × Fin 64) × Ring) => match sel with
    | .pair r => if e.1 = (c, r) then (e.1, { e.2 with err := true }) else e
    | .event => e
  let eventErr := fun (e : CtxId × EventRing) => match sel with
    | .event => if e.1 = c then (e.1, { e.2 with err := true }) else e
    | .pair _ => e
  if !known then s
  else
    let s := s.modHost fun h => { h with
      rings := h.rings.map ringErr, events := h.events.map eventErr, ringErrLast := c.val + 2 ^ 12 * no + 2 ^ 31 }
    (s.event c 0x04 st 0 [(24, 1, (if sel = RingSel.event then 64 else no)), (32, 8, addr)]).raiseInt intRing

/-- The statuses of a failed ring read (R351). -/
def ringStatus (st : Status) : Bool := st == .farTierError || st == .farTierTimeout || st == .uncorrectableData

/-- RING_ERROR: a read of a configured ring fails (R351). -/
def execRingError (c : CtxId) (sel : RingSel) (st : Status) (addr : Nat) (s : State) : Host.Outcome State Fault Refusal :=
  .next (if s.live && ringStatus st then s.ringFails c sel st addr else s)

/-! ## The fetch of commands -/

/-- Entries pending in a submission ring, and whether its completion ring has an entry to reserve (R350). -/
def Ring.waiting (r : Ring) : Nat := (r.sqTail + ringEntries r.sqLog - r.sqHead) % ringEntries r.sqLog
def Ring.canReserve (r : Ring) : Bool :=
  (r.cqTail + ringEntries r.cqLog - r.cqHead) % ringEntries r.cqLog + r.reserved < ringEntries r.cqLog - 1

/-- `k` entries of a submission ring from its head on, with the address and the status of the read that fails (R351). Bytes of host
memory come from `env`, in reading order. -/
def State.readEntries (s : State) (c : CtxId) (r : Ring) (env : Env) : Nat → Nat → Except (Nat × Status) (List Byte)
  | 0, _ => .ok []
  | k + 1, i =>
    let at_ := r.sqBase + 64 * ((r.sqHead + i) % ringEntries r.sqLog)
    let entry : Except (Nat × Status) (List Byte) :=
      if r.sqHbm then match s.vread c at_ 64 with
        | .ok bs => .ok bs
        | .error _ => .error (at_, .uncorrectableData)
      else match env.rdFail with
        | some (n, f) => if n < 64 * (i + 1) then .error (at_, f.status) else .ok (padTo 64 (env.bytes.drop (64 * i)))
        | none => .ok (padTo 64 (env.bytes.drop (64 * i)))
    match entry with
    | .error e => .error e
    | .ok bs => match s.readEntries c r env k (i + 1) with
      | .error e => .error e
      | .ok rest => .ok (bs ++ rest)

/-- The reads of `k` entries of a ring in HBM reset the ages of the frames that hold them (R232). -/
def State.touchEntries (s : State) (c : CtxId) (r : Ring) (k : Nat) : State :=
  if r.sqHbm then (List.range k).foldl (fun s i => s.vtouch c (r.sqBase + 64 * ((r.sqHead + i) % ringEntries r.sqLog)) 64) s else s

/-- A packet of `k` entries leaves the submission ring: its entry for the record is reserved, and it waits to start, or it completes
with the check that failed (R350, R355). -/
def State.takePacket (s : State) (c : CtxId) (r : Fin 64) (x : Ring) (k : Nat) (bs : List Byte) : State :=
  let s := s.putRing c r { x with sqHead := (x.sqHead + k) % ringEntries x.sqLog, reserved := x.reserved + 1 }
  match parsePacket c r bs with
  | (h, .ok cmd) => s.modHost fun i => { i with fetched := i.fetched ++ [⟨h, cmd, false⟩] }
  | (h, .error st) => s.complete h st

/-- COMMAND_FETCH: one whole command between head and tail, where its record has an entry (R350, R354, R355). -/
def execCommandFetch (c : CtxId) (ring : Fin 64) (env : Env) (s : State) : Host.Outcome State Fault Refusal :=
  .next (match s.host.ring? c ring with
  | none => s
  | some r =>
    if !s.live || r.err || r.closing.isSome || r.closingAdmin || r.waiting = 0 || !r.canReserve then s
    else match s.readEntries c r env 1 0 with
      | .error e => s.ringFails c (.pair ring) e.2 e.1
      | .ok first =>
        let blocks := field (leNat first) 16 5
        let k := if blocks = 0 ∨ 16 < blocks then 1 else blocks
        if r.waiting < k then s
        else match s.readEntries c r env k 0 with
          | .error e => s.ringFails c (.pair ring) e.2 e.1
          | .ok bs => (s.touchEntries c r k).takePacket c ring r k bs)

/-- EVENT_BACKLOG_FLUSH: what waits is written while there is room (R392). -/
def execEventBacklogFlush (c : CtxId) (s : State) : Host.Outcome State Fault Refusal :=
  .next (if s.live then s.flushEvents c else s)

/-! ## RING_CONFIG -/

/-- The 64 KiB steps of a ring in HBM: mapped, on HBM pages, and for a ring that the device writes writable (R348). -/
def State.ringPages (s : State) (c : CtxId) (base bytes : Nat) (acc : Access) : Except (Nat × Reason) (List Nat) :=
  let steps := (List.range (ceilDiv (base % 65536 + bytes) 65536)).map fun i => base / 65536 * 65536 + 65536 * i
  steps.foldl (fun l v => match l, s.xlate c v acc with
    | .error e, _ => .error e
    | .ok _, .error r => .error (v, r)
    | .ok _, .ok (.far _ _ _) => .error (v, .wrongTier)
    | .ok l, .ok (.hbm _ _) => .ok (l ++ [v])) (.ok [])

/-- Bytes of a ring of size code `log` (R349). -/
def ringBytes (log : Nat) : Nat := 2 ^ (12 + log)

/-- A disable: no further fetch, and the ring goes once the records of the commands fetched from it are written (R349). -/
def State.disableRing (s : State) (h : CmdHdr) (c : CtxId) (r : Fin 64) (begun : Bool) (cmd : HostCmd) : State :=
  match s.host.ring? c r with
  | none => s.complete h .done
  | some x =>
    if x.closing.isSome || x.closingAdmin then s.waitOn h cmd begun
    else ((s.waitOn h cmd begun).putRing c r { x with closing := some h }).closeRing c r

/-- RING_CONFIG (R348, R349, R507). -/
def execRingConfig (h : CmdHdr) (p : RingConfigP) (s : State) : Host.Outcome State Fault Refusal :=
  .next (s.hostLong h (.ringConfig p) fun begun s => s.onCtx h p.ctx fun n _ =>
    let ring : Fin 64 := ⟨p.ring % 64, by omega⟩
    let s := s.modHbm fun m => { m with locked := true }
    let vectors := if s.funcOf n = 0 then 2048 else 32
    let known := if p.event then (s.events? n).isSome else (s.host.ring? n ring).isSome
    if n = 0 && !p.event && p.ring = 0 then s.complete h .accessDenied
    else if p.disable then
      if p.event then (s.modHost fun i => { i with events := i.events.filter fun e => e.1 ≠ n }).complete h .done
      else s.disableRing h n ring begun (.ringConfig p)
    else if vectors ≤ p.vector then s.complete h .reservedNonzero
    else if (!p.event && p.sqBase % 4096 ≠ 0) || p.cqBase % 4096 ≠ 0 then s.complete h .badLength
    else if known then s.busy h
    else
      let sq := if p.sqHbm && !p.event then s.ringPages n p.sqBase (ringBytes p.sqLog) .hbmRead else .ok []
      let cq := if p.cqHbm then s.ringPages n p.cqBase (ringBytes p.cqLog) .write else .ok []
      match sq, cq with
      | .error (v, r), _ => s.commandHalt h n (.page v .read r) v false 0
      | _, .error (v, r) => s.commandHalt h n (.page v .write r) v true 0
      | .ok a, .ok b =>
        let s := if p.event then
            s.modHost fun i => { i with events := assocSet n ⟨p.cqLog, p.cqHbm, p.vector, p.irqEn, p.cqBase, 0, 0, true, false, b⟩ i.events }
          else s.putRing n ring ⟨p.sqLog, p.cqLog, p.sqHbm, p.cqHbm, p.vector, p.irqEn, p.sqBase, p.cqBase, 0, 0, 0, 0, 0, true, false, none, false, a ++ b⟩
        s.complete h .done)

end Sys2Proof.Machine
end

