-- ==== Sys2Proof/Machine/Registers.lean ====
section
/-! DEFINITION. What a read of BAR 0 returns: every register of the block map (R369), from the tables of R204, R237, R290, R319,
R339, R370 to R373, R425, R454, R458, R459, R468, R489 and R490. A read has no side effect but the one of TEL_SEQ, which has its own
row. -/

namespace Sys2Proof.Machine

open Sys2Proof

/-- Bits set by flags, from bit 0 up. -/
def flags (l : List Bool) : Nat := ((l.zipIdx).map fun b => bitOf b.1 * 2 ^ b.2).sum

/-- The low or the high 32-bit word of a value. -/
def half (hi : Bool) (v : Nat) : Nat := if hi then v / 2 ^ 32 % 2 ^ 32 else v % 2 ^ 32

/-! ## IDENT, DEVCTL, INTERRUPT and RINGS -/

/-- IDENT (R370). -/
def State.readIdent (s : State) (o : Nat) : Nat :=
  match o with
  | 0x0 => s.identPart
  | 0x4 => 1
  | 0x8 => half false s.fuses.serial
  | 0xC => half true s.fuses.serial
  | _ => 0

/-- The interface of a function: IFACE_NEGOTIATE (R347, R371). -/
def State.readIface (s : State) (f : Fin 64) : Nat := s.host.requested.get f + 2 ^ 8 * s.host.agreed.get f

/-- The window entry that BAR4_WIN_SEL selects (R371). -/
def State.selWindow (s : State) : Option Window :=
  assoc? (field s.host.winSel 19 6, field s.host.winSel 0 19) s.host.windows

/-- DEVCTL (R371). -/
def State.readDevctl (s : State) (o : Nat) : Nat :=
  let h := s.host
  match o with
  | 0x00 => s.readIface 0
  | 0x04 => flags [h.configReady, h.operational, h.updating]
  | 0x08 => h.drops.get 0
  | 0x0C => h.doorbellLast
  | 0x10 => h.winSel
  | 0x14 => (s.selWindow.map fun w => bitOf w.valid + 2 * bitOf w.wr + 2 ^ 21 * field w.vaddr 21 11).getD 0
  | 0x18 => (s.selWindow.map fun w => field w.vaddr 32 16 + 2 ^ 16 * w.ctx.val).getD 0
  | 0x20 => h.bar4Err
  | 0x24 => half false h.bar4ErrOff
  | 0x28 => field h.bar4ErrOff 32 8
  | _ => 0

/-- INTERRUPT (R372). -/
def State.readInterrupt (s : State) (o : Nat) : Nat :=
  match o with
  | 0x0 => s.host.intStatus
  | 0x4 => s.host.intEnable
  | 0x8 => s.host.intVector
  | _ => 0

/-- RINGS (R373). -/
def State.readRings (s : State) (o : Nat) : Nat :=
  match o with
  | 0x00 => half false s.host.adminSq
  | 0x04 => half true s.host.adminSq
  | 0x08 => half false s.host.adminCq
  | 0x0C => half true s.host.adminCq
  | 0x10 => s.host.adminCfg
  | 0x20 => s.host.ringErrLast
  | _ => 0

/-! ## FAULT, POWER, CLOCK and MEMORY -/

/-- The fenced dies by die code. -/
def State.fencedMask (s : State) : Nat := maskOf (((List.finRange 24).filter fun d => (s.dies.get d).fenced).map fun d => d.val)

/-- FAULT (R454); the laggard registers read 0 until 64 releases have occurred. -/
def State.readFault (s : State) (o : Nat) : Nat :=
  let l := s.log
  let scored := decide (64 ≤ l.releases.length)
  if 0x40 ≤ o ∧ o < 0x80 then (if scored ∧ o % 4 = 0 then l.lagScore.get ⟨(o - 0x40) / 4 % 16, by omega⟩ else 0)
  else match o with
    | 0x00 => satAt 511 (l.recs.filter fun r => !r.read).length + 2 ^ 10 * bitOf l.dropped + 2 ^ 11 * bitOf l.classF
    | 0x04 => l.lastId
    | 0x08 => l.countA
    | 0x0C => l.countB
    | 0x10 => s.fencedMask
    | 0x14 => maskOf s.hbm.failedStacks.dedup + 2 ^ 16 * satAt 255 s.hbm.degraded.length
    | 0x20 => l.lagThresh
    | 0x24 => if scored then maskOf (l.lagFlags.map fun d => d.val) else 0
    | 0x28 => if scored then l.lagPeriod % 2 ^ 32 else 0
    | _ => 0

/-- The telemetry words at 0x0100 to 0x03FF from given values (R489). -/
def teleWord (t : Telemetry) (peak ration : List Nat) (o : Nat) : Nat :=
  if o % 4 ≠ 0 then 0
  else if o = 0x100 then t.pkgMw % 2 ^ 32
  else if 0x140 ≤ o ∧ o < 0x184 then nthD 0 t.feedMv ((o - 0x140) / 4) % 2 ^ 16 + 2 ^ 16 * (nthD 0 t.feedDa ((o - 0x140) / 4) % 2 ^ 16)
  else if 0x200 ≤ o ∧ o < 0x260 then nthD 0 t.dieTemp ((o - 0x200) / 4) % 2 ^ 8 + 2 ^ 8 * (nthD 0 peak ((o - 0x200) / 4) % 2 ^ 8)
  else if o = 0x260 then t.easelTemp % 2 ^ 8
  else if 0x280 ≤ o ∧ o < 0x2B0 then nthD 0 t.hbmTemp ((o - 0x280) / 4) % 2 ^ 8
  else if 0x300 ≤ o ∧ o < 0x340 then nthD 0 ration ((o - 0x300) / 4) % 2 ^ 9
  else 0

/-- POWER and TELEMETRY (R489). -/
def State.readPower (s : State) (o : Nat) : Nat :=
  let p := s.pw
  match o with
  | 0x00 => flags [p.lend, p.limitUnmet, p.thermal, p.avsErr, p.pgLost]
  | 0x04 => p.limitW
  | 0x08 => p.tempLimit
  | 0x14 => p.telSeq
  | 0x18 => bitOf p.fresh
  | _ => teleWord p.snap p.snapPeak p.snapRation o

/-- The PLLs of the dies that are locked: fenced dies read 0 (R490). -/
def State.lockMask (s : State) : Nat :=
  maskOf (((List.finRange 24).filter fun d => (s.dies.get d).locked && !(s.dies.get d).fenced).map fun d => d.val) +
  2 ^ 24 * bitOf s.clk.eLock + 2 ^ 25 * bitOf s.clk.pLock

/-- CLOCK and RESET (R490). -/
def State.readClock (s : State) (o : Nat) : Nat :=
  let all := s.clk.eLock && s.clk.pLock && (List.finRange 24).all fun d => (s.dies.get d).locked || (s.dies.get d).fenced
  match o with
  | 0x00 => flags [s.clk.devRef, s.clk.pcieRef, all]
  | 0x04 => s.lockMask
  | 0x14 => s.clk.cause + 2 ^ 8 * s.clk.warmCount
  | 0x18 => maskOf (((List.finRange 24).filter fun d => (s.dies.get d).resetting).map fun d => d.val)
  | _ => 0

/-- MEMORY (R237). -/
def State.readMemory (s : State) (o : Nat) : Nat :=
  let h := s.hbm
  match o with
  | 0x00 => flags [h.ready, h.cfgLocked, h.farErr, s.ctxs.any fun e => !e.2.held.isEmpty]
  | 0x04 => h.dwi
  | 0x08 => h.devBase
  | 0x0C => h.devSize
  | 0x10 => h.farTimeoutMs
  | 0x20 => h.quotaSel
  | 0x24 => s.quota (ctxOf h.quotaSel)
  | 0x28 => (s.ctxD (ctxOf h.quotaSel)).used % 2 ^ 24
  | 0x30 => h.scans % 2 ^ 32
  | 0x34 => h.pageFaults + 2 ^ 16 * h.farFaults
  | _ => 0

/-! ## SYNC, GRADIENT and MEDIA -/

/-- The running context's state of hatch line `n` (R204). -/
def State.hatch? (s : State) (n : Nat) : Option HatchLine := s.runCtx.bind fun e => assoc? n e.2.lines

/-- SYNC (R204). -/
def State.readSync (s : State) (o : Nat) : Nat :=
  if o % 4 ≠ 0 then 0
  else if o = 0x0 then s.regs.waitLimit
  else if o = 0x4 then s.regs.syncStatus
  else if 0x100 ≤ o ∧ o < 0x180 then
    match s.hatch? ((o - 0x100) / 4) with
    | some l => flags [l.gen, l.mask ≠ 0, l.broken] + 2 ^ 8 * l.arrived.length + 2 ^ 16 * l.count + 2 ^ 24 * satAt 127 l.held.length
    | none => 0
  else if 0x200 ≤ o ∧ o < 0x400 then
    match s.hatch? ((o - 0x200) / 16) with
    | some l => match (o - 0x200) / 4 % 4 with
      | 0 => field (maskOf l.arrived) 0 32
      | 1 => field (maskOf l.arrived) 32 32
      | 2 => field (maskOf l.arrived) 64 4
      | _ => 0
    | none => 0
  else 0

/-- The least of a list, or 0. -/
def leastOf (l : List Nat) : Nat := match l with
  | [] => 0
  | a :: l => l.foldl min a

/-- The next of `count` buckets of a round that can enter ring channel `n` at a replica: ids take the channels in turn, and past
the last one of a round the next round begins (R270). -/
def Replica.nextOn (r : Replica) (count n : Nat) : Nat :=
  let id := r.nextEnter + (n + 4 - r.nextEnter % 4) % 4
  if id < count then id else n

/-- µs since the last heartbeat from the master; on the master, from its oldest member (R290). -/
def State.heartbeatAge (s : State) (k : Cascade) : Nat :=
  let ages := k.hbAt.filterMap fun e => if k.cfg.index = k.cfg.master ∨ e.1 = k.cfg.master then some ((s.timeNs - e.2) / 1000) else none
  satAt 65535 (ages.foldl max 0)

/-- GRADIENT (R290). -/
def State.readGradient (s : State) (o : Nat) : Nat :=
  match s.runCtx with
  | none => 0
  | some (_, x) =>
    let g := x.grad
    let chan := fun (n : Nat) => leastOf (g.replicas.map fun r => r.nextOn ((g.cfg.map fun c => c.bucketCount).getD 0) n) % 2 ^ 16 +
      2 ^ 16 * bitOf (g.replicas.any fun r => r.active.any fun a => a.sent.id % 4 == n)
    match o with
    | 0x00 => flags [g.ring.isSome && g.cfg.isSome, s.regs.gradNonfinite, s.regs.cascBroken]
    | 0x04 => leastOf (g.replicas.map fun r => r.round) % 2 ^ 32
    | 0x10 => chan 0
    | 0x14 => chan 1
    | 0x18 => chan 2
    | 0x1C => chan 3
    | 0x20 => match g.casc with
      | some k => k.cfg.index + 2 ^ 3 * k.cfg.master + 2 ^ 6 * k.cfg.devices + 2 ^ 10 * bitOf k.mapReceived + 2 ^ 11 * bitOf k.broken +
          2 ^ 12 * flags (g.pinSampled.take 4) + 2 ^ 16 * s.heartbeatAge k
      | none => 0
    | _ => 0

/-- Whether a job runs on an engine. -/
def Job.onEngine (j : Job) : Bool := j.die.isSome && match j.st with
  | .queued => false
  | _ => true

/-- The reservoir registers of the running context (R339). -/
def State.readShuffle (s : State) (o : Nat) : Nat :=
  match s.runCtx with
  | none => 0
  | some (n, x) =>
    let full := s.media.jobs.any fun j => j.ctx == n && match j.st with
      | .ending _ _ => true
      | _ => false
    let r := x.shuffle
    let pos := (r.map fun r => nthD 0 r.pos s.regs.shufLane).getD 0
    let want := (r.bind fun r => assoc? s.regs.shufLane r.want).getD (2 ^ 64 - 1)
    match o with
    | 0x40 => flags [r.isSome, (r.map fun r => !r.want.isEmpty).getD false, s.regs.shufReused, full]
    | 0x44 => (r.map fun r => r.slots).getD 0
    | 0x48 => (r.map fun r => (r.sts.filter fun e => e.2 == .filled).length).getD 0
    | 0x50 => s.regs.shufLane
    | 0x54 => half false pos
    | 0x58 => half true pos
    | 0x5C => half false want
    | 0x60 => half true want
    | _ => 0

/-- MEDIA (R319, R339). -/
def State.readMedia (s : State) (o : Nat) : Nat :=
  let m := s.media
  let die := fun (i : Nat) => m.dies.get ⟨i % 4, by omega⟩
  if o % 4 ≠ 0 then 0
  else if o = 0x00 then
    flags (allBeds.map fun d => (s.die (.m d)).loaded && !s.fenced (.m d)) + 2 ^ 4 * flags [m.jobErr, m.auxDrop, m.engineOut, m.arriveLost]
  else if o = 0x04 then m.queued
  else if o = 0x08 then m.streams.length
  else if 0x10 ≤ o ∧ o < 0x20 then
    let i := (o - 0x10) / 4
    (m.jobs.filter fun j => j.onEngine && (j.die.map fun d => d.val) == some i).length + 2 ^ 8 * (die i).out.length
  else if 0x20 ≤ o ∧ o < 0x40 then
    let v := (die ((o - 0x20) / 8)).pictures
    if o % 8 = 0 then half false v else field v 32 16
  else s.readShuffle o

/-! ## SECURITY and DEBUG -/

/-- Contexts that are sealing or sealed. -/
def State.sealedCount (s : State) : Nat := (s.ctxs.filter fun e => e.2.sealing.isSome).length

/-- SECURITY (R425). -/
def State.readSecurity (s : State) (o : Nat) : Nat :=
  let c := s.sec
  if 0x40 ≤ o ∧ o < 0x80 ∧ o % 4 = 0 then (c.staged.map fun i => field i.image (8 * (o - 0x40)) 32).getD 0
  else match o with
    | 0x0 => flags [c.locked, c.bootFail, c.activeBank = 1, c.fallback, c.staged.isSome] + 2 ^ 16 * s.sealedCount
    | 0x4 => s.fuses.svn + 2 ^ 8 * ((c.running.map fun i => i.svn).getD 0) + 2 ^ 16 * ((c.staged.map fun i => i.svn).getD 0)
    | 0x8 => bitOf c.relocked + 2 ^ 8 * c.scope
    | 0xC => (s.hbm.scrubbing.map fun k => k / 128).dedup.length % 2 ^ 19
    | _ => 0

/-- Bed and link statistics, from the shadows of the last LATCH but for LINK_STATE and HIST_SEL (R457, R459). -/
def State.readBedStats (s : State) (n : BedId) (o : Nat) : Nat :=
  let b := s.dbg.shadow.beds.get n
  if o = 0x20 then (s.bed n).histSel
  else if 0x40 ≤ o ∧ o < 0x80 ∧ o % 4 = 0 then nthD 0 b.hist ((o - 0x40) / 4)
  else match o with
    | 0x00 => b.inUse
    | 0x04 => b.peak
    | 0x08 => b.capEv
    | 0x0C => b.exhEv
    | 0x10 => satAt 255 b.unschedPeak
    | _ => 0

def State.readLinkStats (s : State) (l : LinkId) (o : Nat) : Nat :=
  let k := s.dbg.shadow.links.get l
  match o with
  | 0x00 => k.retry
  | 0x04 => bitOf (s.fabric.links.get l).down
  | 0x08 => k.sched
  | 0x0C => k.unsched
  | 0x10 => k.miss
  | _ => 0

/-- DEBUG (R459, R468). -/
def State.readDebug (s : State) (o : Nat) : Nat :=
  let d := s.dbg
  if 0x1000 ≤ o ∧ o < 0x1400 then s.readBedStats ⟨(o - 0x1000) / 0x100 % 4, by omega⟩ (o % 0x100)
  else if 0x2000 ≤ o ∧ o < 0x2140 then s.readLinkStats ⟨(o - 0x2000) / 0x20 % 10, by omega⟩ (o % 0x20)
  else match o with
    | 0x00 => bitOf (d.frozen || d.debugMode)
    | 0x04 => flags [d.frozen, d.debugMode] + 2 ^ 2 * d.source + 2 ^ 4 * bitOf d.readoutBusy
    | 0x08 => d.latchSeq
    | 0x10 => d.copySrc
    | 0x14 => d.copyOff
    | 0x18 => d.copyLen
    | 0x1C => half false d.copyDst
    | 0x20 => half true d.copyDst
    | 0x28 => d.copyStatus + 2 ^ 16 * bitOf d.copyBusy + 2 ^ 17 * bitOf d.copyDone
    | _ => 0

/-! ## Per-compute-die windows -/

/-- Whether queue `q` of a core has reached its STOP_AT count or a halting STOP_MARK (R458). -/
def stopReached (x : Ctx) (k : Core) (c : CoreId) (q : QueueId) : Bool :=
  k.stopped && ((k.queue q).halted || (match assoc? (4 * c.val + q.val) x.stops with
    | some v => decide (v ≤ (k.queue q).count)
    | none => false))

/-- QSTATE: 0 empty, 1 eligible, 2 in progress, 3 waiting, 4 held fault, 5 stopped (R458). -/
def queueState (x : Ctx) (k : Core) (c : CoreId) (q : QueueId) : Nat :=
  let w := k.queue q
  let held := match w.wait with
    | .held _ => true
    | _ => false
  if stopReached x k c q then 5
  else if w.ops.isEmpty then 0
  else if held then 4
  else if k.cur = some q then 2
  else if w.eligible x c then 1
  else 3

/-- The counters of a core by offset within its 0x40 bytes of performance counters (R458). -/
def CoreCounters.perf (k : CoreCounters) (i : Nat) : Nat :=
  match i with
  | 0 => k.busy
  | 1 => k.steps
  | 2 => k.bites
  | 3 => k.replays
  | 4 => k.masked
  | 5 => k.ops
  | 6 => k.pulls
  | _ => 0

/-- A word of a counter of 48 bits. -/
def counterWord (o v : Nat) : Nat := if o % 8 = 0 then half false v else if o % 8 = 4 then field v 32 16 else 0

/-- The window of a compute die, its counters from `ctrs` (R457, R458). -/
def State.windowOf (s : State) (ctrs : CoreId → CoreCounters) (d : DieId) (o : Nat) : Nat :=
  let core := fun (k : Nat) => coreOf d ⟨k % 4, by omega⟩
  let uses := (s.runCtx.map fun e => e.2.program && dieInMap e.2.coreMap d).getD false
  if s.fenced (.c d) then (if o = 0 then 2 else 0)
  else if o % 4 ≠ 0 then 0
  else if o = 0 then
    let stops := match s.runCtx with
      | some (_, x) => flags ((List.finRange 4).flatMap fun k => allQueues.map fun q => stopReached x (s.core (coreOf d k)) (coreOf d k) q)
      | none => 0
    flags [(s.die (.c d)).loaded, false, uses] + 2 ^ 16 * stops
  else if 0x100 ≤ o ∧ o < 0x300 then counterWord o ((ctrs (core ((o - 0x100) / 0x80))).stall.get ⟨o / 8 % 16, by omega⟩)
  else if 0x300 ≤ o ∧ o < 0x380 then
    counterWord o (((List.range 4).map fun k => (ctrs (core k)).stall.get ⟨o / 8 % 16, by omega⟩).sum % 2 ^ 48)
  else if 0x400 ≤ o ∧ o < 0x500 then counterWord o ((ctrs (core ((o - 0x400) / 0x40))).perf (o % 0x40 / 8))
  else if 0x600 ≤ o ∧ o < 0x700 then
    let c := core ((o - 0x600) / 0x40)
    let q : QueueId := ⟨(o - 0x600) % 0x40 / 0x10 % 4, by omega⟩
    let w := (s.core c).queue q
    match o % 0x10, s.runCtx with
    | 0x0, some _ => w.count
    | 0x4, _ => w.mark.toNat
    | 0x8, some _ => (w.ops.head?.map fun d => d.opTag.toNat).getD 0
    | 0xC, some (_, x) => queueState x (s.core c) c q
    | _, _ => 0
  else if o = 0x800 then (s.die (.c d)).mcastMask
  else if o = 0x804 then (s.die (.c d)).mcastTag.toNat
  else if 0x1000 ≤ o ∧ o < 0x1400 then
    match s.runCtx with
    | some (_, x) => x.counter (core ((o - 0x1000) / 0x100)) ⟨o % 0x100 / 4 % 64, by omega⟩
    | none => 0
  else if 0x2000 ≤ o ∧ o < 0x2200 then
    let k := s.core (core ((o - 0x2000) / 0x80))
    let entry := fun (j : Nat) => nthD 0 k.lags ((k.lagCount + 127 - j) % 64)
    entry (o % 0x80 / 2) + 2 ^ 16 * entry (o % 0x80 / 2 + 1)
  else if 0x2200 ≤ o ∧ o < 0x2210 then
    let k := s.core (core ((o - 0x2200) / 4))
    if k.lagCount = 0 then 0 else (k.lagCount - 1) % 64
  else 0

/-- A window as the host reads it: counters from the shadows of the last LATCH (R457). -/
def State.readWindow (s : State) (d : DieId) (o : Nat) : Nat := s.windowOf (fun c => s.dbg.shadow.cores.get c) d o

/-! ## The whole of BAR 0 -/

/-- A word of the MSI-X table and of the pending-bit array of a function (R369). -/
def MsixEntry.word (e : MsixEntry) (i : Nat) : Word32 :=
  match i with
  | 0 => e.addrLo
  | 1 => e.addrHi
  | 2 => e.data
  | _ => e.ctl
def State.readMsix (s : State) (f o : Nat) : Nat := ((s.host.msixEntry f (o / 16)).word (o / 4 % 4)).toNat
def State.readPba (s : State) (f o : Nat) : Nat :=
  maskOf ((s.host.msixPending.filterMap fun e => if e.1 = f ∧ e.2 / 32 = o / 4 then some (e.2 % 32) else none).dedup)

/-- The 32-bit register at an offset of the PF's BAR 0; 0 where no block is (R9, R369). -/
def State.readReg (s : State) (off : Nat) : Nat :=
  if 0x100000 ≤ off ∧ off < 0x200000 then s.readWindow ⟨(off - 0x100000) / 0x10000 % 16, by omega⟩ (off % 0x10000)
  else if 0x200000 ≤ off ∧ off < 0x208000 then s.readMsix 0 (off - 0x200000)
  else if 0x208000 ≤ off ∧ off < 0x208100 then s.readPba 0 (off - 0x208000)
  else
    let o := off % 0x10000
    match off / 0x10000 with
    | 0x0 => s.readIdent o
    | 0x1 => s.readDevctl o
    | 0x2 => s.readInterrupt o
    | 0x3 => s.readFault o
    | 0x4 => s.readPower o
    | 0x5 => s.readClock o
    | 0x6 => s.readMemory o
    | 0x7 => s.readRings o
    | 0x8 => s.readSync o
    | 0x9 => s.readGradient o
    | 0xA => s.readMedia o
    | 0xB => s.readSecurity o
    | 0xC => s.readDebug o
    | _ => 0

/-- The register at an offset of a VF's BAR 0 (R342). -/
def State.readVfReg (s : State) (f : Fin 64) (off : Nat) : Nat :=
  if off < 0x10 then s.readIdent off
  else if off = 0x1000 then s.readIface f
  else if off = 0x1008 then s.host.drops.get f
  else if 0x8000 ≤ off ∧ off < 0x8200 then s.readMsix f.val (off - 0x8000)
  else if off = 0xC000 then s.readPba f.val 0
  else 0

/-- Telemetry as it stands, for a LATCH and for the I3C port before the first one (R489, R497). -/
def State.liveTelemetry (s : State) : Telemetry × List Nat × List Nat :=
  (s.pw.tele, (List.finRange 24).map fun d => (s.dies.get d).peak, (List.finRange 16).map fun d => (s.dies.get ⟨d.val, by omega⟩).ration)

/-- The 1 KiB image of the POWER and TELEMETRY block (R489). -/
def State.teleImage (s : State) : List Byte := (List.range 256).flatMap fun i => leBytes 4 (s.readPower (4 * i))

/-- The telemetry image of a device that is not frozen: the last LATCH, or live values before the first one (R497). -/
def State.i3cLive (s : State) : List Byte :=
  if s.pw.snapPeak.isEmpty then
    let (t, peak, ration) := s.liveTelemetry
    (List.range 256).flatMap fun i => leBytes 4 (if 64 ≤ i then teleWord t peak ration (4 * i) else s.readPower (4 * i))
  else s.teleImage

end Sys2Proof.Machine
end

