-- ==== Sys2Proof/Machine/Fences.lean ====
section
/-! DEFINITION. Fences, die resets, self-tests and class F faults, with the fault log and the partners of dies (R199, R200, R261,
R282, R316, R426 to R444, R448). -/

namespace Sys2Proof

/-- The compute dies of a die code: the die itself, or those of a bed (R439). -/
def DieCode.computes : DieCode → List DieId
  | .c d => [d]
  | .b n => (List.finRange 4).map fun k => ⟨4 * n.val + k.val, by have := n.isLt; have := k.isLt; omega⟩
  | .m _ => []

/-- The media dies of a die code (R439). -/
def DieCode.medias : DieCode → List BedId
  | .m n => [n]
  | .b n => [n]
  | .c _ => []

/-- The structure of a failing block (R434, R435), and its number in a self-test entry. -/
def TestResult.block : TestResult → Nat
  | .pass => 0 | .failArray => 1 | .failDatapath => 2 | .failSequencer => 3 | .failSram => 4

end Sys2Proof

namespace Sys2Proof.Machine

open Sys2Proof

/-! ## What a removed die touches -/

/-- Whether the running program uses one of the dies: its core map names it, its ring map, or a multicast of it in flight (R261,
R282, R438). -/
def State.uses (s : State) (ds : List DieId) : Option CtxId :=
  match s.runCtx with
  | some (n, x) =>
    if x.exec.isSome && ds.any fun d => dieInMap x.coreMap d || (x.grad.replicas.any fun r => r.die == d) ||
        s.fabric.xfers.any fun f => f.ctx == n && f.kind == .mcast && decide (d ∈ f.members) then some n else none
  | none => none

/-- The programs in progress remember that dies were lost (R199, R282). -/
def State.noteLost (s : State) (ds : List DieId) : State :=
  let note := fun (e : Exec) => { e with lost := e.lost ++ ds.filter fun d => d ∉ e.lost }
  { s with ctxs := s.ctxs.map fun e => (e.1, { e.2 with exec := e.2.exec.map note }) }

/-- The entries of the waits of every program in progress that the loss of dies ends (R199). -/
def State.allLostWaits (s : State) (ds : List DieId) : List (List Byte) := s.ctxs.flatMap fun e => s.lostWaits e.1 e.2 ds

/-- The multicasts in flight that one of the dies cuts short, each with its tag and what was delivered (R261). -/
def State.cutCasts (s : State) (ds : List DieId) : List (Xfer × List DieId) :=
  s.fabric.xfers.filterMap fun x =>
    if x.kind = .mcast && x.members.any fun d => d ∈ ds && d ∉ x.delivered then
      some (x, ((s.opOf x).map fun u => u.run.acks).getD x.delivered) else none

def castEntry (e : Xfer × List DieId) : List Byte := record 64 [(0, 1, 6), (4, 4, e.1.opTag.toNat), (8, 2, dieMask e.2)]

/-- A member leaves every multicast in flight; one that then has all its members completes (R261). -/
def State.leaveCasts (s : State) (ds : List DieId) : State :=
  let cut := s.cutCasts ds
  let s := cut.foldl (fun s e => s.recordDelivery e.1.core e.1.opTag e.2) s
  let strip := fun (l : List DieId) => l.filter fun d => d ∉ ds
  let s := s.modFabric fun f => { f with
    xfers := f.xfers.map fun x => { x with members := strip x.members, pieces := x.pieces.map fun (p : Piece) => { p with left := strip p.left } },
    pkts := f.pkts.map fun k => { k with members := strip k.members } }
  cut.foldl (fun s e => match s.xfer? e.1.id with
    | some x => if x.members.all fun d => d ∈ x.delivered then s.finishXfer x else s
    | none => s) s

/-- The signals that a die sent and that have not been applied are discarded, and its cores' transfers end; a packet of theirs goes on
to its last hop and is discarded there (R199, R263). -/
def State.dropDie (s : State) (d : DieId) : State :=
  let ids := (s.fabric.xfers.filter fun x => x.cmd?.isNone && x.core.die == d).map fun x => x.id
  let keep := fun (v : Vc4) => match v with
    | .signal _ _ _ _ src _ => src != some d
    | .ack i _ _ => decide (i ∉ ids)
    | .member i _ e => decide (i ∉ ids) && e != d
  let s := s.modFabric fun f => { f with
    xfers := f.xfers.filter fun x => decide (x.id ∉ ids), vc4 := f.vc4.filter keep }
  let s : State := { s with beds := s.beds.map fun b => { b with tags := b.tags.filter fun t => decide (t.xfer ∉ ids) } }
  { s with slices := s.slices.map fun k => { k with wet := k.wet.filter fun m => m.core.die ≠ d } }

/-- Hatch lines of every context whose mask meets `m` are broken; the BARRIERs that wait on them in the running program end
(R200, R440). -/
def State.breakLines (s : State) (m : Nat) : State :=
  let hit := fun (l : HatchLine) => (participants l.mask).any fun p => bit m p
  let any := s.ctxs.any fun e => e.2.lines.any fun l => hit l.2 && !l.2.broken
  let mark := fun (l : Nat × HatchLine) => if hit l.2 then (l.1, { l.2 with broken := true }) else l
  let s : State := { s with ctxs := s.ctxs.map fun e => (e.1, { e.2 with lines := e.2.lines.map mark }) }
  let s := if any then s.setSync syncBroken else s
  match s.running with
  | some n => s.failBroken n
  | none => s

/-- The participants of a compute die, and of a media die (R190). -/
def dieParts (d : DieId) : Nat := 15 * 2 ^ (4 * d.val)
def mediaPart (m : BedId) : Nat := 2 ^ (64 + m.val)

/-- The gradient exchange of every context with a replica on a die loses its buckets (R282, R283). -/
def State.dropBuckets (s : State) (d : DieId) : State :=
  { s with ctxs := s.ctxs.map fun e => if e.2.grad.replicas.any fun r => r.die == d then (e.1, { e.2 with grad := e.2.grad.discarded }) else e }

/-- The cores, the slice and the marks of a die, as a fence or a die reset leaves them; `clear` says that the counters go too
(R456, R484). -/
def State.wipeDie (s : State) (d : DieId) (clear : Bool) : State :=
  let s := s.mapCores fun c k => if c.die = d then
    { k.idle with queues := Vector.replicate 4 Queue.empty, ctr := if clear then CoreCounters.zero else k.ctr } else k
  let s := { s with slices := vmod s.slices d fun _ => Slice.reset }
  if clear then { s with dbg := { s.dbg with shadow := { s.dbg.shadow with
      cores := Vector.ofFn fun c => if CoreId.die c = d then CoreCounters.zero else s.dbg.shadow.cores.get c } } }
  else s

/-! ## Fences -/

/-- The FENCE event of a die on every context whose program, ring map or partner map names it (R391, R438). -/
def State.fenceEvents (s : State) (d : DieId) (code : Nat) (casts : List (Xfer × List DieId)) : State :=
  let named := s.ctxs.filter fun e => e.1 ≠ 0 && ((e.2.exec.isSome && dieInMap e.2.coreMap d) ||
    (e.2.grad.ring.map fun r => (r.dies.take r.replicas).any fun k => k == d.val).getD false ||
    e.2.partner.any fun p => p.1 == d.val || p.2 == d.val)
  named.foldl (fun s e =>
    let mask := ((casts.find? fun k => k.1.ctx == e.1).map fun k => dieMask k.2).getD 0
    s.event e.1 0x07 .dieFenced 0 [(24, 1, code), (26, 2, mask)]) s

/-- The FENCE event of a media die on every context with a stream or a hatch line that names it (R440). -/
def State.mediaEvents (s : State) (m : BedId) : State :=
  let named := s.ctxs.filter fun e => e.1 ≠ 0 && (e.2.lines.any (fun l => bit l.2.mask (64 + m.val)) ||
    s.media.streams.any fun t => t.ctx == e.1 && bit t.p.mediaMask m.val)
  named.foldl (fun s e => s.event e.1 0x07 .dieFenced 0 [(24, 1, 20 + m.val)]) s

/-- The effects of a fence of a compute die, after the record of the fence (R199, R200, R261, R282, R438, R448). -/
def State.fenceCompute (s : State) (d : DieId) (casts : List (Xfer × List DieId)) : State :=
  if s.fenced (.c d) then s
  else
    let s := s.modDie (.c d) fun k => { k with fenced := true, testFor := none, resetting := false }
    let s := s.fenceEvents d d.val casts
    let s := ((s.dropDie d).leaveCasts [d]).wipeDie d false
    let s := (s.breakLines (dieParts d)).dropBuckets d
    { s with ctxs := s.ctxs.map fun e => (e.1, { e.2 with
        lanes := e.2.lanes.filter fun l => l.1 / 4 ≠ d.val, partner := e.2.partner.filter fun p => p.1 ≠ d.val && p.2 ≠ d.val }) }

/-- The effects of a fence of a media die (R316, R440). -/
def State.fenceMediaDie (s : State) (m : BedId) : State :=
  if s.fenced (.m m) then s
  else
    let s := s.modDie (.m m) fun k => { k with fenced := true, resetting := false }
    ((s.mediaEvents m).fenceMedia m).breakLines (mediaPart m)

/-- Pieces that read or write memory lost to a fence end their requests with UNCORRECTABLE_DATA (R439). -/
def State.failLost (s : State) : State :=
  let lost := fun (p : Place) => match p with
    | .hbm b o => s.hbmLost b.val o
    | _ => false
  let hits := s.fabric.xfers.flatMap fun x => (x.pieces.filter fun p => !p.settled && (lost p.src || lost p.dst)).map fun p => (x.id, p)
  let addr := fun (p : Piece) => match (if lost p.src then p.src else p.dst) with
    | .hbm b o => b.val * 2 ^ 38 + o
    | _ => 0
  hits.foldl (fun s e => s.pieceFailed e.1 e.2.seq .uncorrectableData (addr e.2) (0, 0)) s

/-- Packets on links that went down go on from their next working stop; the stop upstream of the fenced one discards what goes there
(R240, R261). -/
def State.reroute (s : State) (gone : Fin 5) : State :=
  let link := fun (p : Pkt) => match p.pos with
    | .queued l _ => l
    | .flying l => l
  let near := fun (p : Pkt) => linkFrom (link p) == gone || linkTo (link p) == gone
  let moved := s.fabric.pkts.filter near
  let s := s.modFabric fun f => { f with pkts := f.pkts.filter fun p => !near p }
  moved.foldl (fun s p => s.reach p (if linkFrom (link p) = gone then linkTo (link p) else linkFrom (link p))) s

/-- The effects of a fence of a bed die: its links are down, its memory and the device-wide region are lost, its pool is empty,
and its dies are fenced (R240, R439). -/
def State.fenceBed (s : State) (b : BedId) (casts : List (Xfer × List DieId)) : State :=
  if s.fenced (.b b) then s
  else
    let stop := stopOfBed b
    let s := s.modDie (.b b) fun k => { k with fenced := true }
    let s := (DieCode.computes (.b b)).foldl (fun s d => s.fenceCompute d casts) s
    let s := s.fenceMediaDie b
    let near := fun (l : LinkId) => linkFrom l = stop ∨ linkTo l = stop
    let s := s.modFabric fun f => { f with links := Vector.ofFn fun l => if near l then { f.links.get l with down := true } else f.links.get l }
    let s := s.modHbm fun h => { h with dwLost := h.dwLost || h.dwi ≠ 0 }
    let s := s.failLost
    let s := (s.modBed b fun k => { k with tags := [], adders := Vector.replicate 3 ⟨[], []⟩ }).reroute stop
    let named := s.ctxs.filter fun e => e.1 ≠ 0 && e.2.pages.any fun p => !p.far && (bit p.target 40 || p.target / 2 ^ 38 == b.val)
    named.foldl (fun s e => s.event e.1 0x07 .dieFenced 0 [(24, 1, 16 + b.val)]) s

/-- A device-ending fault: the record, every core asked to stop, no further fetch, ALERT_N and AER (R431, R444, R505). -/
def State.classF (s : State) (struct_ : Nat) : State :=
  if s.clk.halted then s
  else
    let (_, s) := s.logFault { status := .internalError, cls := 6, struct_ := struct_, ctx := (s.running.map fun n => n.val).getD 0 } []
    let s := match s.runCtx with
      | some (_, x) => s.stopCores x.coreMap
      | none => s
    let s := { s with clk := { s.clk with halted := true }, pins := { s.pins with alert := true } }
    if s.clk.linkUp then s.send .aer else s

/-- The raster of a context's program ceases (R253). -/
def State.endRaster (s : State) (n : CtxId) : State :=
  let off := fun (e : Exec) => { e with rasterOn := false }
  s.modCtx n fun x => { x with exec := x.exec.map off }

/-- A fence; the raster of the program that it stops ceases (R253). On the class E path it has a record, as it does where it stops the running program; the bed of the device region is
class F (R431, R437 to R439, R441, R481). -/
def State.fence (s : State) (d : DieCode) (found : Bool) (struct_ related : Nat) (body : List (List Byte)) : State :=
  let inner := match d with
    | .b n => found && n = s.regionBed
    | _ => false
  if s.fenced d then s
  else if inner then s.classF struct_
  else
    let ds := (DieCode.computes d).filter fun k => !s.fenced (.c k)
    let casts := s.cutCasts ds
    let lost := s.allLostWaits ds
    let user := s.uses ds
    let s := (if lost.isEmpty then s else s.setSync syncOwner).noteLost ds
    let (id, s) := if found || user.isSome then
        s.logFault { status := .dieFenced, cls := 5, struct_ := struct_, ctx := (user.map fun n => n.val).getD 0, die := d.num.val, related := related }
          (body ++ lost ++ casts.map castEntry)
      else (0, s)
    let s := match user with
      | some n => (s.stopProgram n .dieFenced 5 0 id).endRaster n
      | none => s
    match d with
    | .c k => s.fenceCompute k casts
    | .m n => s.fenceMediaDie n
    | .b n => s.fenceBed n casts

/-- DIE_FENCE (R437). -/
def execDieFence (h : CmdHdr) (die : DieCode) (s : State) : Host.Outcome State Fault Refusal :=
  .next (s.host1 h (.dieFence die) fun s =>
    if die = .b s.regionBed then s.complete h .accessDenied
    else (s.fence die false 0x10 0 []).complete h .done)

/-! ## Self-tests -/

/-- The body entry of a failed self-test (R435). -/
def testEntry (d : DieCode) (r : TestResult) : List Byte := record 64 [(0, 1, 9), (1, 1, d.num.val), (2, 1, r.block)]

/-- A die that fails its self-test is fenced (R432). -/
def State.testFails (s : State) (d : DieCode) (r : TestResult) (related : Nat) : State := s.fence d true r.block related [testEntry d r]

/-- Whether something running uses a die: the running program, or a job on its engines (R366, R432). -/
def State.inUse (s : State) (d : DieCode) : Bool :=
  (s.uses (DieCode.computes d)).isSome || (match d with
    | .m n => s.media.jobs.any fun j => j.die == some n
    | _ => false)

/-- SELF_TEST (R366, R432). -/
def execSelfTest (h : CmdHdr) (die : DieCode) (res : TestResult) (s : State) : Host.Outcome State Fault Refusal :=
  .next (s.host1 h (.selfTest die) fun s =>
    if s.fenced die then s.complete h .dieFenced
    else if s.inUse die then s.busy h
    else if res = .pass then s.complete h .done
    else (s.testFails die res 0).complete h .dieFenced)

/-- FAULT_SELF_TEST: the die of a class D fault is tested, or an engine that failed its reconstruction check (R315, R432). -/
def execFaultSelfTest (die : DieCode) (res : TestResult) (s : State) : Host.Outcome State Fault Refusal :=
  .next (if !s.clk.booted || s.clk.inReset || s.clk.tripped || s.dbg.frozen || s.fenced die then s
  else match die with
    | .m n => match (s.media.dies.get n).pending with
      | [] => s
      | e :: rest =>
        let s := s.modMediaDie n fun k => { k with pending := rest }
        if res = .pass then s
        else (s.modMediaDie n fun k => { k with out := if e.2 ∈ k.out then k.out else k.out ++ [e.2] }).modMedia fun m => { m with engineOut := true }
    | d => match (s.die d).testFor with
      | none => s
      | some id =>
        let s := s.modDie d fun k => { k with testFor := none }
        if res = .pass then s else s.testFails d res id)

/-! ## DIE_RESET -/

/-- What a microcode load leaves: the die measured (R403). -/
def State.loadDie (s : State) (d : DieCode) : State :=
  let code := match d with
    | .c _ => (s.sec.running.map fun i => i.computeCode).getD 0
    | _ => (s.sec.running.map fun i => i.mediaCode).getD 0
  s.modDie d fun k => { k with loaded := true, digest := code }

/-- A die reset ends the waits of the programs that do not run on counters that the die can signal, and with them these programs, and
a program of a context whose ring map names it (R199, R282, R442). -/
def State.resetOthers (s : State) (d : DieId) : State :=
  let hit := s.ctxs.filter fun e => s.running ≠ some e.1 && e.2.exec.isSome &&
    (!(s.lostWaits e.1 e.2 [d]).isEmpty || e.2.grad.replicas.any fun r => r.die == d)
  hit.foldl (fun s e =>
    let lost := s.lostWaits e.1 e.2 [d]
    let st := if lost.isEmpty then Status.dieFenced else .syncOwnerLost
    let s := if lost.isEmpty then s else s.setSync syncOwner
    let (id, s) := s.logFault { status := st, cls := 4, struct_ := 0x10, ctx := e.1.val, die := d.val } lost
    s.stopNow e.1 st 4 0 id) s

/-- The start of a die reset: not measured, its program stopped, its work discarded (R199, R200, R282, R316, R404, R442, R484). -/
def State.beginReset (s : State) (d : DieCode) : State :=
  let ds := DieCode.computes d
  let casts := s.cutCasts ds
  let user := s.uses ds
  let lost := match user with
    | some n => s.lostWaits n (s.ctxD n) ds
    | none => []
  let s := (ds.foldl (fun s k => s.resetOthers k) s).noteLost ds
  let s := s.modDie d fun k => { k with resetting := true, loaded := false, digest := 0 }
  let s := match user with
    | some n =>
      let st := if lost.isEmpty then Status.dieFenced else .syncOwnerLost
      let s := if lost.isEmpty then s else s.setSync syncOwner
      s.faultOp n { status := st, cls := 4, struct_ := 0x10, ctx := n.val, die := d.num.val } (lost ++ casts.map castEntry)
    | none => s
  match d with
  | .c k =>
    let s := ((s.dropDie k).leaveCasts ds).wipeDie k true
    let s := (s.breakLines (dieParts k)).dropBuckets k
    { s with ctxs := s.ctxs.map fun e => (e.1, { e.2 with
        lanes := (e.2.lanes.map fun l => if l.1 / 4 = k.val then (l.1, { l.2 with mirror := [] }) else l).filter fun l => !l.2.isEmpty }) }
  | .m n => ((s.fenceMedia n).breakLines (mediaPart n)).modMediaDie n fun k => { k with out := [], pending := [] }
  | .b _ => s

/-- DIE_RESET: the die is reset, and once no running program uses it any more it is loaded, measured and tested (R442). -/
def execDieReset (h : CmdHdr) (die : DieCode) (res : TestResult) (s : State) : Host.Outcome State Fault Refusal :=
  .next (s.hostLong h (.dieReset die) fun begun s =>
    if s.fenced die then s.complete h .dieFenced
    else if !begun then (s.beginReset die).start h (.dieReset die)
    else if (s.uses (DieCode.computes die)).isSome then s
    else
      let s := (s.modDie die fun k => { k with resetting := false, testFor := none }).loadDie die
      if res = .pass then s.complete h .done else (s.testFails die res 0).complete h .dieFenced)

/-! ## Scrubbing, class F and the log -/

/-- PATROL_SCRUB: a line of a slice is read; one bad bit is corrected, two are a fault (R430, R431, R432). -/
def execPatrolScrub (die : DieId) (line : Nat) (find : ScrubFind) (s : State) : Host.Outcome State Fault Refusal :=
  .next (if !s.ticking || s.fenced (.c die) || 524288 ≤ line || (s.slice die).wet.any (fun m => m.line == line) then s
  else match find with
    | .clean => s
    | .single => s.countA
    | .double =>
      let user := match s.runCtx with
        | some (n, x) => if x.program && dieInMap x.coreMap die then some n else none
        | none => none
      let (id, s) := s.logFault { status := .uncorrectableData, cls := 4, selftest := true, struct_ := 0x04, ctx := (user.map fun n => n.val).getD 0,
                                  die := die.val, address := 128 * line } []
      match user with
      | some n => s.stopProgram n .uncorrectableData 4 0 id
      | none => s)

/-- The structure that a class F record names (R434). -/
def ClassFSrc.struct_ : ClassFSrc → Nat
  | .easelLockstep => 0x0B | .feed => 0x0C | .bedOfDevreg => 0x05 | .clock => 0x0B | .thermal => 0x0D

/-- CLASS_F_FAULT (R428, R444). -/
def execClassFFault (src : ClassFSrc) (s : State) : Host.Outcome State Fault Refusal :=
  .next (if !s.clk.booted || s.clk.inReset || s.clk.tripped || s.dbg.frozen then s
  else
    let s := s.classF (ClassFSrc.struct_ src)
    match src with
    | .feed | .clock => { s with clk := { s.clk with lossF := true } }
    | _ => s)

/-- FAULT_LOG_READ: a record by its identifier, or the oldest unread one (R436). -/
def execFaultLogRead (h : CmdHdr) (p : FaultLogReadP) (s : State) : Host.Outcome State Fault Refusal :=
  .next (s.host1 h (.faultLogRead p) fun s =>
    match s.log.recs.find? fun r => if p.faultId = 0 then !r.read else r.id == p.faultId with
    | none => s.complete h (if p.faultId = 0 then .done else .badLength)
    | some r =>
      let s := { s with log := { s.log with recs := s.log.recs.map fun e => if e = r then { e with read := true } else e } }
      s.report h p.buffer p.length (r.header ++ r.body.flatten))

/-- PARTNER_SET (R448). -/
def execPartnerSet (h : CmdHdr) (p : PartnerSetP) (s : State) : Host.Outcome State Fault Refusal :=
  .next (s.host1 h (.partnerSet p) fun s => s.onCtx h p.ctx fun n x =>
    if s.fenced (.c p.die) || s.fenced (.c p.partner) then s.complete h .dieFenced
    else if p.die = p.partner then s.complete h .badLength
    else if p.die.bed = p.partner.bed then s.complete h .partnerSameFeed
    else (s.putCtx n { x with partner := assocSet p.die.val p.partner.val x.partner }).complete h .done)

/-! ## Failed stacks (R429, R439) -/

/-- Stacks with two failed pseudo-channels of one group that a read has met: the bed is fenced. -/
def State.failStack (s : State) (k : Fin 12) : State :=
  let b : BedId := ⟨k.val / 3, by have := k.isLt; omega⟩
  let s := s.modHbm fun m => { m with failedStacks := if k.val ∈ m.failedStacks then m.failedStacks else m.failedStacks ++ [k.val] }
  s.fence (.b b) true 0x05 0 [record 64 [(0, 1, 7), (16, 1, k.val)]]

/-- What an access finds, put into the state before the access is served (R429). -/
def State.hbmFinds (s : State) (b o : Nat) (find : HbmFind) : State :=
  match find with
  | .clean => s
  | .masked => s.countA
  | .lost => s.modHbm fun h => { h with badTiles := if tileKey b o ∈ h.badTiles then h.badTiles else h.badTiles ++ [tileKey b o] }
  | .dead =>
    let k := (3 * b + (stackPc o).1, (stackPc o).2)
    s.modHbm fun h => { h with deadPcs := if k ∈ h.deadPcs then h.deadPcs else h.deadPcs ++ [k] }

/-- A controller finishes the oldest access of a pseudo-channel (R213, R214, R217). A group in which two pseudo-channels have
failed makes its stack failed (R429). -/
def execTagRelease (b : BedId) (stack : Fin 3) (pc : Fin 64) (find : HbmFind) (s : State) : Host.Outcome State Fault Refusal :=
  .next (if !s.clocked then s else
  match (s.bed b).tags.find? fun t => t.stack == stack && t.pc == pc && s.atController t with
  | none => s
  | some t =>
    match s.tagPlace t with
    | none => s.stamp.finishAccess b t
    | some (k, o) =>
      let s := s.stamp.hbmFinds k o find
      let n := 3 * b.val + stack.val
      if s.hbm.groupBad k o ≤ 1 ∨ n ∈ s.hbm.failedStacks then s.finishAccess b t
      else (s.finishAccess b t).failStack ⟨n, by have := b.isLt; have := stack.isLt; omega⟩)

end Sys2Proof.Machine
end

