-- ==== Sys2Proof/Machine/Impressions.lean ====
section
/-! DEFINITION. Impressions: the plan and its copies, IMPRESSION_TAKE and IMPRESSION_RESTORE (R415, R445 to R451). -/

namespace Sys2Proof.Machine

open Sys2Proof

/-! ## The plan (R445) -/

/-- An entry of a plan. -/
structure PlanEntry where
  scratch : Bool
  die : DieId
  src : Nat
  len : Nat
  primary : Nat
  mirror : Nat
deriving DecidableEq, Repr

/-- The entry that 64 bytes spell, and whether its reserved bits are 0. -/
def planEntry (bs : List Byte) : PlanEntry × Bool :=
  let b0 := fieldAt bs 0 1
  let b1 := fieldAt bs 1 1
  let src := fieldAt bs 8 8
  let len := fieldAt bs 16 8
  let pri := fieldAt bs 24 8
  let mir := fieldAt bs 32 8
  (⟨bit b0 0, ⟨b1 % 16, by omega⟩, src, len, pri, mir⟩,
   decide (b0 < 2) && decide (b1 < 16) && zeroAt bs 2 6 && decide (src < (if b0 = 1 then 2 ^ 26 else 2 ^ 48)) && decide (len < 2 ^ 40) &&
   decide (pri < 2 ^ 48) && decide (mir < 2 ^ 48) && zeroAt bs 40 24)

/-- Chunks of a length, and the bytes of a copy. -/
def chunkCount (len : Nat) : Nat := ceilDiv len (2 ^ 20)
def copyBytes (len : Nat) : Nat := len + 16 * chunkCount len

/-- Alignment and the ends of the address spaces, which no check of R446 names. -/
def PlanEntry.inRange (e : PlanEntry) : Bool :=
  e.src % 64 == 0 && e.len % 64 == 0 && decide (e.src + e.len ≤ if e.scratch then 2 ^ 26 else 2 ^ 48) &&
  decide (e.primary + copyBytes e.len ≤ 2 ^ 48) && decide (e.mirror + copyBytes e.len ≤ 2 ^ 48)

/-- Why a plan cannot be used. -/
inductive PlanErr where
  | halt (t : Halt) | bad (s : Status)

/-- The entries of the plan at an address, with the bytes of the plan (check 3 of R446). -/
def Moving.plan (m : Moving) (n : CtxId) (e : Env) (area : Nat) : Except PlanErr ((List PlanEntry × List Byte) × Moving) :=
  match { m with done := 0 }.readAll n e area 64 128 [] with
  | .error t => .error (.halt t)
  | .ok (hd, m) =>
    let hd := hd.reverse.flatten
    let k := fieldAt hd 4 2
    if fieldAt hd 0 4 ≠ 0x4E4C5049 ∨ k = 0 ∨ 4096 < k ∨ !zeroAt hd 6 58 then .error (.bad .reservedNonzero)
    else match { m with done := 0 }.readAll n e (area + 64) (64 * k) (64 * k + 1) [] with
      | .error t => .error (.halt t)
      | .ok (bs, m) =>
        let bs := bs.reverse.flatten
        let es := (List.range k).map fun i => planEntry (block bs i)
        if es.all fun p => p.2 then
          (if es.all fun p => p.1.inRange then .ok ((es.map fun p => p.1, hd ++ bs), m) else .error (.bad .badLength))
        else .error (.bad .reservedNonzero)

/-! ## Chunks -/

/-- CRC-64 (ECMA-182) of bytes: polynomial 0x42F0E1EBA9EA3693, from 0, not reflected. -/
def crc64 (bs : List Byte) : Nat :=
  bs.foldl (fun c b => (List.range 8).foldl (fun c _ => if bit c 63 then (2 * c % 2 ^ 64) ^^^ 0x42F0E1EBA9EA3693 else 2 * c) (c ^^^ (b.toNat * 2 ^ 56))) 0

/-- The nonce and the additional data of a chunk (R415). -/
def chunkAad (count i : Nat) : List Byte := leBytes 8 count ++ leBytes 4 i

/-- A chunk with its trailer. -/
def closeChunk (x : Ctx) (count i : Nat) (data : List Byte) : List Byte :=
  match x.sealing with
  | none => data ++ leBytes 8 (crc64 data) ++ zeros 8
  | some k =>
    let aad := chunkAad count i
    let (c, t) := gcmSeal k.kImp (leNat aad) aad data
    c ++ leBytes 16 t

/-- The plaintext of a chunk whose trailer holds. -/
def openChunk (x : Ctx) (count i : Nat) (bs : List Byte) : Option (List Byte) :=
  let data := bs.take (bs.length - 16)
  let tail := bs.drop (bs.length - 16)
  match x.sealing with
  | none => if tail = leBytes 8 (crc64 data) ++ zeros 8 then some data else none
  | some k =>
    let aad := chunkAad count i
    gcmOpen (k.restoreKey.getD k.kImp) (leNat aad) aad data (leNat tail)

/-- A copy: its chunks, numbered from `i` on. -/
def copyOf (x : Ctx) (count i : Nat) (data : List Byte) : List Byte :=
  ((chunksOf (2 ^ 20) (chunkCount data.length) data).zipIdx.map fun d => closeChunk x count (i + d.2) d.1).flatten

/-- Bytes stored from a virtual address on, in pieces that keep within 64-byte blocks; `len` is the length of the whole. -/
def Moving.writeAll (m : Moving) (n : CtxId) (v len : Nat) : Nat → Nat → List Byte → Moving × Option Halt
  | 0, _, _ => (m, none)
  | k + 1, i, bs =>
    if bs.isEmpty then (m, none)
    else
      let step := 64 - (v + i) % 64
      match m.store n (.virt v) i len (bs.take step) with
      | .error t => (m, some t)
      | .ok m => m.writeAll n v len k (i + step) (bs.drop step)

/-- A whole buffer stored at a virtual address. -/
def Moving.put (m : Moving) (n : CtxId) (v : Nat) (bs : List Byte) : Moving × Option Halt := m.writeAll n v bs.length (bs.length + 1) 0 bs

/-! ## Sources and targets of entries -/

/-- A page of a virtual range that is not HBM. -/
def Ctx.farIn (x : Ctx) (v n : Nat) : Option Nat := ((x.pagesIn v n).find? fun p => p.far).map fun p => max v p.vaddr

/-- A scratchpad range of a context: in the slice while the context runs, else in its save area, else zero (R209, R445). -/
def State.scratchOf (s : State) (n : CtxId) (d : DieId) (a len : Nat) : List Byte :=
  if s.running = some n then readBytes (s.slice d).mem a len
  else
    let x := s.ctxD n
    let (b, o) := s.saveBase x
    match x.savedRange with
    | some (lo, k) => (List.range len).map fun i =>
        if lo ≤ a + i ∧ a + i < lo + k then sget 0 s.hbm.mem (hbmKey b o + sliceOff d + a + i) else 0
    | none => zeros len

/-- A scratchpad range of a context written: in the slice while the context runs, else in its save area, whose range grows. -/
def State.putScratch (s : State) (n : CtxId) (d : DieId) (a : Nat) (bs : List Byte) : State :=
  if s.running = some n then s.modSlice d fun k => { k with mem := writeBytes k.mem a bs }
  else
    let x := s.ctxD n
    let (b, o) := s.saveBase x
    let base := fun (d : DieId) => hbmKey b o + sliceOff d
    let hi := a + bs.length
    let (lo', hi') := match x.savedRange with
      | some (lo, k) => (min a lo, max hi (lo + k))
      | none => (a, hi)
    let grow := fun (m : Sparse Byte) (d : DieId) => match x.savedRange with
      | some (lo, k) => sclear (sclear m (base d + lo') (lo - lo')) (base d + lo + k) (hi' - (lo + k))
      | none => sclear m (base d + lo') (hi' - lo')
    let mem := writeBytes (allDies.foldl grow s.hbm.mem) (base d + a) bs
    (s.modHbm fun h => { h with mem := mem }).putCtx n { x with savedRange := some (lo', hi' - lo') }

/-- Whether every mapped page of a copy lies on a bed, in HBM, and can be written (check 5 of R446). -/
def Ctx.copyOk (x : Ctx) (b : BedId) (v len : Nat) (wr : Bool) : Bool :=
  (x.pagesIn v len).all fun p => !p.far && !bit p.target 40 && p.target / 2 ^ 38 == b.val && (p.wr || !wr)

/-- The working partner of a die (R448). -/
def State.partnerOf (s : State) (x : Ctx) (d : DieId) : Option DieId :=
  (assoc? d.val x.partner).bind fun p => if h : p < 16 then (if s.fenced (.c ⟨p, h⟩) then none else some ⟨p, h⟩) else none

/-! ## The record (R447) -/

/-- The bytes of an impression record. -/
def impRecord (n : CtxId) (x : Ctx) (count : Nat) (far : Bool) (lost : List Nat) : List Byte :=
  let res := x.shuffle
  let ring := x.grad.ring
  let cfg := x.grad.cfg
  let pos := (res.map fun r => r.pos).getD []
  record 4096 ([(0, 4, 0x44525049), (4, 4, count % 2 ^ 32), (8, 2, n.val), (10, 1, 1 + 2 * bitOf x.sealing.isSome + 4 * bitOf far), (12, 4, count / 2 ^ 32),
    (16, 16, (res.map fun r => r.cfg.seed).getD 0), (32, 1, (res.map fun r => r.cfg.lanes).getD 0), (36, 4, (res.map fun r => r.slots).getD 0),
    (40, 8, x.srKey), (48, 1, (ring.map fun r => r.replicas).getD 0), (49, 1, (cfg.map fun c => c.accum).getD 0), (50, 1, (cfg.map fun c => c.sizeCode).getD 0),
    (51, 1, (cfg.map fun c => c.fmt).getD 0), (52, 4, (x.grad.replicas.head?.map fun r => r.round).getD 0), (640, 512, maskOf lost)] ++
    (((ring.map fun r => r.dies).getD []).take 16).zipIdx.map (fun d => (56 + d.2, 1, d.1)) ++
    allDies.map (fun d => (72 + d.val, 1, (assoc? d.val x.partner).getD 0xFF)) ++
    (pos.take 64).zipIdx.map fun p => (128 + 8 * p.2, 8, p.1))

/-! ## IMPRESSION_TAKE (R446) -/

/-- An impression while it is taken. -/
structure Taking where
  m : Moving
  chunk : Nat
  bytes : Nat                -- bytes written
  copies : List (List Byte)  -- copies so far, newest first
  lost : List Nat            -- entries without a working partner
  halt : Option Halt

/-- The bytes of an entry's source. -/
def Moving.source (m : Moving) (n : CtxId) (env : Env) (e : PlanEntry) : Except Halt (List Byte × Moving) :=
  if e.scratch then .ok (m.s.scratchOf n e.die e.src e.len, m)
  else match (m.s.ctxD n).farIn e.src e.len with
    | some v => .error (.page v .read .wrongTier)
    | none => match { m with done := 0 }.readAll n env e.src e.len (e.len + 1) [] with
      | .error t => .error t
      | .ok (bs, m) => .ok (bs.reverse.flatten, m)

/-- One entry copied to its primary and to its mirror. -/
def Taking.entry (t : Taking) (n : CtxId) (x : Ctx) (env : Env) (e : PlanEntry) (i : Nat) : Taking :=
  if t.halt.isSome then t
  else match t.m.source n env e with
    | .error h => { t with halt := some h }
    | .ok (data, m) =>
      let bs := copyOf x x.impCount t.chunk data
      let t := { t with chunk := t.chunk + chunkCount e.len }
      match m.put n e.primary bs with
      | (m, some h) => { t with m := m, halt := some h }
      | (m, none) =>
        let t := { t with m := m, bytes := t.bytes + bs.length, copies := bs :: t.copies }
        if (m.s.partnerOf x e.die).isNone then { t with lost := t.lost ++ [i] }
        else match m.put n e.mirror bs with
          | (m, some h) => { t with m := m, halt := some h }
          | (m, none) => { t with m := m, bytes := t.bytes + bs.length }

/-- The far copy: the plan and the record, then the entries, each padded to 4,096 bytes. -/
def farImage (plan rec_ : List Byte) (copies : List (List Byte)) : List Byte :=
  ((plan ++ rec_) :: copies).flatMap fun b => padTo (roundUp b.length 4096) b

/-- Checks 4 and 5 of R446. -/
def State.planStatus (s : State) (x : Ctx) (far : Bool) (es : List PlanEntry) : Option Status :=
  if es.any fun e => s.fenced (.c e.die) || ((s.partnerOf x e.die).isNone && !far) then some .dieFenced
  else if es.all fun e => x.copyOk e.die.bed e.primary (copyBytes e.len) true &&
      (match s.partnerOf x e.die with
       | some p => x.copyOk p.bed e.mirror (copyBytes e.len) true
       | none => true) then none
  else some .accessDenied

/-- IMPRESSION_TAKE (R446, R447). -/
def execImpressionTake (h : CmdHdr) (p : ImpressionP) (env : Env) (s : State) : Host.Outcome State Fault Refusal :=
  .next (s.host1 h (.impressionTake p) fun s =>
    if ctxOf p.ctx = 0 then s.complete h .badContext
    else s.onCtx h p.ctx fun n x =>
      if x.program then s.busy h
      else match (⟨s, env.bytes, 0, 0, false⟩ : Moving).plan n env p.area with
        | .error (.halt t) => s.commandHalt h n t p.area false 0
        | .error (.bad st) => s.complete h st
        | .ok ((es, plan), m) =>
          match m.s.planStatus x p.far es with
          | some st => s.complete h st
          | none =>
            let x := { x with impCount := x.impCount + 1 }
            let t := es.zipIdx.foldl (fun (t : Taking) e => t.entry n x env e.1 e.2) ⟨{ m with s := m.s.putCtx n x }, 0, 0, [], [], none⟩
            match t.halt with
            | some k => t.m.s.commandHalt h n k p.area false t.bytes
            | none =>
              let image := farImage plan (impRecord n x x.impCount true t.lost) t.copies.reverse
              let (m, fail) := if p.far then t.m.put n p.farAddr image else (t.m, none)
              let fail := match fail, env.wrFail with
                | some k, _ => some k
                | none, some (_, f) => if p.far then some (.far f) else none
                | none, none => none
              let bytes := t.bytes + if p.far && fail.isNone then image.length else 0
              let rec_ := impRecord n x x.impCount (p.far && fail.isNone) t.lost
              match m.put n (p.area + plan.length) rec_ with
              | (m, some k) => m.s.commandHalt h n k (p.area + plan.length) true bytes
              | (m, none) => match fail with
                | some k => m.s.commandHalt h n k p.farAddr true (bytes + 4096)
                | none => m.s.complete h (if t.lost.isEmpty then .done else .donePartial) (bytes + 4096))

/-! ## IMPRESSION_RESTORE (R450, R451) -/

/-- Why no copy supplied a chunk. -/
inductive ChunkErr where
  | halt (t : Halt) | tag | none_

/-- A chunk read from the first copy that supplies it. -/
def Moving.chunk (m : Moving) (n : CtxId) (x : Ctx) (env : Env) (count i len : Nat) : List Nat → Bool → Except ChunkErr (List Byte × Moving)
  | [], tag => .error (if tag then .tag else .none_)
  | v :: vs, tag =>
    match { m with done := 0 }.readAll n env v (len + 16) (len + 17) [] with
    | .error (.data _ _) => m.chunk n x env count i len vs tag
    | .error t => .error (.halt t)
    | .ok (bs, m) => match openChunk x count i bs.reverse.flatten with
      | some data => .ok (data, m)
      | none => m.chunk n x env count i len vs true

/-- The plaintext of an entry: its `k` chunks from number `i` on, at `off` in its copies. -/
def Moving.chunks (m : Moving) (n : CtxId) (x : Ctx) (env : Env) (count : Nat) (bases : List Nat) (len : Nat) :
    Nat → Nat → Nat → List (List Byte) → Except ChunkErr (List Byte × Moving)
  | 0, _, _, acc => .ok (acc.reverse.flatten, m)
  | k + 1, i, off, acc =>
    let part := min (2 ^ 20) (len - (off - 16 * (off / (2 ^ 20 + 16))))
    match m.chunk n x env count i part (bases.map fun b => b + off) false with
    | .error e => .error e
    | .ok (bs, m) => m.chunks n x env count bases len k (i + 1) (off + part + 16) (bs :: acc)

/-- A restore while it runs. -/
structure Restoring where
  m : Moving
  chunk : Nat
  farOff : Nat               -- where the next entry lies in the far copy
  texts : List (PlanEntry × List Byte) -- plaintexts not yet written, newest first
  bytes : Nat
  stop : Option (Sum Halt Status)

/-- The plaintext of an entry gathered. -/
def Restoring.gather (r : Restoring) (n : CtxId) (x : Ctx) (env : Env) (far : Option Nat) (count : Nat) (lost : Bool) (e : PlanEntry) : Restoring :=
  if r.stop.isSome then r
  else
    let bases := [e.primary] ++ (if lost then [] else [e.mirror]) ++ (match far with
      | some v => [v + r.farOff]
      | none => [])
    match r.m.chunks n x env count bases e.len (chunkCount e.len) r.chunk 0 [] with
    | .error (.halt t) => { r with stop := some (.inl t) }
    | .error .tag => { r with stop := some (.inr (if x.sealing.isSome then .accessDenied else .uncorrectableData)) }
    | .error .none_ => { r with stop := some (.inr .uncorrectableData) }
    | .ok (bs, m) => { r with m := m, chunk := r.chunk + chunkCount e.len, farOff := r.farOff + roundUp (copyBytes e.len) 4096,
                              texts := (e, bs) :: r.texts, bytes := r.bytes + copyBytes e.len }

/-- The plaintexts gathered so far written to where their entries say. -/
def Restoring.flush (r : Restoring) (n : CtxId) : Restoring :=
  r.texts.reverse.foldl (fun (r : Restoring) t =>
    let e := t.1
    if r.stop.isSome then r
    else if r.m.s.fenced (.c e.die) then { r with stop := some (.inr .dieFenced) }
    else if e.scratch then { r with m := { r.m with s := r.m.s.putScratch n e.die e.src t.2 } }
    else match (r.m.s.ctxD n).farIn e.src e.len with
      | some v => { r with stop := some (.inl (.page v .write .wrongTier)) }
      | none => match r.m.put n e.src t.2 with
        | (m, some k) => { r with m := m, stop := some (.inl k) }
        | (m, none) => { r with m := m }) { r with texts := [] }

/-- The draw positions of a reservoir, as a record gives them (R451). -/
def Reservoir.replaced (r : Reservoir) (rec_ : List Byte) : Reservoir :=
  let old := fieldAt rec_ 32 1
  let at_ := fun (l : Nat) => fieldAt rec_ (128 + 8 * l) 8
  if old = r.cfg.lanes then { r with pos := (List.range old).map at_ }.reseat
  else
    let ns := (List.range old).map fun l => at_ l * old + l
    let n0 := ns.foldl min (ns.headD 0)
    { r with pos := (List.range r.cfg.lanes).map fun l => ceilDiv (n0 - l) r.cfg.lanes }.reseat

/-- The device state of a record reinstated; `false` where the reservoir does not match (R451). -/
def State.reinstate (s : State) (n : CtxId) (rec_ : List Byte) : State × Bool :=
  let x := { s.ctxD n with srKey := fieldAt rec_ 40 8 }
  let seed := (x.shuffle.map fun r => r.cfg.seed).getD 0
  let slots := (x.shuffle.map fun r => r.slots).getD 0
  if seed ≠ fieldAt rec_ 16 16 ∨ slots ≠ fieldAt rec_ 36 4 then (s.putCtx n x, false)
  else
    let k := (x.grad.ring.map fun r => r.replicas).getD 0
    let dies := ((x.grad.ring.map fun r => r.dies).getD []).take k
    let same := k = fieldAt rec_ 48 1 ∧ dies = ((List.range 16).map fun i => fieldAt rec_ (56 + i) 1).take k
    let round := if same then fieldAt rec_ 52 4 else 0
    (s.putCtx n { x with shuffle := x.shuffle.map fun r => r.replaced rec_,
                         grad := { x.grad with replicas := x.grad.replicas.map fun r => { r with round := round } } }, true)

/-- The restore after its checks: reset, entries, device state. A sealed context has every chunk opened before anything is
written (R415). -/
def Moving.restoreImage (m : Moving) (h : CmdHdr) (p : ImpressionP) (env : Env) (n : CtxId) (es : List PlanEntry)
    (planLen : Nat) (rec_ : List Byte) : State :=
  let s0 := m.s.resetCtx n
  let x := s0.ctxD n
  let count := fieldAt rec_ 4 4 + 2 ^ 32 * fieldAt rec_ 12 4
  let far := if p.far then some (p.farAddr + roundUp (planLen + 4096) 4096) else none
  let lost := fieldAt rec_ 640 512
  let sealed_ := x.sealing.isSome
  let one := fun (r : Restoring) (e : PlanEntry × Nat) =>
    let r := r.gather n x env far count (bit lost e.2) e.1
    if sealed_ then r else r.flush n
  let r := es.zipIdx.foldl one ⟨{ m with s := s0 }, 0, 0, [], planLen + 4096, none⟩
  let r := if sealed_ && r.stop.isNone then r.flush n else r
  match r.stop with
  | some (.inl t) => r.m.s.commandHalt h n t p.area false r.bytes
  | some (.inr st) => r.m.s.complete h st r.bytes
  | none => match r.m.s.reinstate n rec_ with
    | (s, true) => s.complete h .done r.bytes
    | (s, false) => s.complete h .badLength r.bytes

/-- IMPRESSION_RESTORE (R415, R450, R451). -/
def execImpressionRestore (h : CmdHdr) (p : ImpressionP) (env : Env) (s : State) : Host.Outcome State Fault Refusal :=
  .next (s.host1 h (.impressionRestore p) fun s =>
    if ctxOf p.ctx = 0 then s.complete h .badContext
    else s.onCtx h p.ctx fun n x =>
      if x.program then s.busy h
      else match (⟨s, env.bytes, 0, 0, false⟩ : Moving).plan n env p.area with
        | .error (.halt t) => s.commandHalt h n t p.area false 0
        | .error (.bad st) => s.complete h st
        | .ok ((es, plan), m) =>
          match { m with done := 0 }.readAll n env (p.area + plan.length) 4096 4097 [] with
          | .error t => s.commandHalt h n t (p.area + plan.length) false 0
          | .ok (bs, m) =>
            let rec_ := bs.reverse.flatten
            let fl := fieldAt rec_ 10 1
            if !bit fl 0 then s.complete h .badLength
            else if bit fl 1 ≠ x.sealing.isSome then s.complete h .accessDenied
            else if s.running ≠ some n && decide (x.saveSize < 585) && es.any (fun e => e.scratch) then s.complete h .badLength
            else m.restoreImage h p env n es plan.length rec_)

end Sys2Proof.Machine
end

