-- ==== Sys2Proof/Machine/Security.lean ====
section
/-! DEFINITION. The security processor: sealed contexts (R406 to R416), firmware staging and activation (R418 to R421), the debug lock
(R422, R423), and identity and measured state (R399 to R404). -/

namespace Sys2Proof

/-- The bytes `[a, a + n)` of what a command reads from host memory, or how the read fails (R228). -/
def Env.read (e : Env) (a n : Nat) : Except FarFail (List Byte) :=
  match e.rdFail with
  | some (k, f) => if k < a + n then .error f else .ok (Machine.padTo n ((e.bytes.drop a).take n))
  | none => .ok (Machine.padTo n ((e.bytes.drop a).take n))

end Sys2Proof

namespace Sys2Proof.Machine

open Sys2Proof

/-! ## Keys -/

/-- Byte codes of an ASCII string. -/
def ascii (s : String) : List Byte := s.toList.map fun c => BitVec.ofNat 8 c.toNat

/-- The codes of the keys that a part is born with (R399). -/
def keySeed : Nat := 1
def keyRootX : Nat := 2
def keyRootY : Nat := 3
def keyDebugX : Nat := 4
def keyDebugY : Nat := 5
/-- The measurement of the boot ROM (R403). -/
def keyBootRom : Nat := 8

/-- The alias private key of an image (R401). -/
def aliasKeyOf (m : Nat) (locked : Bool) : Nat :=
  let cdi := hmac512 (leBytes 64 (Config.fusedKey keySeed)) (leBytes 64 m ++ leBytes 1 (bitOf locked))
  leNat (hkdf512 [] cdi (ascii "KB2516 alias") 80) % (p521N - 1) + 1

/-- A fresh draw from the deterministic random bit generator. -/
def State.random (s : State) : Nat × State := (Config.drbg s.sec.drbg, { s with sec := { s.sec with drbg := s.sec.drbg + 1 } })

/-- M of R401: the digest of the running firmware section. -/
def State.measured (s : State) : Nat := (s.sec.running.map fun i => i.firmware).getD 0

/-! ## Measurements (R403) -/

/-- The load-state value of a die. -/
def State.loadState (s : State) (d : DieCode) : List Byte :=
  let k := s.die d
  record 72 [(0, 1, if k.fenced then 2 else bitOf k.loaded), (8, 64, if k.loaded && !k.fenced then k.digest else 0)]

/-- Whether any context is sealing or sealed. -/
def State.anySealing (s : State) : Bool := s.ctxs.any fun e => e.2.sealing.isSome

/-- The value of a measurement index; none where the index is absent. -/
def State.measurement (s : State) (i : Nat) : Option (List Byte) :=
  let img := fun (f : ImageInfo → Nat) => leBytes 64 ((s.sec.running.map f).getD 0)
  if i = 1 then some (leBytes 64 (Config.fusedKey keyBootRom))
  else if i = 2 then some (img fun k => k.firmware)
  else if i = 3 then some (img fun k => k.mediaCode)
  else if i = 4 then some (img fun k => k.computeCode)
  else if i = 5 then some (record 8 [(0, 1, bitOf s.sec.locked), (1, 1, s.sec.scope), (2, 1, s.fuses.svn), (3, 1, (s.sec.running.map fun k => k.svn).getD 0)])
  else if i = 6 then some (leBytes 64 ((s.sec.staged.map fun k => k.image).getD 0))
  else if h : 16 ≤ i ∧ i < 20 then some (s.loadState (.m ⟨i - 16, by omega⟩))
  else if h : 32 ≤ i ∧ i < 48 then some (s.loadState (.c ⟨i - 32, by omega⟩))
  else if i = 48 then some (leBytes 512 ((s.ctxs.filter fun e => e.2.sealing.isSome).map fun e => 2 ^ e.1.val).sum)
  else none

/-- The measurement indices (R403). -/
def measurementIndices : List Nat := (List.range 49).filter fun i => (1 ≤ i && i ≤ 6) || (16 ≤ i && i < 20) || 32 ≤ i

/-! ## SEAL_OPEN (R406, R407) -/

/-- Whether an HBM frame of a context is mapped into another one. -/
def State.sharesFrame (s : State) (n : CtxId) (x : Ctx) : Bool :=
  let units := s.hbm.dwi
  let mine := x.pages.flatMap fun p => p.parts units
  s.ctxs.any fun e => e.1 ≠ n && e.2.pages.any fun q => (q.parts units).any fun k => decide (k ∈ mine)

/-- Whether a compute or media die is neither fenced nor measured (R403, R406). -/
def State.unmeasured (s : State) : Bool :=
  (allDies.any fun d => !s.fenced (.c d) && !(s.die (.c d)).loaded) || allBeds.any fun m => !s.fenced (.m m) && !(s.die (.m m)).loaded

/-- The open record (R407). -/
def State.openRecord (s : State) (n : CtxId) (salt eph : Nat) : List Byte :=
  let (x, y) := ecdhPublic eph
  let digest := sha512 ((measurementIndices.filter fun i => i ≠ 48).flatMap fun i => (s.measurement i).getD [])
  let body := record 512 [(0, 4, 0x4C414553), (4, 1, 1), (5, 1, 1), (6, 2, n.val), (8, 8, s.fuses.serial), (16, 64, salt), (80, 66, x), (146, 66, y),
    (212, 64, digest), (276, 4, s.fuses.opens % 2 ^ 32)]
  let (r, v) := ecdsaSign s.sec.aliasKey (sha512 (body.take 380))
  putAt (putAt body 380 (leBytes 66 r)) 446 (leBytes 66 v)

/-- SEAL_OPEN (R406). The keys of R408 do not exist before an image is accepted: they are free values. -/
def execSealOpen (h : CmdHdr) (p : SealP) (s : State) : Host.Outcome State Fault Refusal :=
  .next (s.host1 h (.sealOpen p) fun s =>
    if ctxOf p.ctx = 0 then s.complete h .badContext
    else s.onCtx h p.ctx fun n x =>
      if x.sealing.isSome then s.complete h .badContext
      else if s.running = some n then s.busy h
      else if !s.sec.locked then s.complete h .accessDenied
      else if (x.grad.casc.map fun c => decide (1 < c.cfg.devices)).getD false then s.complete h .deniedSealed
      else if (x.pages.any fun q => q.far && q.wr) || s.sharesFrame n x then s.complete h .accessDenied
      else if s.unmeasured then s.complete h .notMeasured
      else if p.length < 512 then s.complete h .badLength
      else
        let (eph, s) := s.random
        let eph := eph % (p521N - 1) + 1
        let (salt, s) := s.random
        let (kl, s) := s.draw
        let (ki, s) := s.draw
        let bs := s.openRecord n (salt % 2 ^ 512) eph
        let x := { x with sealing := some ⟨.sealing, eph, salt % 2 ^ 512, none, kl, ki, 0, 0, 0, 0, false, none⟩ }
        let s := (s.putCtx n x).sealPages n x x.pages
        let s : State := { s with fuses := { s.fuses with opens := s.fuses.opens + 1 } }
        s.report h p.buffer 512 bs)

/-! ## SEAL_LOAD (R408 to R411) -/

/-- The two keys of a seal session from the owner's point (R408). -/
def Seal.keys (k : Seal) (n : CtxId) (serial qx qy : Nat) : Nat × Nat :=
  let z := beBytes 66 (ecdhShared k.ephemeral qx qy)
  let label := fun (b : Nat) => ascii "KB2516 seal v1" ++ leBytes 1 b ++ leBytes 2 n.val ++ leBytes 8 serial
  (leNat (hkdf512 (leBytes 64 k.salt) z (label 1) 32), leNat (hkdf512 (leBytes 64 k.salt) z (label 2) 32))

/-- The fields of an image header (R409). -/
structure SealHdr where
  kind : Nat
  qx : Nat
  qy : Nat
  nonce : List Byte
  plain : Nat
deriving DecidableEq, Repr

/-- The header, or the status of its form. -/
def sealHdr (bs : List Byte) (length : Nat) : Except Status SealHdr :=
  let kind := fieldAt bs 5 1
  let plain := fieldAt bs 156 8
  if fieldAt bs 0 4 ≠ 0x4D49534B ∨ fieldAt bs 4 1 ≠ 1 ∨ 2 < kind ∨ !zeroAt bs 6 2 ∨ 2 ^ 40 ≤ plain ∨ !zeroAt bs 164 92 ∨
      2 ^ 528 ≤ fieldAt bs 16 66 then .error .reservedNonzero
  else if (kind = 0 ∧ plain ≠ 256) ∨ (kind = 2 ∧ plain ≠ 32) ∨ (kind = 1 ∧ (plain < 64 ∨ 2 ^ 32 < plain)) ∨ length ≠ 256 + copyBytes plain then
    .error .badLength
  else .ok ⟨kind, fieldAt bs 16 66, fieldAt bs 82 66, (bs.drop 148).take 8, plain⟩

/-- The first byte of `[v, v + len)` that a data image may not be written to, looking once in every page (R410). -/
def State.badDest (s : State) (n : CtxId) (x : Ctx) (v len : Nat) : Option (Nat × Reason) :=
  let starts := v :: ((List.range (len / 65536 + 2)).map fun i => (v / 65536 + 1 + i) * 65536).filter fun a => a < v + len
  (if len = 0 then [] else starts).findSome? fun a =>
    match s.xlate n a .write with
    | .error r => some (a, r)
    | .ok (.far _ _ _) => some (a, .wrongTier)
    | .ok (.hbm _ _) => if x.inOpen a then some (a, .sealed) else none

/-- How the chunks of an image ended. -/
inductive LoadEnd where
  | ok (plain : List Byte) | tag | far (f : FarFail) | halt (t : Halt)

/-- `k` chunks from number `i` on: read, verified, and for a data image written (R410). -/
def State.loadChunks (s : State) (n : CtxId) (x : Ctx) (env : Env) (key : Nat) (hd : List Byte) (g : SealHdr) (dst : Nat) :
    Nat → Nat → List Byte → State × Nat × LoadEnd
  | 0, _, acc => (s, if g.kind = 1 then g.plain else 0, .ok acc)
  | k + 1, i, acc =>
    let part := min (2 ^ 20) (g.plain - i * 2 ^ 20)
    let done := i * 2 ^ 20
    match env.read (256 + i * (2 ^ 20 + 16)) (part + 16) with
    | .error f => (s, done, .far f)
    | .ok bs =>
      let idx := leBytes 4 i
      match gcmOpen key (leNat (g.nonce ++ idx)) (hd ++ idx) (bs.take part) (leNat (bs.drop part)) with
      | none => (s, done, .tag)
      | some text =>
        if g.kind ≠ 1 then s.loadChunks n x env key hd g dst k (i + 1) (acc ++ text)
        else match s.badDest n x (dst + done) part with
          | some (a, r) => (s, done, .halt (.page a .write r))
          | none => match (⟨s, [], 0, 0, false⟩ : Moving).put n (dst + done) text with
            | (m, some t) => (m.s, done, .halt t)
            | (m, none) => m.s.loadChunks n x env key hd g dst k (i + 1) acc

/-- A manifest's plaintext: signing key, open range, ide_required; none where it is not valid (R411). -/
def manifest (bs : List Byte) : Option (Nat × Nat × Nat × Nat × Bool) :=
  let base := fieldAt bs 132 8
  let size := fieldAt bs 140 8
  let sx := fieldAt bs 0 66
  let sy := fieldAt bs 66 66
  if onP521 sx sy && base % 2097152 == 0 && size % 2097152 == 0 && decide (size ≤ 2 ^ 36) && decide (base + size ≤ 2 ^ 48) &&
      decide (fieldAt bs 148 1 < 2) && zeroAt bs 149 107 then some (sx, sy, base, size, bit (fieldAt bs 148 1) 0) else none

/-- An accepted image of a seal session (R408, R411): the first one fixes the owner and the keys. -/
def State.acceptImage (s : State) (n : CtxId) (x : Ctx) (k : Seal) (g : SealHdr) (keys : Nat × Nat) (text : List Byte) : Option State :=
  let k := { k with owner := some (g.qx, g.qy), kLoad := keys.1, kImp := keys.2 }
  if g.kind = 0 then
    match manifest text with
    | none => none
    | some (sx, sy, base, size, ide) =>
      let x := { x with sealing := some { k with st := .sealed, signX := sx, signY := sy, openBase := base, openSize := size, ideRequired := ide } }
      let parts := (x.pages.filter fun p => x.inOpen p.vaddr).flatMap fun p => p.parts s.hbm.dwi
      some ((s.putCtx n x).modHbm fun m => { m with scrubbing := m.scrubbing ++ parts.filter fun j => decide (j ∉ m.scrubbing) && assoc? j m.sealedFrames == some n })
  else some (s.putCtx n { x with sealing := some { k with restoreKey := if g.kind = 2 then some (leNat text) else k.restoreKey } })

/-- SEAL_LOAD (R410). -/
def execSealLoad (h : CmdHdr) (p : SealLoadP) (env : Env) (s : State) : Host.Outcome State Fault Refusal :=
  .next (s.host1 h (.sealLoad p) fun s => s.onCtx h p.ctx fun n x =>
    match x.sealing with
    | none => s.complete h .badContext
    | some k =>
      if p.length < 256 then s.complete h .badLength
      else match env.read 0 256 with
        | .error f => s.commandHalt h n (.far f) p.src false 0
        | .ok hd => match sealHdr hd p.length with
          | .error st => s.complete h st
          | .ok g =>
            let keys := if k.owner.isSome then (k.kLoad, k.kImp) else k.keys n s.fuses.serial g.qx g.qy
            if (k.st == .sealing) ≠ (g.kind == 0) then s.complete h .accessDenied
            else if (k.owner.map fun o => decide (o ≠ (g.qx, g.qy))).getD (!onP521 g.qx g.qy) then s.complete h .accessDenied
            else match s.loadChunks n x env keys.1 hd g p.dst (chunkCount g.plain) 0 [] with
              | (s, done, .tag) => s.complete h .accessDenied done
              | (s, done, .far f) => s.commandHalt h n (.far f) (p.src + 256 + copyBytes done) false done
              | (s, done, .halt t) => s.commandHalt h n t (p.dst + done) true done
              | (s, done, .ok text) => match s.acceptImage n (s.ctxD n) k g keys text with
                | some s => s.complete h .done done
                | none => s.complete h .accessDenied)

/-! ## SEAL_CLOSE (R416) -/

/-- SEAL_CLOSE. -/
def execSealClose (h : CmdHdr) (ctx : Nat) (s : State) : Host.Outcome State Fault Refusal :=
  .next (s.host1 h (.sealClose ctx) fun s => s.onCtx h ctx fun n x =>
    if s.running = some n then s.busy h
    else if x.sealing.isNone then s.complete h .badContext
    else
      let s := (s.resetCtx n).scrubCtx n
      let s := s.modCtx n fun x => { x with pages := x.pages.filter fun p => p.far || x.inOpen p.vaddr, sealing := none }
      s.complete h .done)

/-! ## Firmware (R418 to R421) -/

/-- A section of an image: offset, size and digest (R418). -/
def fwSection (bs : List Byte) (i : Nat) : Nat × Nat × Nat := (fieldAt bs (64 + 72 * i) 4, fieldAt bs (68 + 72 * i) 4, fieldAt bs (72 + 72 * i) 64)

/-- An image that passes every check of R418 and R419, as the device keeps it. -/
def verifyImage (bs : List Byte) (fused : Nat) : Option ImageInfo :=
  let svn := fieldAt bs 5 1
  let minSvn := fieldAt bs 6 1
  let cert := (bs.drop (fieldAt bs 12 4)).take (fieldAt bs 16 4)
  let sections := (List.range 3).map (fwSection bs)
  let secOk := fun (c : Nat × Nat × Nat) => decide (c.1 + c.2.1 ≤ bs.length) && sha512 ((bs.drop c.1).take c.2.1) == c.2.2
  let signed : Bool := match Config.signerKey cert with
    | some (x, y) => ecdsaOk x y (sha512 (bs.take 892)) (fieldAt bs 892 66) (fieldAt bs 958 66)
    | none => false
  if fieldAt bs 0 4 = 0x4957464B ∧ fieldAt bs 4 1 = 1 ∧ svn ≤ 64 ∧ minSvn ≤ svn ∧ zeroAt bs 7 1 ∧ zeroAt bs 20 44 ∧ zeroAt bs 280 612 ∧
      1024 ≤ bs.length ∧ fieldAt bs 12 4 + fieldAt bs 16 4 ≤ bs.length ∧ sections.all secOk ∧ signed ∧ fused ≤ svn then
    some ⟨svn, minSvn, sha512 bs, fieldAt bs 72 64, fieldAt bs 144 64, fieldAt bs 216 64⟩
  else none

/-- FW_STAGE (R419). -/
def execFwStage (h : CmdHdr) (p : FwStageP) (env : Env) (s : State) : Host.Outcome State Fault Refusal :=
  .next (s.host1 h (.fwStage p) fun s =>
    let ended := fun (s : State) (st : Status) => (s.raiseInt intFw).complete h st
    if 2 ^ 25 < p.length then ended s .badLength
    else match env.read 0 (min p.length 12) with
      | .error f => ended s f.status
      | .ok hd =>
        if fieldAt hd 8 4 ≠ p.length then ended s .badLength
        else match env.read 0 p.length with
          | .error f => ended s f.status
          | .ok bs => match verifyImage bs s.fuses.svn with
            | some i => ended { s with sec := { s.sec with staged := some i } } .done
            | none => ended { s with sec := { s.sec with staged := none } } .accessDenied)

/-- The microcode of every die that is not fenced loaded from the running image and measured, but for dies whose section fails
(R400, R421). -/
def State.loadDies (s : State) (bad : List DieCode) : State :=
  let dies : List DieCode := allBeds.map DieCode.m ++ allDies.map DieCode.c
  dies.foldl (fun s d => if s.fenced d then s
    else if d ∈ bad then s.modDie d fun k => { k with loaded := false, digest := 0 }
    else s.loadDie d) s

/-- The alias key of the image that runs (R401). -/
def State.deriveAlias (s : State) : State := { s with sec := { s.sec with aliasKey := aliasKeyOf s.measured s.sec.locked } }

/-- The SPDM connection and its sessions ended (R404). -/
def Security.hangUp (k : Security) : Security :=
  { k with spdmVersion := false, spdmCaps := false, spdmAlgs := ⟨false, false, false, false⟩, sessions := [] }

/-- The end of an activation: the staged image runs, or the previous one again (R421). -/
def State.activate (s : State) (boots : Bool) (bad : List DieCode) : State :=
  if boots then
    let k := s.sec
    let s : State := { s with sec := { k with activeBank := 1 - k.activeBank, running := k.staged, staged := none, fallback := false } }
    let s := s.deriveAlias.loadDies bad
    let top := (s.sec.running.map fun i => i.minSvn).getD 0
    { s with fuses := { s.fuses with svn := max s.fuses.svn top } }
  else s.deriveAlias.loadDies bad

/-- FW_ACTIVATE (R404, R421): it begins, and ends once the device has booted again. -/
def execFwActivate (h : CmdHdr) (boots : Bool) (tests : TestEnv) (s : State) : Host.Outcome State Fault Refusal :=
  .next (s.hostLong h .fwActivate fun begun s =>
    if begun then
      let s := s.activate boots tests.badCode
      let s := (s.modHost fun i => { i with updating := false }).raiseInt intFw
      s.complete h (if boots then .done else .internalError)
    else if s.sec.staged.isNone then s.complete h .badLength
    else if s.anySealing then s.complete h .deniedSealed
    else if s.running.isSome || s.media.jobs.any (fun j => j.st ≠ .queued) then s.busy h
    else
      let s := (s.modHost fun i => { i with updating := true }).start h .fwActivate
      { s with sec := s.sec.hangUp })

/-! ## Debug lock (R422, R423) -/

/-- The challenge of step 0. -/
def State.challengeBytes (s : State) (nonce : Nat) : List Byte :=
  record 192 [(0, 4, 0x4742444B), (8, 8, s.fuses.serial), (16, 64, nonce), (80, 64, s.measured)]

/-- Whether a response answers a challenge (R423). -/
def responseOk (ch bs : List Byte) : Bool :=
  bs.take 64 == (ch.drop 16).take 64 && zeroAt bs 65 59 &&
  ecdsaOk (Config.fusedKey keyDebugX) (Config.fusedKey keyDebugY) (sha512 (ch ++ (bs.drop 64).take 60)) (fieldAt bs 124 66) (fieldAt bs 190 66)

/-- DEBUG_UNLOCK (R423). RELOCK keeps debug locked until the next cold or fundamental reset (R422). -/
def execDebugUnlock (h : CmdHdr) (p : DebugUnlockP) (env : Env) (s : State) : Host.Outcome State Fault Refusal :=
  .next (s.host1 h (.debugUnlock p) fun s =>
    if s.anySealing then s.complete h .deniedSealed
    else if !p.present then
      if p.length < 192 then s.complete h .badLength
      else
        let (n, s) := s.random
        let bs := s.challengeBytes (n % 2 ^ 512)
        ({ s with sec := { s.sec with challenge := some bs } } : State).report h p.buffer 192 bs
    else
      let ch := s.sec.challenge
      let s : State := { s with sec := { s.sec with challenge := none } }
      if p.length < 256 then s.complete h .badLength
      else match env.read 0 256, ch with
        | .error f, _ => s.complete h f.status
        | .ok _, none => s.complete h .accessDenied
        | .ok bs, some ch =>
          if responseOk ch bs && !s.sec.relocked then
            ({ s with sec := { s.sec with locked := false, scope := fieldAt bs 64 1 % 4 } } : State).complete h .done
          else s.complete h .accessDenied)

/-- RELOCK: a write of 1 to SEC_DEBUG.RELOCK (R422). -/
def execRelock (value : Word32) (s : State) : Host.Outcome State Fault Refusal :=
  .next (if s.regsOpen && bit value.toNat 0 then { s with sec := { s.sec with locked := true, scope := 0, relocked := true } } else s)

end Sys2Proof.Machine
end

