-- ==== Sys2Proof/Machine/Spdm.lean ====
section
/-! DEFINITION. The SPDM responder (R402 to R404) and IDE key management (R424). The message layouts and codes are those of DMTF SPDM 1.3
and PCIe IDE_KM, to which R402 and R424 refer (PRESUMED). -/

namespace Sys2Proof.Machine

open Sys2Proof

/-- An SPDM message: version 1.3, code, two parameters, body. -/
def spdmMsg (code p1 p2 : Nat) (body : List Byte) : List Byte := leBytes 1 0x13 ++ leBytes 1 code ++ leBytes 1 p1 ++ leBytes 1 p2 ++ body

/-- Codes of ERROR. -/
def errInvalid : Nat := 0x01
def errSession : Nat := 0x02
def errBusy : Nat := 0x03
def errUnexpected : Nat := 0x04
def errDecrypt : Nat := 0x06
def errUnsupported : Nat := 0x07

def State.spdmError (s : State) (code : Nat) : State := s.send (.spdm (spdmMsg 0x7F code 0 []))

/-- Whether the DOE mailbox is reachable (R341, R402, R462). -/
def State.spdmOpen (s : State) : Bool :=
  s.host.configReady && s.clk.booted && s.clk.linkUp && !s.clk.inReset && !s.clk.tripped && !s.dbg.frozen

/-- A request: nothing answers while the mailbox cannot be reached, ERROR Busy answers during an activation (R404), and ERROR
UnexpectedRequest where the negotiation has not come so far. -/
def State.spdm (s : State) (ready : Bool) (body : State → State) : Host.Outcome State Fault Refusal :=
  .next (if !s.spdmOpen then s
  else if s.host.updating then s.spdmError errBusy
  else if !ready then s.spdmError errUnexpected
  else body s)

/-- A message with the alias key's signature over what SPDM has signed: the transcript and the message (R402). -/
def State.spdmSigned (s : State) (code : Nat) (inputs : List Nat) (msg : List Byte) : List Byte :=
  let (r, v) := ecdsaSign s.sec.aliasKey (sha512 (Config.spdmBody code inputs ++ msg))
  msg ++ (leBytes 66 r).reverse ++ (leBytes 66 v).reverse

def Security.session? (k : Security) (id : Nat) : Option Session := k.sessions.find? fun t => t.id == id

/-- Whether the negotiation is over. -/
def Security.negotiated (k : Security) : Bool := k.spdmAlgs.ecdsaP521 || k.spdmAlgs.sha512 || k.spdmAlgs.dheSecp521 || k.spdmAlgs.aesGcm256
def Security.canSign (k : Security) : Bool := k.spdmAlgs.ecdsaP521 && k.spdmAlgs.sha512

/-! ## The connection -/

/-- GET_VERSION: version 1.3 only. -/
def execGetVersion (s : State) : Host.Outcome State Fault Refusal :=
  s.spdm true fun s =>
    let s : State := { s with sec := { s.sec with spdmVersion := true, spdmCaps := false, spdmAlgs := ⟨false, false, false, false⟩ } }
    s.send (.spdm (leBytes 1 0x10 ++ leBytes 1 0x04 ++ zeros 3 ++ leBytes 1 1 ++ leBytes 2 0x1300))

/-- GET_CAPABILITIES. -/
def execGetCapabilities (s : State) : Host.Outcome State Fault Refusal :=
  s.spdm s.sec.spdmVersion fun s =>
    ({ s with sec := { s.sec with spdmCaps := true } } : State).send (.spdm (spdmMsg 0x61 0 0 (Config.spdmBody 0x61 [])))

/-- NEGOTIATE_ALGORITHMS: those of R402; ERROR UnsupportedRequest where the requester offers none of them. -/
def execNegotiateAlgorithms (offer : SpdmAlgs) (s : State) : Host.Outcome State Fault Refusal :=
  s.spdm (s.sec.spdmVersion && s.sec.spdmCaps) fun s =>
    if offer.ecdsaP521 || offer.sha512 || offer.dheSecp521 || offer.aesGcm256 then
      let body := Config.spdmBody 0x63 [bitOf offer.ecdsaP521, bitOf offer.sha512, bitOf offer.dheSecp521, bitOf offer.aesGcm256]
      ({ s with sec := { s.sec with spdmAlgs := offer } } : State).send (.spdm (spdmMsg 0x63 0 0 body))
    else s.spdmError errUnsupported

/-! ## Identity -/

/-- The certificate chain of slot 0 (R399): root, intermediate, DeviceID and the alias certificate with M, the running SVN and c. -/
def State.certChain (s : State) : List Byte :=
  let (x, y) := ecdhPublic s.sec.aliasKey
  let aliasCert := Config.spdmBody 0x100 [x, y, s.measured, (s.sec.running.map fun i => i.svn).getD 0, bitOf s.sec.locked]
  let certs := Config.derBytes 0 ++ Config.derBytes 1 ++ Config.derBytes 2 ++ aliasCert
  leBytes 2 (68 + certs.length) ++ zeros 2 ++ leBytes 64 (sha512 (Config.derBytes 0)) ++ certs

/-- GET_DIGESTS: slot 0 alone is provisioned. -/
def execGetDigests (s : State) : Host.Outcome State Fault Refusal :=
  s.spdm s.sec.negotiated fun s => s.send (.spdm (spdmMsg 0x01 0 1 (leBytes 64 (sha512 s.certChain))))

/-- GET_CERTIFICATE: a portion of the chain of slot 0. -/
def execGetCertificate (slot off len : Nat) (s : State) : Host.Outcome State Fault Refusal :=
  s.spdm s.sec.negotiated fun s =>
    if slot ≠ 0 ∨ s.certChain.length ≤ off then s.spdmError errInvalid
    else
      let bs := (s.certChain.drop off).take (min len 0xFFFF)
      s.send (.spdm (spdmMsg 0x02 0 0 (leBytes 2 bs.length ++ leBytes 2 (s.certChain.length - off - bs.length) ++ bs)))

/-- CHALLENGE: CHALLENGE_AUTH signed with the alias key. -/
def execChallenge (slot nonce : Nat) (s : State) : Host.Outcome State Fault Refusal :=
  s.spdm s.sec.canSign fun s =>
    if slot ≠ 0 then s.spdmError errInvalid
    else
      let (r, s) := s.random
      let body := leBytes 64 (sha512 s.certChain) ++ leBytes 32 r ++ leBytes 2 0
      s.send (.spdm (s.spdmSigned 0x83 [nonce] (spdmMsg 0x03 0 1 body)))

/-! ## Measurements (R403) -/

/-- The value type of an index: digests of the ROM, of firmware and of the staged image; raw bit streams of the hardware. -/
def measurementType (i : Nat) : Nat := if i = 1 then 0 else if i ≤ 4 then 1 else if i = 6 then 3 else 0x82

/-- A measurement block. -/
def measurementBlock (i : Nat) (v : List Byte) : List Byte :=
  leBytes 1 i ++ leBytes 1 1 ++ leBytes 2 (v.length + 3) ++ leBytes 1 (measurementType i) ++ leBytes 2 v.length ++ v

/-- GET_MEASUREMENTS: index 0 counts the blocks, 0xFF asks for all of them. -/
def execGetMeasurements (index : Nat) (signed : Bool) (nonce : Nat) (s : State) : Host.Outcome State Fault Refusal :=
  s.spdm (if signed then s.sec.canSign else s.sec.negotiated) fun s =>
    let wanted := if index = 0xFF then measurementIndices else if index = 0 then [] else [index]
    let blocks := wanted.filterMap fun i => (s.measurement i).map (measurementBlock i)
    if blocks.length ≠ wanted.length then s.spdmError errInvalid
    else
      let (r, s) := s.random
      let body := leBytes 1 blocks.length ++ leBytes 3 blocks.flatten.length ++ blocks.flatten ++ leBytes 32 r ++ leBytes 2 0
      let msg := spdmMsg 0x60 (if index = 0 then measurementIndices.length else 0) 0 body
      s.send (.spdm (if signed then s.spdmSigned 0xE0 [index, nonce] msg else msg))

/-! ## Sessions -/

/-- KEY_EXCHANGE: a session with a fresh secp521r1 key, signed with the alias key. -/
def execKeyExchange (slot pubX pubY : Nat) (s : State) : Host.Outcome State Fault Refusal :=
  s.spdm (s.sec.canSign && s.sec.spdmAlgs.dheSecp521 && s.sec.spdmAlgs.aesGcm256) fun s =>
    if slot ≠ 0 ∨ !onP521 pubX pubY then s.spdmError errInvalid
    else
      let (k, s) := s.random
      let k := k % (p521N - 1) + 1
      let (x, y) := ecdhPublic k
      let id := s.sec.nextSession
      let t : Session := ⟨id, false, ecdhShared k pubX pubY, 0⟩
      let s : State := { s with sec := { s.sec with sessions := s.sec.sessions ++ [t], nextSession := id + 1 } }
      s.send (.spdm (s.spdmSigned 0xE4 [pubX, pubY] (spdmMsg 0x64 0 0 (Config.spdmBody 0x64 [id, x, y]))))

/-- A change of one session. -/
def State.modSession (s : State) (id : Nat) (f : Session → Session) : State :=
  { s with sec := { s.sec with sessions := s.sec.sessions.map fun t => if t.id = id then f t else t } }
def State.dropSession (s : State) (id : Nat) : State :=
  { s with sec := { s.sec with sessions := s.sec.sessions.filter fun t => t.id ≠ id } }

/-- A request inside an established session. -/
def State.inSession (s : State) (id : Nat) (body : State → Session → State) : Host.Outcome State Fault Refusal :=
  s.spdm s.sec.negotiated fun s => match s.sec.session? id with
    | some t => if t.established then body s t else s.spdmError errUnexpected
    | none => s.spdmError errSession

/-- FINISH: the handshake completes where the requester's verify data holds. -/
def execFinish (session : Nat) (verifyOk : Bool) (s : State) : Host.Outcome State Fault Refusal :=
  s.spdm s.sec.negotiated fun s => match s.sec.session? session with
    | none => s.spdmError errSession
    | some t =>
      if t.established then s.spdmError errUnexpected
      else if verifyOk then (s.modSession session fun t => { t with established := true }).send (.spdm (spdmMsg 0x65 0 0 (Config.spdmBody 0x65 [session])))
      else (s.dropSession session).spdmError errDecrypt

/-- HEARTBEAT. -/
def execHeartbeat (session : Nat) (s : State) : Host.Outcome State Fault Refusal :=
  s.inSession session fun s _ => s.send (.spdm (spdmMsg 0x68 0 0 []))

/-- KEY_UPDATE: the session's keys of the next epoch. -/
def execKeyUpdate (session : Nat) (s : State) : Host.Outcome State Fault Refusal :=
  s.inSession session fun s _ => (s.modSession session fun t => { t with keyEpoch := t.keyEpoch + 1 }).send (.spdm (spdmMsg 0x69 0 0 []))

/-- END_SESSION. -/
def execEndSession (session : Nat) (s : State) : Host.Outcome State Fault Refusal :=
  s.inSession session fun s _ => (s.dropSession session).send (.spdm (spdmMsg 0x6C 0 0 []))

/-! ## IDE_KM (R340, R424) -/

/-- The IDE streams with one changed, or a new one where fewer than 8 are in use. -/
def modStream (id : Nat) (f : IdeStream → IdeStream) (l : List IdeStream) : List IdeStream :=
  if l.any fun t => t.id == id then l.map fun t => if t.id = id then f t else t
  else if l.length < 8 then l ++ [f ⟨id, [], 0, 0, 0, 0, none⟩] else l

/-- Whether a key set of a stream has a key in each direction. -/
def IdeStream.complete (t : IdeStream) (set : Bool) : Bool :=
  [false, true].all fun d => t.keys.any fun k => k.1 == set && k.2.1 == d

/-- What an IDE_KM message does to the streams. -/
def ideKm (m : IdeKm) (l : List IdeStream) : List IdeStream :=
  match m with
  | .query => l
  | .keyProg id set dir key => modStream id (fun t => { t with keys := (t.keys.filter fun k => k.1 ≠ set || k.2.1 ≠ dir) ++ [(set, dir, key)] }) l
  | .assoc id ridLo ridHi lo hi => modStream id (fun t => { t with ridLo := ridLo, ridHi := ridHi, addrLo := lo, addrHi := hi }) l
  | .setGo id set => l.map fun t => if t.id = id && t.complete set then { t with active := some set } else t
  | .setStop id => l.map fun t => if t.id = id then { t with active := none } else t

/-- The IDE_KM object that answers a message, and the numbers of its payload. -/
def ideReply (m : IdeKm) : Nat × List Nat :=
  match m with
  | .query => (0x01, [])
  | .keyProg id set dir _ => (0x03, [id, bitOf set, bitOf dir])
  | .assoc id .. => (0x04, [id])
  | .setGo id set => (0x06, [id, bitOf set])
  | .setStop id => (0x06, [id])

/-- VENDOR_DEFINED_REQUEST carrying IDE_KM in a secured session. -/
def execVendorDefinedRequest (session : Nat) (msg : IdeKm) (s : State) : Host.Outcome State Fault Refusal :=
  s.inSession session fun s _ =>
    let s : State := { s with sec := { s.sec with ide := ideKm msg s.sec.ide } }
    s.send (.spdm (spdmMsg 0x7E 0 0 (Config.spdmBody 0x7E ((ideReply msg).1 :: (ideReply msg).2))))

end Sys2Proof.Machine
end

