-- ==== Sys2Proof/Machine/DebugUnit.lean ====
section
/-! DEFINITION. The debug block: latches (R457 to R459), freeze, read-out and thaw (R417, R460 to R465), and snapshot copies (R467). -/

namespace Sys2Proof

/-- The number of a freeze source (R468). -/
def FreezeSrc.code : FreezeSrc → Nat
  | .pin => 1 | .register => 2 | .jtag => 3

/-- The bytes of a region of the read-out map (R463). -/
def Region.size : Region → Nat
  | .header => 4096
  | .slice _ => 2 ^ 26
  | .plates _ => 2 ^ 23
  | .coreState _ => 2 ^ 18
  | .bedState _ => 2 ^ 24
  | .mediaState _ => 2 ^ 22
  | .easel => 2 ^ 22

/-- The code of a region (R463). -/
def Region.code : Region → Nat
  | .header => 0
  | .slice d => 0x01 + d.val
  | .plates d => 0x11 + d.val
  | .coreState d => 0x21 + d.val
  | .bedState b => 0x31 + b.val
  | .mediaState m => 0x35 + m.val
  | .easel => 0x39

end Sys2Proof

namespace Sys2Proof.Machine

open Sys2Proof

/-! ## Latches -/

/-- The statistics of a bed with its tags in use (R459). -/
def Bed.statsNow (b : Bed) : BedStats := { b.stats with inUse := b.tags.length, peak := max b.stats.peak b.tags.length }

/-- LATCH: every counter and statistic copied into the shadows (R457). -/
def State.latchCounters (s : State) : State :=
  let sh : Shadow := ⟨s.cores.map fun k => k.ctr, s.beds.map Bed.statsNow, s.fabric.links⟩
  { s with dbg := { s.dbg with shadow := sh, latchSeq := (s.dbg.latchSeq + 1) % 2 ^ 32 } }

def BedStats.noPeak (b : BedStats) : BedStats := { b with peak := 0, unschedPeak := 0 }

/-- CLEAR_PEAK: the peaks of every bed, as counted and as latched (R468). -/
def State.clearPeaks (s : State) : State :=
  let sh := { s.dbg.shadow with beds := s.dbg.shadow.beds.map BedStats.noPeak }
  { s with beds := s.beds.map fun b => { b with stats := b.stats.noPeak }, dbg := { s.dbg with shadow := sh } }

/-- LATCH. -/
def execLatch (s : State) : Host.Outcome State Fault Refusal := .next (if s.regsOpen then s.latchCounters else s)

/-- CLEAR_PEAK. -/
def execClearPeak (s : State) : Host.Outcome State Fault Refusal := .next (if s.regsOpen then s.clearPeaks else s)

/-- A write of HIST_SEL, which clears the bed's histogram (R459). -/
def State.setHist (s : State) (b : BedId) (v : Nat) : State :=
  let clear := fun (k : BedStats) => { k with hist := List.replicate 16 0 }
  let sh := { s.dbg.shadow with beds := vmod s.dbg.shadow.beds b clear }
  let s := s.modBed b fun k => { k with histSel := v % 2 ^ 9, stats := clear k.stats }
  { s with dbg := { s.dbg with shadow := sh } }

/-- HIST_SEL. -/
def execHistSel (bed : BedId) (value : Word32) (s : State) : Host.Outcome State Fault Refusal :=
  .next (if s.regsOpen then s.setHist bed value.toNat else s)

/-! ## Freeze and thaw -/

/-- A freeze begins; a request before CONFIG_READY, during a reset, during a freeze or in debug mode has no effect (R460, R461). -/
def State.freeze (s : State) (src : FreezeSrc) : State :=
  if !s.host.configReady || s.clk.inReset || s.clk.tripped || s.dbg.frozen || s.dbg.debugMode then s
  else
    let held := s.i3cLive
    let s := s.stamp
    { s with dbg := { s.dbg with frozen := true, source := src.code, frozenAt := s.timeNs, held := held } }

/-- FREEZE_REQ. A write of the register is dropped while a warm reset keeps BAR 0 closed (R486). -/
def execFreezeReq (src : FreezeSrc) (s : State) : Host.Outcome State Fault Refusal :=
  .next (if src = .register ∧ !s.regsOpen then s else s.freeze src)

/-- A context destroyed although it may run: its cores stop and the slices are zeroed where it is sealed (R414, R417, R487). -/
def State.destroyCtx (s : State) (n : CtxId) : State :=
  if s.running = some n then
    let sealed_ := (s.ctxD n).sealing.isSome
    let s : State := { s with running := none, slices := if sealed_ then s.slices.map fun _ => Slice.reset else s.slices.map fun k => { k with wet := [] } }
    (s.mapCores fun _ k => k.idle).removeCtx n
  else s.removeCtx n

/-- A freeze ends in debug mode: sealed contexts are destroyed and the running context is faulted (R465). -/
def State.thaw (s : State) : State :=
  if !s.dbg.frozen then s
  else
    let s : State := { s with dbg := { s.dbg with frozen := false, debugMode := true } }
    let s := (s.ctxs.filter fun e => e.2.sealing.isSome).foldl (fun s e => s.destroyCtx e.1) s
    match s.running with
    | some n => s.modCtx n fun x => { x with faulted := true }
    | none => s

/-- THAW, by the register or by JTAG (R465). -/
def execThaw (src : FreezeSrc) (s : State) : Host.Outcome State Fault Refusal := .next (if src = .pin then s else s.thaw)

/-! ## Read-out (R463, R464) -/

/-- Whether the running context is sealing or sealed. -/
def State.runSealed (s : State) : Bool := (s.runCtx.map fun e => e.2.sealing.isSome).getD false

/-- Byte `o` of a word list read by `w`. -/
def wordByte (w : Nat → Nat) (o : Nat) : Byte := BitVec.ofNat 8 (w (o / 4 * 4) / 2 ^ (8 * (o % 4)))

/-- A byte of a region. Private layouts are free; data of a sealed context and fenced dies read 0. -/
def State.regionByte (s : State) (r : Region) (o : Nat) : Byte :=
  match r with
  | .header => Config.privateByte 0 o
  | .slice d => if s.fenced (.c d) || s.runSealed then 0 else sget 0 (s.slice d).mem o
  | .plates d =>
    if s.fenced (.c d) || s.runSealed then 0
    else
      let k : Fin 4 := ⟨o / 2 ^ 21 % 4, by omega⟩
      wordByte (fun a => (sget 0 (s.core (coreOf d k)).plates (a % 2 ^ 21 / 4)).toNat) o
  | .coreState d =>
    if s.fenced (.c d) then 0
    else if o < 65536 then wordByte (s.windowOf (fun c => (s.core c).ctr) d) o
    else Config.privateByte r.code o
  | .bedState b => if s.fenced (.b b) then 0 else Config.privateByte r.code o
  | .mediaState m => if s.fenced (.m m) then 0 else Config.privateByte r.code o
  | .easel =>
    let log := s.log.recs.flatMap fun e => e.header ++ e.body.flatten
    if o < log.length then log.getD o 0 else Config.privateByte r.code o

/-- READOUT: bytes of a region, while frozen. -/
def execReadout (region : Region) (off len : Nat) (s : State) : Host.Outcome State Fault Refusal :=
  .next (if !s.dbg.frozen then s
  else s.send (.readoutBytes ((List.range (min len (region.size - off))).map fun i => s.regionByte region (off + i))))

/-! ## Snapshot copies (R467) -/

/-- DBG_COPY_GO. -/
def execDbgCopyGo (value : Word32) (s : State) : Host.Outcome State Fault Refusal :=
  .next (if s.regsOpen && bit value.toNat 0 && !s.dbg.copyBusy then { s with dbg := { s.dbg with copyBusy := true } } else s)

/-- The first page that a snapshot copy cannot write, looking once in every 64 KiB. -/
def State.copyBlocked (s : State) (n : CtxId) (v len : Nat) : Bool :=
  (v :: ((List.range (len / 65536 + 2)).map fun i => (v / 65536 + 1 + i) * 65536).filter fun a => a < v + len).any fun a =>
    match s.xlate n a .write with
    | .ok (.hbm _ _) => false
    | _ => true

/-- The bytes of the eight plates of a core (R467). -/
def Core.plateBytes (k : Core) : List Byte := (List.range 524288).flatMap fun i => leBytes 4 (sget 0 k.plates i).toNat

/-- The status of a snapshot copy and the state after it. -/
def State.snapshot (s : State) : Status × State :=
  let d := s.dbg
  let die : DieId := ⟨d.copySrc % 16, by omega⟩
  let core := coreOf die ⟨field d.copySrc 4 2 % 4, by omega⟩
  let plates := bit d.copySrc 6
  let len := if plates then 2 ^ 21 else d.copyLen
  match s.runCtx with
  | none => (.badContext, s)
  | some (n, x) =>
    if !(List.finRange 4).any fun k => (s.core (coreOf die k)).stopped then (.badContext, s)
    else if plates && !(s.core core).stopped then (.badContext, s)
    else if x.sealing.isSome then (.deniedSealed, s)
    else if (!plates && (len = 0 || len % 64 ≠ 0 || d.copyOff % 64 ≠ 0 || 2 ^ 26 < d.copyOff + len)) || d.copyDst % 64 ≠ 0 then (.badLength, s)
    else if s.copyBlocked n d.copyDst len then (.pageFault, s.modHbm fun h => { h with pageFaults := satAt 0xFFFF (h.pageFaults + 1) })
    else
      let bs := if plates then (s.core core).plateBytes else readBytes (s.slice die).mem d.copyOff len
      match (⟨s, [], 0, 0, false⟩ : Moving).put n d.copyDst bs with
      | (m, some t) => (t.status, m.s)
      | (m, none) => (.done, m.s)

/-- SNAPSHOT_COPY_END: the copy of the registers' range is done, and its status is set. -/
def execSnapshotCopyEnd (s : State) : Host.Outcome State Fault Refusal :=
  .next (if !s.dbg.copyBusy || !s.clk.booted || s.clk.inReset || s.clk.warming || s.clk.tripped || s.dbg.frozen then s
  else
    let (st, s) := s.snapshot
    { s with dbg := { s.dbg with copyBusy := false, copyDone := true, copyStatus := st.code } })

end Sys2Proof.Machine
end

