-- ==== Sys2Proof/Machine/Power.lean ====
section
/-! DEFINITION. Power, telemetry and temperature (R469 to R479, R489, R497, R505), and clocks, resets and start-up (R236, R341, R439,
R441, R481 to R490). -/

namespace Sys2Proof

/-- The place of a rail in the order C0 to C7, B0 to B3, M0 to M3, E, and its AVSBus range in mV (R469). -/
def Rail.index : Rail → Fin 17
  | .c k => ⟨k.val, by have := k.isLt; omega⟩
  | .b n => ⟨8 + n.val, by have := n.isLt; omega⟩
  | .m n => ⟨12 + n.val, by have := n.isLt; omega⟩
  | .e => 16
def Rail.range : Rail → Nat × Nat
  | .c _ => (650, 850)
  | _ => (720, 880)

/-- Every rail that the power manager trims (R471). -/
def allRails : List Rail := (List.finRange 8).map Rail.c ++ (List.finRange 4).map Rail.b ++ (List.finRange 4).map Rail.m ++ [Rail.e]

/-- The dies that a feed supplies (R441, R469); EAS supplies the easel die. -/
def Feed.dies : Feed → List DieCode
  | .f k => [.c ⟨2 * k.val, by have := k.isLt; omega⟩, .c ⟨2 * k.val + 1, by have := k.isLt; omega⟩]
  | .bed n => [.b n]
  | .med n => [.m n]
  | .eas => []

end Sys2Proof

namespace Sys2Proof.Machine

open Sys2Proof

/-! ## Commands and telemetry -/

/-- POWER_POLICY (R475, R477): with lending disabled no core lends or waits for its share. -/
def execPowerPolicy (h : CmdHdr) (p : PowerPolicyP) (s : State) : Host.Outcome State Fault Refusal :=
  .next (s.host1 h (.powerPolicy p) fun s =>
    if p.limit < 500 ∨ 2000 < p.limit then s.complete h .badLength
    else
      let s : State := { s with pw := { s.pw with limitW := p.limit, lend := p.lend } }
      let s := if p.lend then s else s.mapCores fun _ k => { k with pw := { k.pw with lending := false, reclaiming := false } }
      s.complete h .done)

/-- TEL_CTL.LATCH: the snapshot; the peaks start again from the temperatures of now (R489). -/
def State.latchTele (s : State) : State :=
  let (t, peak, ration) := s.liveTelemetry
  { s with pw := { s.pw with snap := t, snapPeak := peak, snapRation := ration, telSeq := (s.pw.telSeq + 1) % 2 ^ 32, fresh := true },
           dies := s.dies.map fun d => { d with peak := d.temp } }

/-- TELEMETRY_READ (R489). -/
def execTelemetryRead (h : CmdHdr) (p : TelemetryReadP) (s : State) : Host.Outcome State Fault Refusal :=
  .next (s.host1 h (.telemetryRead p) fun s =>
    let s := if p.latch then s.latchTele else s
    s.report h p.buffer p.length s.teleImage)

/-- TEL_LATCH. -/
def execTelLatch (value : Word32) (s : State) : Host.Outcome State Fault Refusal :=
  .next (if s.regsOpen && bit value.toNat 0 then s.latchTele else s)

/-- Whether BAR 0 answers a read with Unsupported Request: during a freeze and during a warm reset (R462, R486). -/
def State.readsClosed (s : State) : Bool := s.dbg.frozen || s.clk.warming

/-- TEL_SEQ_READ: the value, with FRESH cleared. -/
def execTelSeqRead (s : State) : Host.Outcome State Fault Refusal :=
  .next (if !s.host.configReady || s.clk.inReset || s.clk.tripped then s
  else if s.readsClosed then s.send (.unsupported 0)
  else ({ s with pw := { s.pw with fresh := false } } : State).send (.readReply 0 (leBytes 4 s.pw.telSeq)))

/-- The telemetry image of the I3C port: as it stood at the freeze while frozen or in debug mode (R497). -/
def State.i3cImage (s : State) : List Byte := if s.dbg.frozen || s.dbg.debugMode then s.dbg.held else s.i3cLive

/-- I3C_TELEMETRY_READ: bytes of the image from an offset. -/
def execI3cTelemetryRead (off len : Nat) (s : State) : Host.Outcome State Fault Refusal :=
  .next (if s.clk.inReset || s.clk.inert || s.clk.tripped then s else s.send (.i3cBytes ((s.i3cImage.drop off).take len)))

/-! ## Temperatures -/

/-- Entry `i` of a list of `n` numbers set. -/
def setNth (n i v : Nat) (l : List Nat) : List Nat := (List.range n).map fun j => if j = i then v else nthD 0 l j

/-- A sensor's new value, in the registers that show it (R489). -/
def State.setTemp (s : State) (t : TempSrc) (degC : Nat) : State :=
  match t with
  | .die d =>
    let s := s.modDie d fun k => { k with temp := degC, peak := max k.peak degC }
    { s with pw := { s.pw with tele := { s.pw.tele with dieTemp := setNth 24 d.num.val degC s.pw.tele.dieTemp } } }
  | .easel => { s with pw := { s.pw with easelTemp := degC, tele := { s.pw.tele with easelTemp := degC } } }
  | .stack n => { s with pw := { s.pw with stackTemp := s.pw.stackTemp.set n.val degC n.isLt,
                                            tele := { s.pw.tele with hbmTemp := setNth 12 n.val degC s.pw.tele.hbmTemp } } }

/-- Whether the sensors run: power is there and no reset is asserted (R505). -/
def State.sensing (s : State) : Bool := !s.clk.inReset && !s.clk.inert && !s.clk.tripped

/-- The temperatures of the stacks of a bed. -/
def State.bedTemps (s : State) (b : BedId) : List Nat := (List.finRange 3).map fun i => s.pw.stackTemp.get ⟨3 * b.val + i.val, by have := b.isLt; have := i.isLt; omega⟩

/-- One interval boundary of a compute die's thermal reduction: one sixteenth more while the die is above TEMP_LIMIT or a stack of its
bed above 95 °C, one less once all are 2 °C below (R479, R505). -/
def State.rationDie (s : State) (d : DieId) : State :=
  let k := s.die (.c d)
  let hot3 := s.bedTemps d.bed
  let tooHot := decide (s.pw.tempLimit < k.temp) || hot3.any fun t => decide (95 < t)
  let cool := decide (k.temp + 2 ≤ s.pw.tempLimit) && hot3.all fun t => decide (t ≤ 93)
  let step := fun (n : Nat) => if tooHot then min 15 (n + 1) else if cool then n - 1 else n
  let s := s.modDie (.c d) fun k => { k with reduce := step k.reduce, hot := tooHot || (k.hot && !cool) }
  let move := fun (a : Nat) => if tooHot then max 1 (a - 1) else if cool && k.reduce ≠ 0 then min 16 (a + 1) else a
  let s := s.mapCores fun c k => if c.die = d then
    let k := k.bankWaits s.timeNs true
    { k with pw := { k.pw with allowance := move k.pw.allowance } } else k
  { s with pw := { s.pw with thermal := s.pw.thermal || decide ((s.die (.c d)).reduce ≠ 0) } }

/-- THERMAL_RATION. -/
def execThermalRation (die : DieId) (degC : Nat) (s : State) : Host.Outcome State Fault Refusal :=
  .next (if s.sensing && s.clk.booted && !s.dbg.frozen then (s.setTemp (.die (.c die)) degC).rationDie die else s)

/-- STACK_OVERTEMP: above 95 °C the bed's compute dies are rationed; the refresh rate follows the temperature. -/
def execStackOvertemp (stack : Fin 12) (degC : Nat) (s : State) : Host.Outcome State Fault Refusal :=
  .next (if s.sensing && s.clk.booted then
    let s := s.setTemp (.stack stack) degC
    if s.dbg.frozen then s
    else (DieCode.computes (.b ⟨stack.val / 3, by have := stack.isLt; omega⟩)).foldl (fun s d => s.rationDie d) s
  else s)

/-- ALERT_N low while a logic junction that reached 110 °C has not fallen below 105 °C, or from a class F fault on (R505). -/
def State.setAlert (s : State) : State :=
  { s with pins := { s.pins with alert := s.clk.halted || s.pw.easelAlert || s.dies.toList.any fun d => d.alert } }

/-- Whether a junction alerts after a new temperature. -/
def alertAt (was : Bool) (degC : Nat) : Bool := decide (110 ≤ degC) || (was && decide (105 ≤ degC))

/-- ALERT_N. -/
def execAlertN (src : TempSrc) (degC : Nat) (s : State) : Host.Outcome State Fault Refusal :=
  .next (if s.sensing then
    let s := s.setTemp src degC
    match src with
    | .die d => (s.modDie d fun k => { k with alert := alertAt k.alert degC }).setAlert
    | .easel => ({ s with pw := { s.pw with easelAlert := alertAt s.pw.easelAlert degC } } : State).setAlert
    | .stack _ => s
  else s)

/-- THERMAL_TRIP: at 115 °C of a junction or 105 °C of a stack, a class F fault with THERMTRIP_N, and every clock stops. -/
def execThermalTrip (src : TempSrc) (degC : Nat) (s : State) : Host.Outcome State Fault Refusal :=
  .next (if s.sensing then
    let s := s.setTemp src degC
    let top := match src with
      | .stack _ => 105
      | _ => 115
    if degC < top then s
    else
      let s := s.classF 0x0D
      { s with pins := ⟨true, true⟩, clk := { s.clk with tripped := true, halted := true } }
  else s)

/-! ## The power manager -/

/-- Whether the power manager runs. -/
def State.managing (s : State) : Bool := s.clk.booted && !s.clk.inReset && !s.clk.tripped && !s.dbg.frozen

/-- AVS_TRIM: one step of 5 mV within the rail's range; a transaction and three retries that fail leave the rail (R471). -/
def execAvsTrim (rail : Rail) (up : Bool) (failures : Nat) (s : State) : Host.Outcome State Fault Refusal :=
  .next (if !s.managing then s
  else if 4 ≤ failures then { s with pw := { s.pw with avsErr := true } }
  else
    let (lo, hi) := rail.range
    let now := s.pw.railMv.get rail.index
    let mv := if up then (if now + 5 ≤ hi then now + 5 else now) else if lo + 5 ≤ now then now - 5 else now
    if mv = now then s
    else ({ s with pw := { s.pw with railMv := s.pw.railMv.set rail.index.val mv rail.index.isLt } } : State).send (.avs rail mv))

/-- POWER_MEASURE: the telemetry of the last 1 ms, the mean allowances, and coefficients corrected by a rule that is not published
(R475, R489). -/
def execPowerMeasure (t : Telemetry) (s : State) : Host.Outcome State Fault Refusal :=
  .next (if !s.managing then s
  else
    let (n, s) := s.draw
    let die := fun (i : Fin 24) =>
      let k := s.dies.get i
      let v := nthD k.temp t.dieTemp i.val
      { k with temp := v, peak := max k.peak v, ration := if k.rationCount = 0 then k.ration else 16 * k.rationSum / k.rationCount,
               rationSum := 0, rationCount := 0 }
    { s with dies := Vector.ofFn die,
             pw := { s.pw with tele := t, coefficient := n, easelTemp := t.easelTemp, stackTemp := Vector.ofFn fun i => nthD (s.pw.stackTemp.get i) t.hbmTemp i.val } })

/-- Whether a core counts as computing at an interval boundary: its program runs on it and it does not lend (R477). -/
def State.computing (s : State) (c : CoreId) : Bool :=
  (match s.runCtx with
   | some (_, x) => x.program && inMap x.coreMap c && !s.fenced (.c c.die)
   | none => false) && !(s.core c).pw.lending

/-- The allowance of the `i`-th of `n` computing cores when `t` sixteenths are shared and the left-over ones start at `r` (R477, R478). -/
def shareOf (n t r i : Nat) : Nat := if t < n then 1 else t / n + if (i + n - r % n) % n < t % n then 1 else 0

/-- C-cycles of a control interval (R475). -/
def intervalCycles : Nat := 5625

/-- A reclaiming core at an interval boundary: the cycles for which it has been frozen count as POWER_RATION (R202, R455): a part of
an interval, a free value, at the first boundary after its request, and a whole interval at the second. -/
def Core.frozenSince (k : Core) (i : Nat) : Core :=
  if !k.pw.reclaiming then k
  else { k with ctr := k.ctr.charge 9 (if k.pw.lending then 1 + Config.freeNat i % intervalCycles else intervalCycles) }

/-- Whether a reclaiming core of the running program still waits for its first boundary. -/
def State.asking (s : State) (c : CoreId) : Bool :=
  (match s.runCtx with
   | some (_, x) => x.program && inMap x.coreMap c && !s.fenced (.c c.die)
   | none => false) && (s.core c).pw.lending && (s.core c).pw.reclaiming

/-- The allowances of an interval for the cores `cs`, which share `t` sixteenths; thermal reductions come off them. -/
def State.setAllowances (s : State) (cs : List CoreId) (t : Nat) : State :=
  let give := cs.zipIdx.map fun e => (e.1, max 1 (shareOf cs.length t s.pw.rotate e.2 - (s.die (.c e.1.die)).reduce))
  let draws := allCores.any fun c => (s.core c).pw.reclaiming
  let s := s.mapCores fun c k =>
    let k := (k.frozenSince (s.tick + c.val)).bankWaits s.timeNs true
    match assoc? c give with
    | some a => { k with pw := { k.pw with allowance := a, lending := false, reclaiming := false, blockPos := if a = k.pw.allowance then k.pw.blockPos else 0 } }
    | none => { k with pw := if k.pw.lending && k.pw.reclaiming then { k.pw with lending := false }
                             else if k.pw.lending then { k.pw with allowance := 16, blockPos := 0 } else k.pw }
  let add := fun (i : Fin 24) =>
    let mine := give.filter fun e => e.1.die.val == i.val
    { s.dies.get i with rationSum := (s.dies.get i).rationSum + (mine.map fun e => e.2).sum, rationCount := (s.dies.get i).rationCount + mine.length }
  { s with dies := Vector.ofFn add, pw := { s.pw with rotate := s.pw.rotate + 1 },
           tick := if draws then s.tick + 64 else s.tick }

/-- CONTROL_INTERVAL: the compute budget is what the other blocks leave of the limit; a core at full rate takes `unitMw` (R475 to R479).
A core whose reclaim has waited one interval computes again; at its first boundary already where the pool has room for every
computing core at full rate and for it (R202, R477). -/
def execControlInterval (otherMw unitMw : Nat) (s : State) : Host.Outcome State Fault Refusal :=
  .next (if !s.managing then s
  else
    let budget := s.pw.limitW * 1000 - otherMw
    let wish := allCores.filter fun c => s.computing c || s.asking c
    let cs := if unitMw = 0 ∨ 16 * wish.length ≤ budget * 16 / unitMw then wish else allCores.filter s.computing
    let t := if unitMw = 0 then 16 * cs.length else min (16 * cs.length) (budget * 16 / unitMw)
    let s := s.setAllowances cs t
    if t < cs.length then { s with pw := { s.pw with limitUnmet := true } } else s)

/-! ## Resets -/

/-- The state after a cold reset is asserted, with what outlives it: the fuses, the outside world and the waiting commands (R484). -/
def State.afterCold (s : State) : State :=
  { State.reset with pending := s.pending, tick := s.tick, out := s.out, fuses := s.fuses, sec := { Security.reset s.fuses with drbg := s.sec.drbg } }

/-- COLD_RESET. -/
def execColdReset (s : State) : Host.Outcome State Fault Refusal := .next s.afterCold

/-- The fault log over a reset that keeps it (R433, R484); the laggard registers start again (R454). -/
def FaultLog.kept (l : FaultLog) : FaultLog :=
  { FaultLog.reset with recs := l.recs, nextId := l.nextId, lastId := l.lastId, dropped := l.dropped, classF := l.classF, countA := l.countA, countB := l.countB }

/-- RST_CAUSE of a fundamental reset (R490, R505). -/
def State.causeNow (s : State) : Nat := if s.clk.tripped then 3 else if s.clk.lossF then 4 else 1

/-- FUNDAMENTAL_RESET: everything but the fuses and the sticky fields. -/
def execFundamentalReset (s : State) : Host.Outcome State Fault Refusal :=
  let t := s.afterCold
  .next { t with log := s.log.kept, clk := { t.clk with cause := s.causeNow, warmCount := s.clk.warmCount } }

/-- HBM over a warm reset: its contents and the sealed frames that wait to be scrubbed (R236, R425). -/
def Hbm.warmed (h : Hbm) : Hbm :=
  { Hbm.reset with mem := h.mem, sealedFrames := h.sealedFrames, scrubbing := h.sealedFrames.map fun e => e.1, badTiles := h.badTiles, deadPcs := h.deadPcs }

/-- A die over a warm reset: its temperature and its PLLs stay, its fence and its microcode go (R484). -/
def DieSt.warmed (d : DieSt) : DieSt := { DieSt.reset with locked := d.locked, temp := d.temp, peak := d.temp, alert := d.alert }

/-- The device after the write of RST_CTL.WARM (R484, R486): the link, the configuration space and the security identity stay. -/
def State.afterWarm (s : State) : State :=
  { State.reset with
    pending := s.pending, tick := s.tick, timeNs := s.timeNs, out := s.out, fuses := s.fuses, pins := s.pins, log := s.log.kept, hbm := s.hbm.warmed,
    dies := s.dies.map DieSt.warmed,
    clk := { s.clk with warming := true, cause := 2, warmCount := satAt 255 (s.clk.warmCount + 1) },
    sec := { s.sec.hangUp with staged := none, challenge := none, ide := [] },
    host := { HostIf.reset with configReady := true, vfEnable := s.host.vfEnable, numVfs := s.host.numVfs, cfgRegs := s.host.cfgRegs, barLog := s.host.barLog },
    pw := { Power.reset with railMv := s.pw.railMv, easelTemp := s.pw.easelTemp, easelAlert := s.pw.easelAlert, stackTemp := s.pw.stackTemp } }

/-- A write of RST_CTL: a warm reset where KEY is right, unless a firmware activation or another reset is in progress, or a class F
fault has stopped the device (R485, R490). -/
def State.writeRst (s : State) (v : Nat) : State :=
  if s.regsOpen && field v 16 16 = 0x574D && bit v 0 && !s.host.updating && s.host.operational && !s.clk.halted then s.afterWarm else s

/-- WARM_RESET. -/
def execWarmReset (value : Word32) (s : State) : Host.Outcome State Fault Refusal := .next (s.writeRst value.toNat)

/-! ## Start-up (R400, R471 to R473, R488) -/

/-- The bank that boots: the selected one, else the other (R400, R420). -/
def bootBank (env : BootEnv) (fused : Nat) : Option (Nat × Bool × ImageInfo) :=
  let bank := fun (i : Nat) => (if i = 0 then env.bank0 else env.bank1).filter fun k => fused ≤ k.svn
  match bank env.selector.val, bank (1 - env.selector.val) with
  | some k, _ => some (env.selector.val, false, k)
  | none, some k => some (1 - env.selector.val, true, k)
  | none, none => none

/-- The rails set to their fused targets (R471). -/
def State.setRails (s : State) (fail : List Rail) : State :=
  allRails.foldl (fun s r =>
    if r ∈ fail then { s with pw := { s.pw with avsErr := true } }
    else
      let mv := Config.railTarget r.index.val
      ({ s with pw := { s.pw with railMv := s.pw.railMv.set r.index.val mv r.index.isLt } } : State).send (.avs r mv)) s

/-- The boot of the easel die (R400, R401). -/
def State.boot (s : State) (env : BootEnv) : State :=
  match bootBank env s.fuses.svn with
  | none => { s with sec := { s.sec with bootFail := true } }
  | some (b, fb, k) =>
    let s : State := { s with sec := { s.sec with activeBank := b, fallback := fb, running := some k }, clk := { s.clk with booted := true } }
    s.deriveAlias

/-- START_UP: the release of the reset pins. Without PG_EAS the device stays inert; other missing feeds fence their dies. -/
def execStartUp (env : BootEnv) (s : State) : Host.Outcome State Fault Refusal :=
  .next (if !s.clk.inReset then s
  else if Feed.eas ∈ env.pgLow then { s with clk := { s.clk with inReset := false, inert := true } }
  else
    let lost := env.pgLow.flatMap Feed.dies
    let s : State := { s with clk := { s.clk with inReset := false, devRef := true, pcieRef := true, eLock := true, pLock := true, linkUp := true },
                              dies := s.dies.map fun d => { d with locked := true }, fabric := { s.fabric with aligned := true } }
    let s := (s.setRails env.avsFail).boot env
    if s.clk.booted then lost.foldl (fun s d => s.fence d true 0x0C 0 []) s else s)

/-- CONFIG_READY: configuration space is ready, and DRS is sent (R341). -/
def execConfigReady (s : State) : Host.Outcome State Fault Refusal :=
  .next (if s.clk.inReset || s.clk.inert || !s.clk.linkUp || s.host.configReady then s
  else (s.modHost fun h => { h with configReady := true }).send .drs)

/-- HBM_READY: the stacks are trained, those that fail fence their beds, and sealed frames have been zeroed (R236, R413, R439). -/
def execHbmReady (env : TestEnv) (s : State) : Host.Outcome State Fault Refusal :=
  .next (if !s.clk.booted || s.clk.inReset || s.clk.tripped || s.hbm.ready || s.dbg.frozen then s
  else
    let s := env.badStacks.foldl (fun s k => s.failStack k) s
    let clean := fun (m : Sparse Byte) (k : Nat) => sclear m (hbmKey (k / 2 ^ 24) (k % 2 ^ 24 * 16384)) 16384
    s.modHbm fun h => { h with ready := true, mem := h.scrubbing.foldl clean h.mem, sealedFrames := [], scrubbing := [] })

/-- The start-up self-tests: the dies that fail are fenced; which block failed is free (R432, R437). -/
def State.startTests (s : State) (bad : List DieCode) : State :=
  bad.foldl (fun s d => match d with
    | .b _ => s
    | d => if s.fenced d then s
      else
        let (n, s) := s.draw
        let r : TestResult := if n % 4 = 0 then .failArray else if n % 4 = 1 then .failDatapath else if n % 4 = 2 then .failSequencer else .failSram
        s.testFails d r 0) s

/-- OPERATIONAL: the microcode is loaded and measured, the self-tests have run, and the host is told (R341, R488). -/
def execOperational (env : TestEnv) (s : State) : Host.Outcome State Fault Refusal :=
  .next (if !s.clk.booted || s.clk.inReset || s.clk.tripped || s.clk.halted || s.dbg.frozen || !s.host.configReady || !s.hbm.ready || s.host.operational then s
  else
    let s := (s.loadDies env.badCode).startTests env.badDies
    let s : State := { s with clk := { s.clk with warming := false }, fabric := { s.fabric with aligned := true } }
    (s.modHost fun h => { h with operational := true }).raiseInt intReady)

/-! ## Lost feeds and clocks -/

/-- Whether the device runs, so that the loss of a feed or of a clock acts on it. -/
def State.powered (s : State) : Bool := s.clk.booted && !s.clk.inReset && !s.clk.tripped && !s.dbg.frozen

/-- Dies fenced for a lost feed or clock; a class F outcome is remembered for RST_CAUSE (R441, R481, R490). -/
def State.loseDies (s : State) (ds : List DieCode) (struct_ : Nat) : State :=
  let was := s.clk.halted
  let s := ds.foldl (fun s d => s.fence d true struct_ 0 []) s
  if s.clk.halted && !was then { s with clk := { s.clk with lossF := true } } else s

/-- FEED_LOSS. -/
def execFeedLoss (feed : Feed) (s : State) : Host.Outcome State Fault Refusal :=
  .next (if !s.powered then s
  else
    let s : State := { s with pw := { s.pw with pgLost := true } }
    match feed with
    | .eas => let s := s.classF 0x0C
      { s with clk := { s.clk with lossF := true } }
    | f => s.loseDies f.dies 0x0C)

/-- CLOCK_FAILURE: the die whose PLL is out of lock is fenced; the E-PLL, the P-PLL and the references are class F (R481). -/
def execClockFailure (src : ClockSrc) (s : State) : Host.Outcome State Fault Refusal :=
  .next (if !s.powered then s
  else
    let out := fun (d : DieCode) => (s.modDie d fun k => { k with locked := false }).loseDies [d] 0x0B
    let end_ := fun (f : Clock → Clock) =>
      let s := s.classF 0x0B
      { s with clk := { f s.clk with lossF := true } }
    match src with
    | .compute d => out (.c d)
    | .bedPll b => out (.b b)
    | .media m => out (.m m)
    | .ePll => end_ fun k => { k with eLock := false }
    | .pPll => end_ fun k => { k with pLock := false }
    | .devRef => end_ fun k => { k with devRef := false }
    | .pcieRef => end_ fun k => { k with pcieRef := false })

end Sys2Proof.Machine
end

