-- ==== Sys2Proof/Machine/Interface.lean ====
section
/-! DEFINITION. Writes of BAR 0 (R10 to R12, R343, R369), the interface version (R347), the windows of BAR 4 (R345, R346, R371), the
administration ring (R373), configuration requests and function resets (R340, R341, R487). -/

namespace Sys2Proof.Machine

open Sys2Proof

/-! ## Single registers -/

/-- A status word after a write to its W1C bits `mask` (R10). -/
def clearBits (old mask v : Nat) : Nat := old - (old &&& mask &&& v)

/-- IFACE_NEGOTIATE: refused while a ring of the function is configured (R347). -/
def State.negotiate (s : State) (f : Fin 64) (v : Nat) : State :=
  if s.funcHasRing f.val then s
  else
    let r := v % 256
    s.modHost fun h => { h with requested := vmod h.requested f fun _ => r, agreed := vmod h.agreed f fun _ => min r 1 }

/-- INT_ENABLE: one message for the pending bits that the write enables (R372). -/
def State.writeIntEnable (s : State) (v : Nat) : State :=
  let new := v % 64
  let on := new &&& s.host.intStatus
  let fresh := on - (on &&& s.host.intEnable)
  let s := s.modHost fun h => { h with intEnable := new }
  if fresh = 0 then s else s.sendMsix 0 s.host.intVector

/-- BAR4_WIN_LO: the selected entry is committed where the window exists and its function holds the context (R371). -/
def State.commitWindow (s : State) (v : Nat) : State :=
  let f := field s.host.winSel 19 6
  let w := field s.host.winSel 0 19
  let c := ctxOf (field s.host.winHi 16 12)
  let held := (s.ctx? c).any fun x => x.func == f
  if w * 2097152 < s.bar4Size f && held then
    let e : Window := ⟨bit v 0, bit v 1, field s.host.winHi 0 16 * 2 ^ 32 + field v 21 11 * 2097152, c⟩
    s.modHost fun h => { h with windows := assocSet (f, w) e h.windows }
  else s

/-- ADMIN_CFG with its ENABLE bit set or clear (R373): fields are fixed while ENABLE is 1, 0 → 1 configures ring pair 0.0, 1 → 0 disables it. -/
def State.writeAdmin (s : State) (v : Nat) : State :=
  let old := s.host.adminCfg
  if bit old 31 then
    if bit v 31 then s
    else
      let s := s.modHost fun h => { h with adminCfg := old % 2 ^ 31 }
      match s.host.ring? 0 0 with
      | some r => (s.putRing 0 0 { r with closingAdmin := true }).closeRing 0 0
      | none => s
  else
    let log := fun (lo : Nat) => if field v lo 4 ≤ 10 then field v lo 4 else field old lo 4
    let open_ := bit v 31 && (s.host.ring? 0 0).isNone
    let cfg := log 0 + 2 ^ 4 * log 4 + 2 ^ 8 * field v 8 12
    let s := s.modHost fun h => { h with adminCfg := cfg + 2 ^ 31 * bitOf open_ }
    if open_ then
      s.putRing 0 0 ⟨log 0, log 4, false, false, field v 8 11, bit v 19, s.host.adminSq, s.host.adminCq, 0, 0, 0, 0, 0, true, false, none, false, []⟩
    else s

/-- A base register of ring pair 0.0; it is fixed while ENABLE is 1, and the low 12 bits are reserved (R373). -/
def State.writeAdminBase (s : State) (f : HostIf → HostIf) : State := if bit s.host.adminCfg 31 then s else s.modHost f
def lowHalf (old v : Nat) : Nat := old / 2 ^ 32 * 2 ^ 32 + v / 4096 * 4096
def highHalf (old v : Nat) : Nat := old % 2 ^ 32 + v * 2 ^ 32

/-- DBG_CTL (R468). -/
def State.writeDbgCtl (s : State) (v : Nat) : State :=
  let s := if bit v 2 then s.latchCounters else s
  let s := if bit v 3 then s.clearPeaks else s
  if bit v 0 then s.freeze .register else s

/-- A word of an entry of a function's MSI-X table; a vector that is unmasked with its pending bit set sends its message (R358). -/
def State.writeMsix (s : State) (f o : Nat) (v : Word32) : State :=
  let vec := o / 16
  let e := s.host.msixEntry f vec
  let e' := match o / 4 % 4 with
    | 0 => { e with addrLo := v }
    | 1 => { e with addrHi := v }
    | 2 => { e with data := v }
    | _ => { e with ctl := v &&& 1 }
  let s := s.modHost fun h => { h with msix := assocSet (f, vec) e' h.msix }
  if !e'.ctl.getLsbD 0 && decide ((f, vec) ∈ s.host.msixPending) then
    (s.modHost fun h => { h with msixPending := h.msixPending.filter fun p => p ≠ (f, vec) }).send (.msix f vec)
  else s

/-- A write of one register of the POWER block (R489). -/
def State.writePower (s : State) (o v : Nat) : State :=
  let p := s.pw
  match o with
  | 0x00 => { s with pw := { p with limitUnmet := p.limitUnmet && !bit v 1, thermal := p.thermal && !bit v 2, avsErr := p.avsErr && !bit v 3,
                                    pgLost := p.pgLost && !bit v 4 } }
  | 0x08 => if 85 ≤ field v 0 7 ∧ field v 0 7 ≤ 105 then { s with pw := { p with tempLimit := field v 0 7 } } else s
  | 0x10 => if bit v 0 then s.latchTele else s
  | _ => s

/-- A write of one register of the MEMORY block (R237). -/
def State.writeMemory (s : State) (o v : Nat) : State :=
  match o with
  | 0x00 => s.modHbm fun h => { h with farErr := h.farErr && !bit v 2 }
  | 0x04 => s.writeMemCfg .dwiSize v
  | 0x08 => s.writeMemCfg .devregBase v
  | 0x0C => s.writeMemCfg .devregSize v
  | 0x10 => if 1 ≤ field v 0 14 ∧ field v 0 14 ≤ 10000 then s.modHbm fun h => { h with farTimeoutMs := field v 0 14 } else s
  | 0x20 => s.modHbm fun h => { h with quotaSel := field v 0 12 }
  | 0x24 => if field v 0 24 ≤ 0xC00000 then s.modHbm fun h => { h with quotas := sset 0xC00000 h.quotas h.quotaSel (field v 0 24) } else s
  | _ => s

/-- A write of one register of the DEVCTL, INTERRUPT and RINGS blocks (R371 to R373). -/
def State.writeHostRegs (s : State) (off v : Nat) : State :=
  match off with
  | 0x10000 => s.negotiate 0 v
  | 0x10010 => s.modHost fun h => { h with winSel := v % 2 ^ 25 }
  | 0x10014 => s.commitWindow v
  | 0x10018 => s.modHost fun h => { h with winHi := v % 2 ^ 28 }
  | 0x10020 => s.modHost fun h => { h with bar4Err := clearBits h.bar4Err (2 ^ 31) v }
  | 0x20000 => s.modHost fun h => { h with intStatus := clearBits h.intStatus 63 v }
  | 0x20004 => s.writeIntEnable v
  | 0x20008 => s.modHost fun h => { h with intVector := v % 2 ^ 11 }
  | 0x70000 => s.writeAdminBase fun h => { h with adminSq := lowHalf h.adminSq v }
  | 0x70004 => s.writeAdminBase fun h => { h with adminSq := highHalf h.adminSq v }
  | 0x70008 => s.writeAdminBase fun h => { h with adminCq := lowHalf h.adminCq v }
  | 0x7000C => s.writeAdminBase fun h => { h with adminCq := highHalf h.adminCq v }
  | 0x70010 => s.writeAdmin v
  | 0x70020 => s.modHost fun h => { h with ringErrLast := clearBits h.ringErrLast (2 ^ 31) v }
  | _ => s

/-- A write of one register of the FAULT, SYNC, GRADIENT, MEDIA and SECURITY blocks (R204, R290, R319, R339, R425, R454). -/
def State.writeFlow (s : State) (off v : Nat) : State :=
  let r := s.regs
  match off with
  | 0x30000 => { s with log := { s.log with dropped := s.log.dropped && !bit v 10 } }
  | 0x30020 => { s with log := { s.log with lagThresh := field v 0 16 } }
  | 0x80000 => if 1 ≤ field v 0 17 ∧ field v 0 17 ≤ 100000 then { s with regs := { r with waitLimit := field v 0 17 } } else s
  | 0x80004 => { s with regs := { r with syncStatus := clearBits r.syncStatus 15 v } }
  | 0x90000 => { s with regs := { r with gradNonfinite := r.gradNonfinite && !bit v 1, cascBroken := r.cascBroken && !bit v 2 } }
  | 0xA0000 => s.modMedia fun m => { m with jobErr := m.jobErr && !bit v 4, auxDrop := m.auxDrop && !bit v 5, engineOut := m.engineOut && !bit v 6,
                                            arriveLost := m.arriveLost && !bit v 7 }
  | 0xA0040 => { s with regs := { r with shufReused := r.shufReused && !bit v 2 } }
  | 0xA0050 => { s with regs := { r with shufLane := field v 0 6 } }
  | 0xB0008 => if bit v 0 then { s with sec := { s.sec with locked := true, scope := 0, relocked := true } } else s
  | _ => s

/-- A write of one register of the DEBUG block (R459, R468). -/
def State.writeDebug (s : State) (o v : Nat) : State :=
  let d := s.dbg
  if o = 0x1020 then s.setHist 0 v
  else if o = 0x1120 then s.setHist 1 v
  else if o = 0x1220 then s.setHist 2 v
  else if o = 0x1320 then s.setHist 3 v
  else match o with
    | 0x00 => s.writeDbgCtl v
    | 0x10 => { s with dbg := { d with copySrc := field v 0 7 } }
    | 0x14 => { s with dbg := { d with copyOff := field v 0 26 } }
    | 0x18 => { s with dbg := { d with copyLen := field v 0 27 } }
    | 0x1C => { s with dbg := { d with copyDst := d.copyDst / 2 ^ 32 * 2 ^ 32 + v } }
    | 0x20 => { s with dbg := { d with copyDst := highHalf d.copyDst (field v 0 16) } }
    | 0x24 => if bit v 0 && !d.copyBusy then { s with dbg := { d with copyBusy := true } } else s
    | 0x28 => { s with dbg := { d with copyDone := d.copyDone && !bit v 17 } }
    | _ => s

/-- A 32-bit write at an offset of the PF's BAR 0; read-only registers and reserved offsets ignore it (R10, R11, R369). -/
def State.writeReg (s : State) (off v : Nat) : State :=
  if 0x200000 ≤ off ∧ off < 0x208000 then s.writeMsix 0 (off - 0x200000) (BitVec.ofNat 32 v)
  else match off / 0x10000 with
    | 0x1 | 0x2 | 0x7 => s.writeHostRegs off v
    | 0x4 => s.writePower (off % 0x10000) v
    | 0x5 => if off = 0x50010 then s.writeRst v else s
    | 0x6 => s.writeMemory (off % 0x10000) v
    | 0x3 | 0x8 | 0x9 | 0xA | 0xB => s.writeFlow off v
    | 0xC => s.writeDebug (off % 0x10000) v
    | _ => s

/-- A 32-bit write at an offset of a VF's BAR 0 (R342). -/
def State.writeVfReg (s : State) (f : Fin 64) (off v : Nat) : State :=
  if off = 0x1000 then s.negotiate f v
  else if 0x8000 ≤ off ∧ off < 0x8200 then s.writeMsix f.val (off - 0x8000) (BitVec.ofNat 32 v)
  else s

/-- A 32-bit write of the host to BAR 0: during a freeze only DBG_CTL.THAW is served (R462). -/
def State.hostWrite32 (s : State) (f : Fin 64) (off v : Nat) : State :=
  if s.dbg.frozen then (if f = 0 ∧ off = 0xC0000 ∧ bit v 1 then s.thaw else s)
  else if !s.regsOpen then s
  else if f = 0 then s.writeReg off v else s.writeVfReg f off v

/-- REGISTER_WRITE: a 64-bit write acts as two 32-bit ones; other widths and alignments are ignored (R343). -/
def execRegisterWrite (func : Fin 64) (off width value : Nat) (s : State) : Host.Outcome State Fault Refusal :=
  if !s.funcEnabled func.val || (if func = 0 then 2 ^ 26 else 2 ^ 16) ≤ off then .fault .noSuchAddress
  else .next (
    if width = 4 ∧ off % 4 = 0 then s.hostWrite32 func off (value % 2 ^ 32)
    else if width = 8 ∧ off % 8 = 0 then (s.hostWrite32 func off (value % 2 ^ 32)).hostWrite32 func (off + 4) (value / 2 ^ 32 % 2 ^ 32)
    else s)

/-- IFACE_NEGOTIATE. -/
def execIfaceNegotiate (func : Fin 64) (requested : Nat) (s : State) : Host.Outcome State Fault Refusal :=
  if s.funcEnabled func.val then .next (if s.regsOpen then s.negotiate func requested else s) else .fault .noSuchAddress

/-- BAR4_WIN_LO. -/
def execBar4WinLo (value : Word32) (s : State) : Host.Outcome State Fault Refusal :=
  .next (if s.regsOpen then s.commitWindow value.toNat else s)

/-- INT_ENABLE. -/
def execIntEnable (value : Word32) (s : State) : Host.Outcome State Fault Refusal :=
  .next (if s.regsOpen then s.writeIntEnable value.toNat else s)

/-- ADMIN_RING_ENABLE: a write of ADMIN_CFG that sets ENABLE. -/
def execAdminRingEnable (value : Word32) (s : State) : Host.Outcome State Fault Refusal :=
  .next (if s.regsOpen then s.writeAdmin value.toNat else s)

/-- ADMIN_RING_DISABLE: a write of ADMIN_CFG that clears ENABLE. -/
def execAdminRingDisable (value : Word32) (s : State) : Host.Outcome State Fault Refusal :=
  .next (if s.regsOpen then s.writeAdmin value.toNat else s)

/-! ## BAR 4 (R345, R346) -/

/-- Where a byte of a function's BAR 4 lies, or the status with which an access is rejected. -/
def State.bar4At (s : State) (f off : Nat) (wr : Bool) : Except Status (Nat × Nat) :=
  match (assoc? (f, off / 2097152) s.host.windows).filter fun w => w.valid with
  | none => .error .pageFault
  | some w =>
    match (s.ctxD w.ctx).pageAt (w.vaddr + off % 2097152) with
    | none => .error .pageFault
    | some p =>
      if p.far then .error .pageFault
      else if wr && (!w.wr || !p.wr) then .error .accessDenied
      else
        let (b, o) := placeOf s.hbm.dwi (p.target + (w.vaddr + off % 2097152 - p.vaddr))
        if (s.hbm.sealedTo b o).isSome then .error .deniedSealed
        else if s.hbmLost b o || (!wr && !s.hbmReadable b o) then .error .uncorrectableData
        else .ok (b, o)

/-- A rejected access is logged in BAR4_ERR (R346, R371, R372). -/
def State.bar4Reject (s : State) (f off : Nat) (st : Status) : State :=
  let s := if st = .pageFault then s.modHbm fun h => { h with pageFaults := satAt 0xFFFF (h.pageFaults + 1) } else s
  (s.modHost fun h => { h with bar4Err := st.code + 2 ^ 16 * f + 2 ^ 31, bar4ErrOff := off % 2 ^ 40 }).raiseInt intBar4

/-- The pieces of an access that lie within 64-byte blocks: offsets and lengths. -/
def bar4Pieces (off len : Nat) : Nat → List (Nat × Nat)
  | 0 => []
  | k + 1 => if len = 0 then [] else
    let n := min len (64 - off % 64)
    (off, n) :: bar4Pieces (off + n) (len - n) k

/-- The places of an access, or the first piece that is rejected. -/
def State.bar4Walk (s : State) (f : Nat) (wr : Bool) : List (Nat × Nat) → Except (Nat × Status) (List (Nat × Nat × Nat))
  | [] => .ok []
  | (o, n) :: ps => match s.bar4At f o wr with
    | .error st => .error (o, st)
    | .ok (b, a) => (s.bar4Walk f wr ps).map fun l => (b, a, n) :: l

/-- Whether BAR 4 of a function has the bytes of an access. -/
def State.bar4Exists (s : State) (f off len : Nat) : Bool := s.funcEnabled f && decide (off + len ≤ s.bar4Size f)

/-- Whether BAR 4 serves anything: until operational state, in a freeze and in a warm reset it does not (R341, R462, R486). -/
def State.bar4Open (s : State) : Bool := s.host.operational && !s.clk.warming && !s.dbg.frozen

/-- BAR4_READ. -/
def execBar4Read (func : Fin 64) (off len : Nat) (s : State) : Host.Outcome State Fault Refusal :=
  if !s.bar4Exists func.val off len then .fault .noSuchAddress
  else .next (
    if !s.host.configReady || s.clk.inReset || s.clk.tripped then s
    else if !s.bar4Open then s.send (.unsupported func.val)
    else match s.bar4Walk func.val false (bar4Pieces off len (len + 1)) with
      | .error (o, st) =>
        (s.bar4Reject func.val o st).send (if st = .pageFault then .unsupported func.val else .completerAbort func.val)
      | .ok ps =>
        let (bs, s) := ps.foldl (fun (r : List Byte × State) p => match r.2.hbmRead p.1 p.2.1 p.2.2 with
          | (b, s) => (r.1 ++ b.getD [], s)) ([], s)
        s.send (.readReply func.val bs))

/-- BAR4_WRITE. -/
def execBar4Write (func : Fin 64) (off : Nat) (bytes : List Byte) (s : State) : Host.Outcome State Fault Refusal :=
  if !s.bar4Exists func.val off bytes.length then .fault .noSuchAddress
  else .next (
    if !s.host.configReady || s.clk.inReset || s.clk.tripped || !s.bar4Open then s
    else match s.bar4Walk func.val true (bar4Pieces off bytes.length (bytes.length + 1)) with
      | .error (o, st) => s.bar4Reject func.val o st
      | .ok ps =>
        let (_, bad, s) := ps.foldl (fun (r : List Byte × Bool × State) p => match r.2.2.hbmWrite p.1 p.2.1 (r.1.take p.2.2) false with
          | some s => (r.1.drop p.2.2, r.2.1, s)
          | none => (r.1.drop p.2.2, true, r.2.2)) (bytes, false, s)
        if bad then s.bar4Reject func.val off .uncorrectableData else s)

/-! ## Configuration requests and function resets (R340, R341, R487) -/

/-- The registers of a VF at their reset values, its contexts destroyed (R487). -/
def State.resetVf (s : State) (vf : Fin 64) : State :=
  let s := (s.ctxs.filter fun e => e.2.func = vf.val).foldl (fun s e => s.destroyCtx e.1) s
  s.modHost fun h => { h with
    windows := h.windows.filter fun w => w.1.1 ≠ vf.val, requested := vmod h.requested vf fun _ => 0, agreed := vmod h.agreed vf fun _ => 0,
    drops := vmod h.drops vf fun _ => 0, msix := h.msix.filter fun e => e.1.1 ≠ vf.val, msixPending := h.msixPending.filter fun e => e.1 ≠ vf.val,
    cfgRegs := h.cfgRegs.filter fun e => e.1.1 ≠ vf.val }

/-- FLR of an enabled VF. -/
def execFlr (vf : Fin 64) (s : State) : Host.Outcome State Fault Refusal :=
  .next (if vf = 0 || !s.regsOpen || !s.funcEnabled vf.val then s else (s.resetVf vf).send (.frs vf.val))

/-- The VFs of a number. -/
def vfList (n : Nat) : List (Fin 64) := (List.finRange 64).filter fun f => 1 ≤ f.val && f.val ≤ n

/-- VF Enable and NumVFs: enabling reports FRS for every VF, disabling resets those that were enabled. -/
def State.setVfs (s : State) (enable : Bool) (num : Fin 64) : State :=
  if enable && s.host.vfEnable then s
  else if enable then
    (vfList num.val).foldl (fun s f => s.send (.frs f.val)) (s.modHost fun h => { h with vfEnable := true, numVfs := num.val })
  else if s.host.vfEnable then ((vfList s.host.numVfs).foldl (fun s f => s.resetVf f) s).modHost fun h => { h with vfEnable := false, numVfs := num.val }
  else s.modHost fun h => { h with numVfs := num.val }

/-- CONFIG_REQUEST: CRS until configuration space is ready; configuration requests are answered in a freeze and in a warm reset too
(R341, R462, R486). -/
def execConfigRequest (func : Fin 64) (req : CfgReq) (s : State) : Host.Outcome State Fault Refusal :=
  .next (if s.clk.inReset || s.clk.inert || s.clk.tripped || !s.clk.linkUp then s
  else if !s.host.configReady then s.send (.crs func.val)
  else if !s.funcEnabled func.val then s.send (.unsupported func.val)
  else match req with
    | .read r => s.send (.cfgReply func.val (Config.cfgValue func.val r (assoc? (func.val, r) s.host.cfgRegs)))
    | .write r v => s.modHost fun h => { h with cfgRegs := assocSet (func.val, r) v h.cfgRegs }
    | .setVfs en n => if func = 0 then s.setVfs en n else s
    | .setBar4 log => if func = 0 ∧ 30 ≤ log ∧ log ≤ 40 then s.modHost fun h => { h with barLog := log } else s)

/-- ATS_INVALIDATION: no translation of the host is kept, so the request is answered at once (R340). -/
def execAtsInvalidation (func : Fin 64) (_pasid : Option Nat) (_addr _len : Nat) (s : State) : Host.Outcome State Fault Refusal :=
  .next (if !s.host.configReady || s.clk.inReset || s.clk.tripped || s.dbg.frozen || !s.funcEnabled func.val then s else s.send (.invalidateDone func.val))

end Sys2Proof.Machine
end

