-- ==== Sys2Proof/Machine/Dispatch.lean ====
section
/-! DEFINITION. One arm per command: its meaning, or its refusal by name. -/

namespace Sys2Proof.Machine

open Sys2Proof

def exec (i : Instr) (s : State) : Host.Outcome State Fault Refusal :=
  match i with
  | .nop h => Sys2Proof.Machine.execNop h s
  | .fence h allRings => Sys2Proof.Machine.execFence h allRings s
  | .query h p => Sys2Proof.Machine.execQuery h p s
  | .timestamp h => Sys2Proof.Machine.execTimestamp h s
  | .ctxCreate h p => Sys2Proof.Machine.execCtxCreate h p s
  | .ctxDestroy h ctx => Sys2Proof.Machine.execCtxDestroy h ctx s
  | .ctxRun h ctx => Sys2Proof.Machine.execCtxRun h ctx s
  | .ctxPreempt h ctx saveScratch => Sys2Proof.Machine.execCtxPreempt h ctx saveScratch s
  | .ctxResume h ctx => Sys2Proof.Machine.execCtxResume h ctx s
  | .ringConfig h p => Sys2Proof.Machine.execRingConfig h p s
  | .map h p => Sys2Proof.Machine.execMap h p s
  | .unmap h p => Sys2Proof.Machine.execUnmap h p s
  | .copy h p check => Sys2Proof.Machine.execCopy h p check s
  | .fill h p check => Sys2Proof.Machine.execFill h p check s
  | .ageScan h p => Sys2Proof.Machine.execAgeScan h p s
  | .evict h p check => Sys2Proof.Machine.execEvict h p check s
  | .resumeFault h p => Sys2Proof.Machine.execResumeFault h p s
  | .execProgram h p env => Sys2Proof.Machine.execExecProgram h p env s
  | .stopAt h p => Sys2Proof.Machine.execStopAt h p s
  | .barrierConfig h p => Sys2Proof.Machine.execBarrierConfig h p s
  | .ringMap h p => Sys2Proof.Machine.execRingMap h p s
  | .counterSet h p => Sys2Proof.Machine.execCounterSet h p s
  | .gradConfig h p => Sys2Proof.Machine.execGradConfig h p s
  | .cascadeConfig h p => Sys2Proof.Machine.execCascadeConfig h p s
  | .ingestOpen h p => Sys2Proof.Machine.execIngestOpen h p s
  | .ingestFeed h p => Sys2Proof.Machine.execIngestFeed h p s
  | .ingestClose h p => Sys2Proof.Machine.execIngestClose h p s
  | .tileFormat h p => Sys2Proof.Machine.execTileFormat h p s
  | .shuffleConfig h p => Sys2Proof.Machine.execShuffleConfig h p s
  | .shuffleSeek h p => Sys2Proof.Machine.execShuffleSeek h p s
  | .impressionTake h p env => Sys2Proof.Machine.execImpressionTake h p env s
  | .impressionRestore h p env => Sys2Proof.Machine.execImpressionRestore h p env s
  | .dieFence h die => Sys2Proof.Machine.execDieFence h die s
  | .dieReset h die res => Sys2Proof.Machine.execDieReset h die res s
  | .faultLogRead h p => Sys2Proof.Machine.execFaultLogRead h p s
  | .partnerSet h p => Sys2Proof.Machine.execPartnerSet h p s
  | .sealOpen h p => Sys2Proof.Machine.execSealOpen h p s
  | .sealLoad h p env => Sys2Proof.Machine.execSealLoad h p env s
  | .sealClose h ctx => Sys2Proof.Machine.execSealClose h ctx s
  | .fwStage h p env => Sys2Proof.Machine.execFwStage h p env s
  | .fwActivate h boots tests => Sys2Proof.Machine.execFwActivate h boots tests s
  | .debugUnlock h p env => Sys2Proof.Machine.execDebugUnlock h p env s
  | .powerPolicy h p => Sys2Proof.Machine.execPowerPolicy h p s
  | .telemetryRead h p => Sys2Proof.Machine.execTelemetryRead h p s
  | .selfTest h die res => Sys2Proof.Machine.execSelfTest h die res s
  | .doorbellSqTail w => Sys2Proof.Machine.execDoorbellSqTail w s
  | .doorbellCqHead w => Sys2Proof.Machine.execDoorbellCqHead w s
  | .doorbellEventHead w => Sys2Proof.Machine.execDoorbellEventHead w s
  | .commandFetch ctx ring env => Sys2Proof.Machine.execCommandFetch ctx ring env s
  | .ringError ctx sel st addr => Sys2Proof.Machine.execRingError ctx sel st addr s
  | .eventBacklogFlush ctx => Sys2Proof.Machine.execEventBacklogFlush ctx s
  | .ifaceNegotiate func requested => Sys2Proof.Machine.execIfaceNegotiate func requested s
  | .bar4WinLo value => Sys2Proof.Machine.execBar4WinLo value s
  | .intEnable value => Sys2Proof.Machine.execIntEnable value s
  | .adminRingEnable value => Sys2Proof.Machine.execAdminRingEnable value s
  | .adminRingDisable value => Sys2Proof.Machine.execAdminRingDisable value s
  | .memConfigWrite r value => Sys2Proof.Machine.execMemConfigWrite r value s
  | .relock value => Sys2Proof.Machine.execRelock value s
  | .freezeReq src => Sys2Proof.Machine.execFreezeReq src s
  | .thaw src => Sys2Proof.Machine.execThaw src s
  | .latch => Sys2Proof.Machine.execLatch s
  | .clearPeak => Sys2Proof.Machine.execClearPeak s
  | .dbgCopyGo value => Sys2Proof.Machine.execDbgCopyGo value s
  | .snapshotCopyEnd => Sys2Proof.Machine.execSnapshotCopyEnd s
  | .histSel bed value => Sys2Proof.Machine.execHistSel bed value s
  | .telLatch value => Sys2Proof.Machine.execTelLatch value s
  | .telSeqRead => Sys2Proof.Machine.execTelSeqRead s
  | .registerWrite func off width value => Sys2Proof.Machine.execRegisterWrite func off width value s
  | .readout region off len => Sys2Proof.Machine.execReadout region off len s
  | .i3cTelemetryRead off len => Sys2Proof.Machine.execI3cTelemetryRead off len s
  | .configRequest func req => Sys2Proof.Machine.execConfigRequest func req s
  | .bar4Read func off len => Sys2Proof.Machine.execBar4Read func off len s
  | .bar4Write func off bytes => Sys2Proof.Machine.execBar4Write func off bytes s
  | .flr vf => Sys2Proof.Machine.execFlr vf s
  | .getVersion => Sys2Proof.Machine.execGetVersion s
  | .getCapabilities => Sys2Proof.Machine.execGetCapabilities s
  | .negotiateAlgorithms offer => Sys2Proof.Machine.execNegotiateAlgorithms offer s
  | .getDigests => Sys2Proof.Machine.execGetDigests s
  | .getCertificate slot off len => Sys2Proof.Machine.execGetCertificate slot off len s
  | .challenge slot nonce => Sys2Proof.Machine.execChallenge slot nonce s
  | .getMeasurements index signed nonce => Sys2Proof.Machine.execGetMeasurements index signed nonce s
  | .keyExchange slot pubX pubY => Sys2Proof.Machine.execKeyExchange slot pubX pubY s
  | .finish session verifyOk => Sys2Proof.Machine.execFinish session verifyOk s
  | .heartbeat session => Sys2Proof.Machine.execHeartbeat session s
  | .keyUpdate session => Sys2Proof.Machine.execKeyUpdate session s
  | .endSession session => Sys2Proof.Machine.execEndSession session s
  | .vendorDefinedRequest session msg => Sys2Proof.Machine.execVendorDefinedRequest session msg s
  | .coldReset => Sys2Proof.Machine.execColdReset s
  | .fundamentalReset => Sys2Proof.Machine.execFundamentalReset s
  | .warmReset value => Sys2Proof.Machine.execWarmReset value s
  | .startUp env => Sys2Proof.Machine.execStartUp env s
  | .configReady => Sys2Proof.Machine.execConfigReady s
  | .hbmReady env => Sys2Proof.Machine.execHbmReady env s
  | .operational env => Sys2Proof.Machine.execOperational env s
  | .feedLoss feed => Sys2Proof.Machine.execFeedLoss feed s
  | .clockFailure src => Sys2Proof.Machine.execClockFailure src s
  | .thermalRation die degC => Sys2Proof.Machine.execThermalRation die degC s
  | .stackOvertemp stack degC => Sys2Proof.Machine.execStackOvertemp stack degC s
  | .alertN src degC => Sys2Proof.Machine.execAlertN src degC s
  | .thermalTrip src degC => Sys2Proof.Machine.execThermalTrip src degC s
  | .avsTrim rail up failures => Sys2Proof.Machine.execAvsTrim rail up failures s
  | .powerMeasure t => Sys2Proof.Machine.execPowerMeasure t s
  | .controlInterval otherMw unitMw => Sys2Proof.Machine.execControlInterval otherMw unitMw s
  | .powerLend c => Sys2Proof.Machine.execPowerLend c s
  | .powerReclaim c => Sys2Proof.Machine.execPowerReclaim c s
  | .dispatch c dt => Sys2Proof.Machine.execDispatch c dt s
  | .outer c p bites flt => Sys2Proof.Machine.execOuter c p bites flt s
  | .pull c p residue => Sys2Proof.Machine.execPull c p residue s
  | .preload c p => Sys2Proof.Machine.execPreload c p s
  | .stylus c p run => Sys2Proof.Machine.execStylus c p run s
  | .vec c p groups => Sys2Proof.Machine.execVec c p groups s
  | .row c p rows => Sys2Proof.Machine.execRow c p rows s
  | .move c p => Sys2Proof.Machine.execMove c p s
  | .mcast c p => Sys2Proof.Machine.execMcast c p s
  | .atomicAdd c p => Sys2Proof.Machine.execAtomicAdd c p s
  | .stashPush c p => Sys2Proof.Machine.execStashPush c p s
  | .stashPop c p => Sys2Proof.Machine.execStashPop c p s
  | .gradGather c p groups => Sys2Proof.Machine.execGradGather c p groups s
  | .bucketSend c p => Sys2Proof.Machine.execBucketSend c p s
  | .signal c => Sys2Proof.Machine.execSignal c s
  | .wait c => Sys2Proof.Machine.execWait c s
  | .barrier c q => Sys2Proof.Machine.execBarrier c q s
  | .clipDraw c p => Sys2Proof.Machine.execClipDraw c p s
  | .stopMark c p => Sys2Proof.Machine.execStopMark c p s
  | .operationEnd c flt => Sys2Proof.Machine.execOperationEnd c flt s
  | .operationCompletion c idx => Sys2Proof.Machine.execOperationCompletion c idx s
  | .signalArrival idx => Sys2Proof.Machine.execSignalArrival idx s
  | .wetLineClear c dt => Sys2Proof.Machine.execWetLineClear c dt s
  | .hatchRelease line mismatch => Sys2Proof.Machine.execHatchRelease line mismatch s
  | .waitTimeout c q elapsed => Sys2Proof.Machine.execWaitTimeout c q elapsed s
  | .tagGrant bed => Sys2Proof.Machine.execTagGrant bed s
  | .farTierTileFail xfer seq => Sys2Proof.Machine.execFarTierTileFail xfer seq s
  | .farTierTimeout xfer seq => Sys2Proof.Machine.execFarTierTimeout xfer seq s
  | .farFlushReturn xfer res => Sys2Proof.Machine.execFarFlushReturn xfer res s
  | .packetArrival pkt crcFails => Sys2Proof.Machine.execPacketArrival pkt crcFails s
  | .rasterSlot link slot => Sys2Proof.Machine.execRasterSlot link slot s
  | .transferCompletionAck idx => Sys2Proof.Machine.execTransferCompletionAck idx s
  | .mcastMemberAck idx => Sys2Proof.Machine.execMcastMemberAck idx s
  | .adderTileArrival xfer seq residue => Sys2Proof.Machine.execAdderTileArrival xfer seq residue s
  | .adderResend xfer seq => Sys2Proof.Machine.execAdderResend xfer seq s
  | .bucketEnter ctx pos => Sys2Proof.Machine.execBucketEnter ctx pos s
  | .chainPacket idx => Sys2Proof.Machine.execChainPacket idx s
  | .shardSumsqArrival idx => Sys2Proof.Machine.execShardSumsqArrival idx s
  | .bucketComplete ctx pos => Sys2Proof.Machine.execBucketComplete ctx pos s
  | .cascInboxWrite ctx msg => Sys2Proof.Machine.execCascInboxWrite ctx msg s
  | .cascMapArrival ctx counts => Sys2Proof.Machine.execCascMapArrival ctx counts s
  | .cascRoundStart ctx round => Sys2Proof.Machine.execCascRoundStart ctx round s
  | .cascHatchRelease chan => Sys2Proof.Machine.execCascHatchRelease chan s
  | .cascHeartbeat => Sys2Proof.Machine.execCascHeartbeat s
  | .cascHeartbeatLoss dev => Sys2Proof.Machine.execCascHeartbeatLoss dev s
  | .ingestJobStart job env => Sys2Proof.Machine.execIngestJobStart job env s
  | .pictureOutput job fixed retry => Sys2Proof.Machine.execPictureOutput job fixed retry s
  | .ingestJobEnd job why fixed retry => Sys2Proof.Machine.execIngestJobEnd job why fixed retry s
  | .clipReady job => Sys2Proof.Machine.execClipReady job s
  | .clipFilled job => Sys2Proof.Machine.execClipFilled job s
  | .voidRangeDrop ctx => Sys2Proof.Machine.execVoidRangeDrop ctx s
  | .drawSlotFilled c => Sys2Proof.Machine.execDrawSlotFilled c s
  | .quiesce => Sys2Proof.Machine.execQuiesce s
  | .frameScrub => Sys2Proof.Machine.execFrameScrub s
  | .patrolScrub die line find => Sys2Proof.Machine.execPatrolScrub die line find s
  | .faultSelfTest die res => Sys2Proof.Machine.execFaultSelfTest die res s
  | .classFFault src => Sys2Proof.Machine.execClassFFault src s
  | .pcieReadCompletion xfer seq bytes => Sys2Proof.Machine.execPcieReadCompletion xfer seq bytes s
  | .tagRelease bed stack pc find => Sys2Proof.Machine.execTagRelease bed stack pc find s
  | .atsInvalidation func pasid addr len => Sys2Proof.Machine.execAtsInvalidation func pasid addr len s

end Sys2Proof.Machine
end

