-- ==== Sys2Proof/Safety.lean ====
section
/-! DEFINITION. What the claims about the machine speak of: when a host command starts, what a completion leaves alone, and the states in
which the device is held. -/

namespace Sys2Proof.Machine

open Sys2Proof

/-! ## The start of a host command -/

/-- A host command begins its own effect: the device serves the host, the command's turn in its ring has come, and neither an activation
nor debug mode turns it away (R352, R367, R465). -/
def State.starts (s : State) (h : CmdHdr) (c : HostCmd) : Prop :=
  s.live = true ∧ s.host.ready h c = true ∧ (s.host.updating = true → HostCmd.isHw c = true) ∧ (s.dbg.debugMode = true → HostCmd.inDebug c = true)

/-- A host command begins, and has not begun before: the commands that may stay in progress (R349, R384, R394, R421). -/
def State.startsAnew (s : State) (h : CmdHdr) (c : HostCmd) : Prop := s.starts h c ∧ s.host.inProgress h c = false

/-- The context that a command's field names. -/
def State.names (s : State) (field : Nat) (x : Ctx) : Prop := s.ctx? (ctxOf field) = some x

/-- A context that commands may name and that does not run (R365, R375). -/
def State.namesIdle (s : State) (field : Nat) (x : Ctx) : Prop := s.names field x ∧ s.running ≠ some (ctxOf field)

/-! ## What stays as it is -/

/-- Everything but the host interface, HBM, the messages sent, device time and the draws is as before. -/
structure SameBlock (s t : State) : Prop where
  pending : t.pending = s.pending
  fuses : t.fuses = s.fuses
  clk : t.clk = s.clk
  pins : t.pins = s.pins
  pw : t.pw = s.pw
  sec : t.sec = s.sec
  ctxs : t.ctxs = s.ctxs
  running : t.running = s.running
  regs : t.regs = s.regs
  cores : t.cores = s.cores
  slices : t.slices = s.slices
  dies : t.dies = s.dies
  beds : t.beds = s.beds
  fabric : t.fabric = s.fabric
  media : t.media = s.media
  log : t.log = s.log
  dbg : t.dbg = s.dbg

/-- Everything but the host interface is as before. -/
structure SameButHost (s t : State) : Prop extends SameBlock s t where
  tick : t.tick = s.tick
  timeNs : t.timeNs = s.timeNs
  out : t.out = s.out
  hbm : t.hbm = s.hbm

/-- The compute dies, HBM and the fabric are as before. -/
structure SameCompute (s t : State) : Prop where
  cores : t.cores = s.cores
  slices : t.slices = s.slices
  beds : t.beds = s.beds
  hbm : t.hbm = s.hbm
  fabric : t.fabric = s.fabric
  ctxs : t.ctxs = s.ctxs
  running : t.running = s.running

/-- An operation of a core has touched that core and wet marks: the bytes of every slice and all else are as before. -/
structure OnlyCore (s t : State) (c : CoreId) : Prop where
  rest : t = { s with cores := t.cores, slices := t.slices }
  others : ∀ k, k ≠ c → t.core k = s.core k
  pads : ∀ d, (t.slice d).mem = (s.slice d).mem

/-- An operation of a core has touched that core, wet marks and the slice of its die: all else is as before. -/
structure OnlyDie (s t : State) (c : CoreId) : Prop where
  rest : t = { s with cores := t.cores, slices := t.slices }
  others : ∀ k, k ≠ c → t.core k = s.core k
  pads : ∀ d, d ≠ c.die → (t.slice d).mem = (s.slice d).mem

/-- No line of a list is marked by another operation than one in hand (R176). -/
def State.dry (s : State) (c : CoreId) (u : Cur) (lines : List Nat) : Prop :=
  ∀ m ∈ (s.slice c.die).wet, m.line ∈ lines → m.own c u.q u.run.op = true

/-! ## States in which the device is held -/

/-- A reset pin is asserted, and nothing that waits releases it (R483, R488). -/
def State.heldInReset (s : State) : Prop := s.clk.inReset = true ∧ ∀ e, Instr.startUp e ∉ s.pending

/-- Every clock is stopped by a thermal trip (R505). -/
def State.stopped (s : State) : Prop := s.clk.tripped = true ∧ s.clk.inReset = false ∧ Instr.coldReset ∉ s.pending ∧ Instr.fundamentalReset ∉ s.pending

/-- Whether a row can end a freeze, or is served in one and reaches contexts (R462, R465, R483, R505). -/
def Instr.actsFrozen : Instr → Bool
  | .thaw _ | .registerWrite _ _ _ _ | .configRequest _ _ | .coldReset | .fundamentalReset | .thermalTrip _ _ => true
  | _ => false

/-- Every clock domain is stopped at a safe edge, and nothing that waits acts in a freeze (R460, R462). -/
def State.heldFrozen (s : State) : Prop := s.dbg.frozen = true ∧ s.clk.inReset = false ∧ ∀ c ∈ s.pending, Instr.actsFrozen c = false

/-! ## Records -/

/-- A record's 64 bytes as the newest message to a ring of host memory. -/
def lastHostWrite (s : State) : Option (Nat × List Byte) :=
  match s.out with
  | .hostWrite _ _ a bs _ :: _ => some (a, bs)
  | _ => none

end Sys2Proof.Machine
end

