-- ==== Sys2Proof/Certificates/Slice0/Obligations.lean ====
section
/-! DEFINITION. What is claimed of the model of the KB2516: one proposition for each obligation. -/

open Sys2Proof Sys2Proof.Machine

/-- For every command c and every state with c at the front of its queue, a step is exec of c on the state with the rest of the queue.
On an empty queue a step answers the state as it is, which is the model's choice (log entry 2). (95_what_each_step_holds; derived) -/
def Obligations.StepRunsTheFrontCommand : Prop :=
  (∀ (c : Instr) (rest : List Instr) (s : State), s.pending = c :: rest → step s = exec c { s with pending := rest }) ∧
  (∀ s : State, s.pending = [] → step s = .next s)

/-- exec never answers a refusal, and it answers a fault only for an access to a window of BAR 0, BAR 2 or BAR 4 at an address that no
window of the function covers, or of a function that is not enabled. (R342; derived) -/
def Obligations.NothingRefusesAndOnlyWindowsStop : Prop :=
  ∀ (c : Instr) (s : State),
    (∀ r, exec c s ≠ .refused r) ∧
    (∀ f, exec c s = .fault f →
      (∃ w, (c = .doorbellSqTail w ∨ c = .doorbellCqHead w ∨ c = .doorbellEventHead w) ∧ s.bellExists w = false) ∨
      (∃ k v, c = .ifaceNegotiate k v ∧ s.funcEnabled k.val = false) ∨
      (∃ k off width v, c = .registerWrite k off width v ∧ (s.funcEnabled k.val = false ∨ (if k = 0 then 2 ^ 26 else 2 ^ 16) ≤ off)) ∨
      (∃ k off len, c = .bar4Read k off len ∧ s.bar4Exists k.val off len = false) ∨
      (∃ k off bs, c = .bar4Write k off bs ∧ s.bar4Exists k.val off bs.length = false))

/-- After a cold reset the device is held in reset, nothing waits and no context runs; the device region is 1 GiB at offset 0 of B0,
the far-tier time-out is 50 ms, the wait limit, the laggard threshold, the power limit, the temperature limit and HIST_SEL hold
their reset values; the fault log is empty and its next identifier is 1; every plate and every scratchpad byte is 0; no ring is
configured and no interrupt is pending. (R204, R219, R237, R433, R454, R456, R459, R472, R475, R483, R489, R85; derived) -/
def Obligations.ResetLeavesTheSpecifiedValues : Prop :=
  State.reset.pending = [] ∧ State.reset.clk.inReset = true ∧ State.reset.running = none ∧
  State.reset.hbm.devBase = 0 ∧ State.reset.hbm.devSize * 2 ^ 21 = 2 ^ 30 ∧ State.reset.hbm.dwi = 0 ∧ State.reset.hbm.locked = false ∧
  State.reset.hbm.farTimeoutMs = 50 ∧ State.reset.regs.waitLimit = 100 ∧ State.reset.log.lagThresh = 500 ∧
  State.reset.pw.limitW = 2000 ∧ State.reset.pw.lend = true ∧ State.reset.pw.tempLimit = 100 ∧
  (∀ b : BedId, (State.reset.bed b).histSel = 0x103) ∧
  State.reset.log.recs = [] ∧ State.reset.log.nextId = 1 ∧
  (∀ (c : CoreId) (k : Nat), sget 0 (State.reset.core c).plates k = 0) ∧ (∀ (d : DieId) (a : Nat), sget 0 (State.reset.slice d).mem a = 0) ∧
  State.reset.host.rings = [] ∧ State.reset.host.events = [] ∧ State.reset.host.intStatus = 0

/-- For every state in which a reset pin is asserted and nothing that waits is START_UP, a step that answers a next state leaves the
device held in reset, with its cores, scratchpads, beds, HBM, fabric and contexts as they were or as a cold reset leaves them.
(R483, R484, R488; derived) -/
def Obligations.HeldInResetStaysHeld : Prop :=
  ∀ s t : State, s.heldInReset → step s = .next t →
    t.heldInReset ∧ (SameCompute s t ∨ (t.cores = State.reset.cores ∧ t.slices = State.reset.slices ∧ t.beds = State.reset.beds ∧
      t.hbm = State.reset.hbm ∧ t.fabric = State.reset.fabric ∧ t.ctxs = State.reset.ctxs ∧ t.running = none))

/-- State.reset has its reset pin asserted and nothing that waits, so it meets the invariant of HeldInResetStaysHeld. (R483; derived) -/
def Obligations.ResetIsHeldInReset : Prop :=
  State.reset.heldInReset

/-- For every state in which a thermal trip has stopped the clocks and no cold or fundamental reset waits, a step that answers a next
state changes nothing but the queue, and the device stays stopped. (R505; derived) -/
def Obligations.TrippedDeviceStaysStopped : Prop :=
  ∀ s t : State, s.stopped → step s = .next t → t = { s with pending := s.pending.tail } ∧ t.stopped

/-- For every frozen state in which nothing that waits acts in a freeze, a step that answers a next state leaves every core,
scratchpad, bed, HBM, the fabric and the contexts unchanged, and the device stays frozen. (R460, R462; derived) -/
def Obligations.FrozenDeviceKeepsItsState : Prop :=
  ∀ s t : State, s.heldFrozen → step s = .next t → t.heldFrozen ∧ SameCompute s t

/-- A NOP and a FENCE that start complete with DONE and progress 0; a TIMESTAMP that starts completes with DONE and the device time as
its progress word. Nothing else happens. (R352, R361, R362; derived) -/
def Obligations.SimpleCommandsComplete : Prop :=
  ∀ (h : CmdHdr) (all : Bool) (s : State),
    (s.starts h .nop → exec (.nop h) s = .next (s.complete h .done 0)) ∧
    (s.starts h (.fence all) → exec (.fence h all) s = .next (s.complete h .done 0)) ∧
    (s.starts h .timestamp → exec (.timestamp h) s = .next (s.stamp.complete h .done s.stamp.timeNs))

/-- A completion on a configured ring that is not being disabled writes 64 bytes at the tail of the completion ring: sequence number,
status, phase, progress, device time, fault identifier and fetch head at their places and 0 elsewhere. It frees the reserved
entry, moves the tail by one, inverts the phase when the tail wraps, and without a message sends nothing else. (R356, R357;
derived) -/
def Obligations.CompletionRecordIsLaidOut : Prop :=
  ∀ (s : State) (h : CmdHdr) (st : Status) (progress fid : Nat) (r : Ring),
    s.host.ring? h.ctx h.ring = some r → r.closing = none → r.closingAdmin = false →
    ∃ bs : List Byte, bs.length = 64 ∧ fieldAt bs 0 4 = h.seq.toNat ∧ fieldAt bs 4 2 = st.code ∧ fieldAt bs 6 1 = bitOf r.phase ∧
      fieldAt bs 7 1 = 0 ∧ fieldAt bs 8 8 = progress % 2 ^ 64 ∧ fieldAt bs 16 8 = s.stamp.timeNs % 2 ^ 64 ∧ fieldAt bs 24 2 = fid % 2 ^ 16 ∧
      fieldAt bs 26 2 = 0 ∧ fieldAt bs 28 2 = r.sqHead % 2 ^ 16 ∧ fieldAt bs 30 34 = 0 ∧
      (s.complete h st progress fid).hbm = (s.stamp.ringWrite h.ctx r.cqHbm (r.cqBase + 64 * r.cqTail) bs).hbm ∧
      (s.complete h st progress fid).timeNs = s.stamp.timeNs ∧
      (s.complete h st progress fid).host.ring? h.ctx h.ring =
        some { r with cqTail := (r.cqTail + 1) % ringEntries r.cqLog, reserved := r.reserved - 1,
                      phase := if r.cqTail + 1 = ringEntries r.cqLog then !r.phase else r.phase } ∧
      ((h.irq && r.irqEn) = false →
        (s.complete h st progress fid).out = (s.stamp.ringWrite h.ctx r.cqHbm (r.cqBase + 64 * r.cqTail) bs).out)

/-- If irq is set in the command and irq_en in the ring, the device sends the ring's message after the record has been written; a
masked vector sets its pending bit instead. (R358) -/
def Obligations.MessageFollowsTheRecord : Prop :=
  ∀ (s : State) (h : CmdHdr) (st : Status) (progress fid : Nat) (r : Ring),
    s.host.ring? h.ctx h.ring = some r → r.closing = none → r.closingAdmin = false → h.irq = true → r.irqEn = true →
    let t := s.complete h st progress fid
    ∃ bs : List Byte, fieldAt bs 0 4 = h.seq.toNat ∧
      let w := s.stamp.ringWrite h.ctx r.cqHbm (r.cqBase + 64 * r.cqTail) bs
      t.hbm = w.hbm ∧
      ((s.host.msixEntry (s.funcOf h.ctx) r.vector).ctl.getLsbD 0 = false → t.out = .msix (s.funcOf h.ctx) r.vector :: w.out) ∧
      ((s.host.msixEntry (s.funcOf h.ctx) r.vector).ctl.getLsbD 0 = true →
        t.out = w.out ∧ (s.funcOf h.ctx, r.vector) ∈ t.host.msixPending)

/-- A QUERY that starts writes the 64-byte summary, the state of the named context or the descriptor of the named ring, cut to its
length, to its buffer and completes with DONE, or with DONE_PARTIAL when the report is longer; a ring that is not configured gives
BAD_CONTEXT. (R362, R396; derived) -/
def Obligations.QueryReports : Prop :=
  ∀ (h : CmdHdr) (p : QueryP) (s : State), s.starts h (.query p) →
    let cut := fun (bs : List Byte) => bs.take p.length
    let reported := fun (bs : List Byte) =>
      ((if (cut bs).isEmpty then s else s.send (.hostWrite (s.funcOf h.ctx) (s.pasidOf h.ctx) p.buffer (cut bs) true)).complete h
        (if p.length < bs.length then .donePartial else .done) (cut bs).length)
    (p.item = 0 → exec (.query h p) s = .next (reported s.deviceSummary)) ∧
    (p.item = 1 → exec (.query h p) s = .next (reported (s.contextReport (ctxOf p.ctx)))) ∧
    (∀ x, p.item = 2 → p.ring < 64 → s.host.ring? (ctxOf p.ctx) (Fin.ofNat 64 p.ring) = some x →
      exec (.query h p) s = .next (reported (ringReport (ctxOf p.ctx) (Fin.ofNat 64 p.ring) x))) ∧
    (p.item = 2 → p.ring < 64 → s.host.ring? (ctxOf p.ctx) (Fin.ofNat 64 p.ring) = none →
      exec (.query h p) s = .next (s.complete h .badContext 0))

/-- A FAULT_LOG_READ that starts takes the record of its identifier, or with identifier 0 the oldest unread one, writes its bytes cut
to the length to the buffer, marks it read and completes with DONE, or DONE_PARTIAL where the buffer is shorter. With identifier 0
and nothing unread it completes with DONE and progress 0; an identifier that is not in the log gives BAD_LENGTH. (R436) -/
def Obligations.FaultLogReadCopiesOneRecord : Prop :=
  ∀ (h : CmdHdr) (p : FaultLogReadP) (s : State), s.starts h (.faultLogRead p) →
    (p.faultId = 0 → (∀ r ∈ s.log.recs, r.read = true) → exec (.faultLogRead h p) s = .next (s.complete h .done 0)) ∧
    (p.faultId ≠ 0 → (∀ r ∈ s.log.recs, r.id ≠ p.faultId) → exec (.faultLogRead h p) s = .next (s.complete h .badLength 0)) ∧
    (∀ older r newer, s.log.recs = older ++ r :: newer →
      (p.faultId = 0 ∧ r.read = false ∧ (∀ e ∈ older, e.read = true)) ∨
        (p.faultId ≠ 0 ∧ r.id = p.faultId ∧ ∀ e ∈ older, e.id ≠ p.faultId) →
      let bs := r.header ++ r.body.flatten
      let u : State := { s with log := { s.log with recs := s.log.recs.map fun e => if e = r then { e with read := true } else e } }
      exec (.faultLogRead h p) s = .next
        ((if (bs.take p.length).isEmpty then u
          else u.send (.hostWrite (s.funcOf h.ctx) (s.pasidOf h.ctx) p.buffer (bs.take p.length) true)).complete h
          (if p.length < bs.length then .donePartial else .done) (bs.take p.length).length))

/-- A CTX_CREATE of a number from 1 that names no context, of an enabled function with a free slot, a legal stack and a legal save
area creates the context with its fields, partners and nothing else of its own, drops its quota and completes with DONE. A
CTX_RESUME of a context that does not run performs the context reset and completes with DONE; a CTX_DESTROY performs it too,
removes the context with its rings, windows, streams, jobs and cached translations and completes with DONE. After the context
reset the context is not faulted, holds no program, no held fault, no lane and no STOP_AT count, its 64 counters per core read 0,
no channel is occupied, every line is at generation 0 with nobody arrived, it keeps its pages, and no stream or job of it is left.
(R182, R363, R374, R375, R379; derived) -/
def Obligations.ContextsAreCreatedAndCleared : Prop :=
  ((∀ (h : CmdHdr) (p : CtxCreateP) (s : State), s.starts h (.ctxCreate p) → 0 < p.ctx → p.ctx < 4096 → s.ctx? (ctxOf p.ctx) = none →
    s.funcEnabled p.func = true → (∀ e ∈ s.ctxs, p.func ≠ 0 → ¬ (e.2.func = p.func ∧ e.2.vfSlot = p.vfSlot)) → (p.func = 0 → p.vfSlot = 0) →
    p.stackBase % 2097152 = 0 → 1 ≤ p.stackSize → p.stackSize ≤ 8192 → p.stackBase + 16 * (p.stackSize * 2 ^ 23) ≤ 2 ^ 48 → s.saveAreaOk p = true →
    exec (.ctxCreate h p) s = .next
      (((s.modHbm fun m => { m with quotas := m.quotas.filter fun q => q.1 ≠ p.ctx }).putCtx (ctxOf p.ctx)
        { Ctx.fresh with func := p.func, vfSlot := p.vfSlot, pasid := if p.pasidEn then some p.pasid else none, srKey := p.srKey,
                         stackBase := p.stackBase, stackSize := p.stackSize * 2 ^ 23, stackMask := p.stackMask, saveOff := p.saveOff,
                         saveSize := p.saveSize, partner := allDies.map fun d => (d.val, (d.val + 8) % 16) }).complete h .done 0)) ∧
  (∀ (h : CmdHdr) (c : Nat) (x : Ctx) (s : State), s.starts h (.ctxResume c) → ctxOf c ≠ 0 → s.namesIdle c x →
    exec (.ctxResume h c) s = .next ((s.resetCtx (ctxOf c)).complete h .done 0)) ∧
  (∀ (h : CmdHdr) (c : Nat) (x : Ctx) (s : State), s.starts h (.ctxDestroy c) → ctxOf c ≠ 0 → s.namesIdle c x →
    exec (.ctxDestroy h c) s = .next ((s.removeCtx (ctxOf c)).complete h .done 0) ∧
    ∃ t, exec (.ctxDestroy h c) s = .next t ∧ t.ctx? (ctxOf c) = none ∧ (∀ r, t.host.ring? (ctxOf c) r = none) ∧ t.events? (ctxOf c) = none ∧
      (∀ w ∈ t.host.windows, w.2.ctx ≠ ctxOf c) ∧ (∀ k ∈ t.media.streams, k.ctx ≠ ctxOf c) ∧ (∀ j ∈ t.media.jobs, j.ctx ≠ ctxOf c) ∧
      (∀ b, ∀ e ∈ (t.bed b).tlb, e.1 ≠ ctxOf c))) ∧
  (∀ (h : CmdHdr) (c : Nat) (x : Ctx) (s : State), s.starts h (.ctxResume c) → ctxOf c ≠ 0 → s.namesIdle c x →
    ∃ t y, exec (.ctxResume h c) s = .next t ∧ t.ctx? (ctxOf c) = some y ∧ y.faulted = false ∧ y.exec = none ∧ y.saved = none ∧ y.held = [] ∧
      y.lanes = [] ∧ y.stops = [] ∧ (∀ k j, y.counter k j = 0) ∧ (∀ k ∈ y.channels, k.occ = 0) ∧
      (∀ l ∈ y.lines, l.2.gen = false ∧ l.2.arrived = [] ∧ l.2.broken = false) ∧ y.pages = x.pages ∧
      (∀ k ∈ t.media.streams, k.ctx ≠ ctxOf c) ∧ ∀ j ∈ t.media.jobs, j.ctx ≠ ctxOf c)

/-- A CTX_RUN that starts while no context runs and no other switch is in progress answers a state in which its context runs; of the
running context it completes with DONE at once. A CTX_PREEMPT of the running context without a program and with room to save
answers a state in which none runs and the context's save count has grown by one. (R377, R384, R393, R394; derived) -/
def Obligations.SwitchingContexts : Prop :=
  (∀ (h : CmdHdr) (c : Nat) (x : Ctx) (s : State), s.startsAnew h (.ctxRun c) → s.switchBusy h = false → ctxOf c ≠ 0 → s.names c x →
    (s.running = none → ∃ t, exec (.ctxRun h c) s = .next t ∧ t.running = some (ctxOf c)) ∧
    (s.running = some (ctxOf c) → exec (.ctxRun h c) s = .next (s.complete h .done 0))) ∧
  (∀ (h : CmdHdr) (c : Nat) (scratch : Bool) (x : Ctx) (s : State), s.startsAnew h (.ctxPreempt c scratch) → s.switchBusy h = false →
    ctxOf c ≠ 0 → s.names c x → s.running = some (ctxOf c) → x.exec = none → saveNeed false scratch ≤ x.saveSize →
    ∃ t y, exec (.ctxPreempt h c scratch) s = .next t ∧ t.running = none ∧ t.ctx? (ctxOf c) = some y ∧ y.saveCount = x.saveCount + 1 ∧
      y.saved = none)

/-- COUNTER_SET writes the counter of a context that does not run; BARRIER_CONFIG sets or removes the line of such a context when the
mask has count participants and none is fenced; STOP_AT stores or clears the count of a queue of a context without a program; an
EXEC of the running context whose container passes its checks loads the queues; RESUME_FAULT of a held fault of a context that
does not run records the answer. Each completes as stated. (R160, R181, R182, R190, R226, R365, R374, R466; derived) -/
def Obligations.ProgramCommandsComplete : Prop :=
  (∀ (h : CmdHdr) (p : CounterSetP) (x : Ctx) (s : State), s.starts h (.counterSet p) → s.namesIdle p.ctx x →
    exec (.counterSet h p) s = .next ((s.putCtx (ctxOf p.ctx) (x.setCounter p.core p.counter p.value.toNat)).complete h .done 0) ∧
    (x.setCounter p.core p.counter p.value.toNat).counters = sset 0 x.counters (64 * p.core.val + p.counter.val) p.value) ∧
  (∀ (h : CmdHdr) (p : BarrierConfigP) (x : Ctx) (s : State), s.starts h (.barrierConfig p) → s.namesIdle p.ctx x →
    popcount p.mask 68 = p.count → (∀ d : DieId, field p.mask (4 * d.val) 4 ≠ 0 → s.fenced (.c d) = false) →
    (∀ m : BedId, bit p.mask (64 + m.val) = true → s.fenced (.m m) = false) →
    let ls := if p.mask = 0 then assocDel p.line.val x.lines else assocSet p.line.val ⟨p.mask, p.count, false, [], [], false, []⟩ x.lines
    exec (.barrierConfig h p) s = .next ((s.putCtx (ctxOf p.ctx) { x with lines := ls }).complete h .done 0)) ∧
  (∀ (h : CmdHdr) (p : StopAtP) (x : Ctx) (s : State), s.starts h (.stopAt p) → s.names p.ctx x → x.exec = none → x.saved = none →
    (p.clear = false ∨ p.count = 0) →
    ∃ t y, exec (.stopAt h p) s = .next t ∧ t.ctx? (ctxOf p.ctx) = some y ∧ t.cores = s.cores ∧
      y.stops = (if p.clear = true then assocDel (4 * p.core.val + p.queue.val) x.stops
        else assocSet (4 * p.core.val + p.queue.val) p.count x.stops)) ∧
  (∀ (h : CmdHdr) (p : ExecP) (env : Env) (x : Ctx) (bs : List Byte) (prog : Program) (s u : State), s.starts h (.exec p) → ctxOf p.ctx ≠ 0 →
    s.names p.ctx x → x.exec = none → x.faulted = false → s.running = some (ctxOf p.ctx) → s.firstExec h (ctxOf p.ctx) = true →
    s.preempting (ctxOf p.ctx) = false → s.readContainer (ctxOf p.ctx) env p.container = .ok (bs, u) → u.loadProgram x p.container bs = .ok prog →
    exec (.execProgram h p env) s = .next (u.beginProgram (ctxOf p.ctx) h p prog)) ∧
  (∀ (h : CmdHdr) (p : ResumeFaultP) (x : Ctx) (f : HeldFault) (c : CoreId) (q : QueueId) (tag : Word32) (s : State),
    s.starts h (.resumeFault p) → s.namesIdle p.ctx x → x.held.find? (fun f => f.id == p.faultId) = some f → f.by_ = .op c q tag →
    exec (.resumeFault h p) s = .next ((s.putCtx (ctxOf p.ctx)
      { x with held := x.held.map fun (e : HeldFault) => if e.id = f.id then { e with answer := some p.endIt } else e }).complete h .done 0))

/-- NOP, FENCE, TIMESTAMP, QUERY, COUNTER_SET, BARRIER_CONFIG, RING_MAP, GRAD_CONFIG, TILE_FORMAT, SHUFFLE_CONFIG, MAP, FAULT_LOG_READ
and PARTNER_SET leave every core, scratchpad, bed, the fabric, the media block, the dies, the power manager, the security
processor, the clocks, the pins, the debug block and the queue unchanged, and which context runs. (R361, R182, R190, R227, R375;
derived) -/
def Obligations.HostCommandsKeepTheCores : Prop :=
  ∀ (h : CmdHdr) (s t : State),
    ((∃ c, (c = .nop h ∨ (∃ a, c = .fence h a) ∨ (∃ p, c = .query h p) ∨ c = .timestamp h ∨ (∃ p, c = .counterSet h p) ∨
        (∃ p, c = .barrierConfig h p) ∨ (∃ p, c = .ringMap h p) ∨ (∃ p, c = .gradConfig h p) ∨ (∃ p, c = .tileFormat h p) ∨
        (∃ p, c = .shuffleConfig h p) ∨ (∃ p, c = .map h p) ∨ (∃ p, c = .faultLogRead h p) ∨ (∃ p, c = .partnerSet h p)) ∧
      exec c s = .next t)) →
    t.cores = s.cores ∧ t.slices = s.slices ∧ t.beds = s.beds ∧ t.fabric = s.fabric ∧ t.media = s.media ∧ t.dies = s.dies ∧ t.pw = s.pw ∧
    t.sec = s.sec ∧ t.clk = s.clk ∧ t.pins = s.pins ∧ t.dbg = s.dbg ∧ t.pending = s.pending ∧ t.running = s.running ∧ t.fuses = s.fuses

/-- stackPc gives the stack and the pseudo-channel of R211; with the slot and the byte they determine the bed offset below 192 GiB,
every position of the bed is reached, and 192 consecutive tiles that start at a multiple of 64 tiles occupy all 192
pseudo-channels once. (R211) -/
def Obligations.BedMapIsABijection : Prop :=
  let place := fun (o : Nat) => (stackPc o, field o 18 18, o % 4096)
  (∀ o, o < bedBytes → stackPc o =
    ((field o 36 2 + field o 18 18) % 3, (o / 4096 % 64) ^^^ (field o 18 18 % 64) ^^^ (field o 18 18 / 64 % 64) ^^^ (field o 18 18 / 4096 % 64))) ∧
  (∀ a b, a < bedBytes → b < bedBytes → place a = place b → a = b) ∧
  (∀ st pc slot byte, st < 3 → pc < 64 → slot < 2 ^ 18 → byte < 4096 → ∃ o, o < bedBytes ∧ place o = ((st, pc), slot, byte)) ∧
  (∀ t, t % 64 = 0 → (t + 192) * 4096 ≤ bedBytes → ∀ st pc, st < 3 → pc < 64 → ∃! i, i < 192 ∧ stackPc ((t + i) * 4096) = (st, pc))

/-- A region offset x of the device-wide region lies on the bed and at the bed offset that R212 computes, and 768 consecutive tiles
that start at a multiple of 768 tiles occupy all 768 pseudo-channels of the device once. Two device physical addresses in
populated ranges that name the same bed and bed offset are equal: bed-local and device-wide addresses never alias. (R210, R212;
derived) -/
def Obligations.DeviceWideRunsCoverEveryChannel : Prop :=
  ((∀ units x, x < 2 ^ 40 → placeOf units (2 ^ 40 + x) =
    (field x 12 2 ^^^ field x 20 2 ^^^ field x 28 2, dwStart units + x / 4096 / 4 * 4096 + x % 4096)) ∧
  (∀ units k, units ≤ 255 → (768 * k + 768) * 4096 ≤ units * (3 * 2 ^ 30) →
    ∀ b st pc, b < 4 → st < 3 → pc < 64 →
      ∃! i, i < 768 ∧ (placeOf units (2 ^ 40 + (768 * k + i) * 4096)).1 = b ∧
        stackPc (placeOf units (2 ^ 40 + (768 * k + i) * 4096)).2 = (st, pc))) ∧
  (∀ units a b, units ≤ 255 → a < 2 ^ 41 → b < 2 ^ 41 → populated units a = true → populated units b = true →
    placeOf units a = placeOf units b → a = b)

/-- A write of bytes to HBM that succeeds, in a state whose memory is in canonical form, keeps the canonical form, makes the bytes
read back, leaves every other byte as it was and touches nothing but HBM. (R210, R213, R236; derived) -/
def Obligations.HbmReadsWhatWasWritten : Prop :=
  ∀ (s t : State) (b o : Nat) (bs : List Byte) (whole : Bool), Memory.wf s.hbm.mem = true → s.hbmWrite b o bs whole = some t →
    Memory.wf t.hbm.mem = true ∧ readBytes t.hbm.mem (hbmKey b o) bs.length = bs ∧
    (∀ a, (a < hbmKey b o ∨ hbmKey b o + bs.length ≤ a) → sget 0 t.hbm.mem a = sget 0 s.hbm.mem a) ∧
    SameBlock s t ∧ t.host = s.host ∧ t.out = s.out

/-- A MAP that starts, is aligned, within the address spaces and has no reason to be refused maps its pages in order, as many as the
device region has room for, and completes with their number: DONE, or DONE_PARTIAL where fewer fit. An UNMAP whose range splits no
page and whose pages are neither pinned nor in use removes every page it touches from the context and from every translation cache
and completes with DONE and their number; then every address of its range meets the reason not mapped, for every kind of access.
(R218, R220, R221, R222, R224, R507; derived) -/
def Obligations.MapAndUnmapComplete : Prop :=
  ((∀ (h : CmdHdr) (p : MapP) (x : Ctx) (s : State), s.starts h (.map p) → s.names p.ctx x → p.vaddr % MapP.size p = 0 → p.target % MapP.size p = 0 → p.vaddr + p.count * MapP.size p ≤ 2 ^ 48 →
    (p.far = true → p.target + p.count * MapP.size p ≤ 2 ^ 64) →
    let s1 := s.modHbm fun m => { m with locked := true }
    s1.mapReason (ctxOf p.ctx) x p = none →
    let m := min p.count (Config.mapRoom s.hbm.devSize ((s.ctxs.map fun e => e.2.pages.length).sum))
    let ps := (List.range m).map (MapP.page p)
    exec (.map h p) s = .next (((s1.putCtx (ctxOf p.ctx) { x with pages := ps.foldl (fun l q => insertPage q l) x.pages }).sealPages (ctxOf p.ctx) x ps).complete h
      (if m < p.count then .donePartial else .done) m)) ∧
  (∀ (h : CmdHdr) (p : RangeP) (x : Ctx) (s : State), s.startsAnew h (.unmap p) → s.names p.ctx x → p.vaddr % 65536 = 0 → p.length % 65536 = 0 →
    p.vaddr + p.length ≤ 2 ^ 48 →
    (∀ q ∈ x.pagesIn p.vaddr p.length, p.vaddr ≤ q.vaddr ∧ q.vaddr + q.size ≤ p.vaddr + p.length ∧ s.pinned (ctxOf p.ctx) q = false ∧
      s.translating (ctxOf p.ctx) q = false) →
    exec (.unmap h p) s = .next ((((s.putCtx (ctxOf p.ctx) { x with pages := x.pages.filter fun q => decide (q ∉ x.pagesIn p.vaddr p.length) }).toScrub (ctxOf p.ctx)
      (x.pagesIn p.vaddr p.length)).dropEntries (ctxOf p.ctx) fun v => (x.pagesIn p.vaddr p.length).any fun q => q.vaddr == v).complete h .done
      (x.pagesIn p.vaddr p.length).length))) ∧
  (∀ (h : CmdHdr) (p : RangeP) (x : Ctx) (s t : State), s.startsAnew h (.unmap p) → s.names p.ctx x → p.vaddr % 65536 = 0 → p.length % 65536 = 0 →
    p.vaddr + p.length ≤ 2 ^ 48 →
    (∀ q ∈ x.pagesIn p.vaddr p.length, p.vaddr ≤ q.vaddr ∧ q.vaddr + q.size ≤ p.vaddr + p.length ∧ s.pinned (ctxOf p.ctx) q = false ∧
      s.translating (ctxOf p.ctx) q = false) →
    exec (.unmap h p) s = .next t →
    ∀ v a, p.vaddr ≤ v → v < p.vaddr + p.length → t.xlate (ctxOf p.ctx) v a = .error .notMapped)

/-- A COPY within its limits, of data that may leave its context, and a FILL within its limits stay in progress and open a transfer of
their length from offset 0. An EVICT of whole 2 MiB ranges of a context that does not run and has no job, sealed or pinned page
opens the transfer of the first HBM page of its range, and completes with DONE and 0 pages where there is none. Where the copies
of the control state that carries the command out disagree, it ends with INTERNAL_ERROR and a record of class C instead. The
acknowledgement of the last destination of a COPY or FILL completes it with DONE and its length; that of a page of an EVICT maps
the page to the far tier and opens the next page. (R206, R224, R230, R234, R257, R352, R364, R428, R431; derived) -/
def Obligations.TransfersOfCommandsComplete : Prop :=
  (∀ (h : CmdHdr) (p : CopyP) (x : Ctx) (s : State), s.starts h (.copy p) → s.names p.ctx x → p.src % 64 = 0 → p.dst % 64 = 0 →
    p.length % 64 = 0 → 1 ≤ p.length → p.length ≤ 2 ^ 40 - 64 → p.src + p.length ≤ (if p.srcHost then 2 ^ 64 else 2 ^ 48) →
    p.dst + p.length ≤ (if p.dstHost then 2 ^ 64 else 2 ^ 48) →
    (p.srcHost = false → s.anySealed x p.src p.length = true → p.dstHost = false ∧ ∀ q ∈ x.pagesIn p.dst p.length, q.far = false) →
    (x.ideRequired = true → (p.srcHost = true → s.ideCovers p.src = true) ∧
      (p.srcHost = false → ∀ q ∈ x.pagesIn p.src p.length, q.far = true → s.ideCovers (q.target + (max p.src q.vaddr - q.vaddr)) = true)) →
    exec (.copy h p false) s = .next ((s.start h (.copy p)).openCmd (ctxOf p.ctx) (.copy h p) p.length) ∧
    exec (.copy h p true) s = .next (s.cmdCheck h (ctxOf p.ctx) 0x0A 31)) ∧
  (∀ (h : CmdHdr) (p : FillP) (x : Ctx) (s : State), s.starts h (.fill p) → s.names p.ctx x → p.dst % 64 = 0 →
    p.length % 64 = 0 → 1 ≤ p.length → p.length ≤ 2 ^ 40 - 64 → p.dst + p.length ≤ 2 ^ 48 →
    exec (.fill h p false) s = .next ((s.start h (.fill p)).openCmd (ctxOf p.ctx) (.fill h p) p.length) ∧
    exec (.fill h p true) s = .next (s.cmdCheck h (ctxOf p.ctx) 0x0A 31)) ∧
  (∀ (h : CmdHdr) (p : EvictP) (x : Ctx) (s : State), s.starts h (.evict p) → s.namesIdle p.ctx x →
    p.vaddr % 2097152 = 0 → p.length % 2097152 = 0 → p.vaddr + p.length ≤ 2 ^ 48 → p.target + p.length ≤ 2 ^ 64 → s.hasJob (ctxOf p.ctx) = false →
    s.anySealed x p.vaddr p.length = false → (∀ q ∈ x.pagesIn p.vaddr p.length, s.pinned (ctxOf p.ctx) q = false) →
    let u := s.start h (.evict p)
    (∀ q, x.pages.find? (fun q => !q.far && decide (p.vaddr ≤ q.vaddr) && decide (q.vaddr < p.vaddr + p.length)) = some q →
      exec (.evict h p false) s = .next (u.openCmd (ctxOf p.ctx) (.evict h p q.vaddr 0 0) q.size)) ∧
    ((∀ q ∈ x.pages, q.far = false → p.vaddr ≤ q.vaddr → p.vaddr + p.length ≤ q.vaddr) → exec (.evict h p false) s = .next (u.complete h .done 0)) ∧
    exec (.evict h p true) s = .next (s.cmdCheck h (ctxOf p.ctx) 0x03 (16 + s.regionBed.val))) ∧
  (∀ (i k d : Nat) (n : CtxId) (h : CmdHdr) (s : State) (x : Xfer), s.clocked = true → s.fabric.vc4[i]? = some (.ack k n d) → s.xfer? k = some x →
    (∀ e ∈ x.stations, e = d ∨ e ∈ x.got) →
    let v := (s.modFabric fun f => { f with vc4 := f.vc4.eraseIdx i }).dropXfer x.id
    (∀ p, x.kind = .copy h p → exec (.transferCompletionAck i) s = .next (v.complete h .done x.len)) ∧
    (∀ p, x.kind = .fill h p → exec (.transferCompletionAck i) s = .next (v.complete h .done x.len)) ∧
    (∀ p page done moved, x.kind = .evict h p page done moved →
      let far := fun (q : Page) => if q.vaddr = page then { q with far := true, ns := false, at_ := false, target := p.target + (page - p.vaddr) } else q
      exec (.transferCompletionAck i) s = .next (((v.modCtx x.ctx fun y => { y with pages := y.pages.map far }).dropEntries x.ctx fun v => v == page).evictFrom
        h x.ctx p (page + x.len) (done + 1) (moved + x.len))))

/-- What a FILL supplies for a tile is its pattern in little-endian order, over and over; a first tile of 64 bytes whose page is
cached and lies in HBM goes from the command front end to its place with these bytes. When a tile of a command that has issued all
its tiles stands at its controller and the write finds no error, TAG_RELEASE makes its bytes read back; every other byte of HBM
keeps its value, and no core or scratchpad changes. (R206, R213, R364; derived) -/
def Obligations.FillStoresThePattern : Prop :=
  (∀ pat n i : Nat, pat < 2 ^ 32 → i < n → leNat ((patternBytes pat (4 * n)).drop (4 * i) |>.take 4) = pat) ∧
  (∀ (h : CmdHdr) (p : FillP) (s : State) (n : CtxId) (x : Xfer) (q : Page) (b : BedId) (o : Nat), x = s.newXfer n (.fill h p) .fp32 none 64 0 →
    (s.ctxD n).pageAt p.dst = some q → p.dst + 64 ≤ q.vaddr + q.size → (n, q.vaddr) ∈ (s.bed s.regionBed).tlb → s.xlate n p.dst .write = .ok (.hbm b.val o) →
    (s.addXfer x).issuePiece none x = some ((s.addXfer x).addPiece [] x 64 (.front (patternBytes p.pattern 64)) .front (.hbm b o))) ∧
  (∀ (b k : BedId) (stack : Fin 3) (pc : Fin 64) (o : Nat) (s : State) (t : Tag) (x : Xfer) (p : Piece), s.clocked = true → Memory.wf s.hbm.mem = true →
    (s.bed b).tags.find? (fun t => t.stack == stack && t.pc == pc && s.atController t) = some t → t.wr = true → s.xfer? t.xfer = some x →
    x.cmd?.isSome = true → x.next = x.total → x.fault = none → x.piece? t.seq = some p → p.dst = .hbm k o → p.st = .writing →
    o % 4096 + p.data.length ≤ 4096 → s.hbmReadable k.val o = true → s.hbm.groupLost k.val o = false →
    ∃ w, exec (.tagRelease b stack pc .clean) s = .next w ∧ readBytes w.hbm.mem (hbmKey k.val o) p.data.length = p.data ∧
      (∀ a, (a < hbmKey k.val o ∨ hbmKey k.val o + p.data.length ≤ a) → sget 0 w.hbm.mem a = sget 0 s.hbm.mem a) ∧
      w.cores = s.cores ∧ w.slices = s.slices)

/-- An AGE_SCAN that starts, over all contexts or an existing one, with a buffer size that is a multiple of 8, raises the age of every
frame by 1 up to 255. It writes one 8-byte entry for each 2 MiB range of its contexts whose age reaches the threshold, by
descending age, then context, then address, as many as the buffer holds, and completes with their number: DONE, or DONE_PARTIAL
where some did not fit. Nothing else happens. (R232, R233; derived) -/
def Obligations.AgeScanAgesEveryFrame : Prop :=
  ∀ (h : CmdHdr) (p : AgeScanP) (s : State), s.starts h (.ageScan p) → p.size % 8 = 0 → (p.all = true ∨ (s.ctx? (ctxOf p.ctx)).isSome = true) →
    let u := s.modHbm fun m => { m with scans := m.scans + 1 }
    (∀ f, sget 0 s.hbm.touched f ≤ s.hbm.scans → u.hbm.age f = min 255 (s.hbm.age f + 1)) ∧
    ∃ l : List (Nat × Nat × Nat),
      (∀ e, e ∈ l ↔ ∃ c ∈ s.ctxs, (p.all = true ∨ c.1 = ctxOf p.ctx) ∧ e ∈ u.ageEntries c.1 c.2 p.threshold) ∧
      l.Pairwise (fun a b => b.1 < a.1 ∨ (a.1 = b.1 ∧ (a.2.1 < b.2.1 ∨ (a.2.1 = b.2.1 ∧ a.2.2 ≤ b.2.2)))) ∧
      let bs := (l.take (p.size / 8)).flatMap fun e => leBytes 8 (e.2.1 + 2 ^ 12 * e.2.2 + 2 ^ 39 * e.1)
      exec (.ageScan h p) s = .next ((if bs = [] then u else u.send (.hostWrite (s.funcOf h.ctx) (s.pasidOf h.ctx) p.buffer bs true)).complete h
        (if p.size / 8 < l.length then .donePartial else .done) (min (p.size / 8) l.length))

/-- While BAR 0 takes writes and nothing has been locked, a write of a legal value to MEM_DWI_SIZE, MEM_DEVREG_BASE or MEM_DEVREG_SIZE
takes effect. Once locked, with no device-wide region lost, the write only sets CFG_LOCKED. (R219, R237; derived) -/
def Obligations.MemoryConfigurationLocks : Prop :=
  ∀ (v : Word32) (s : State), s.regsOpen = true →
    (s.hbm.locked = false → field v.toNat 0 9 < 256 → devRegionOk (field v.toNat 0 9) s.hbm.devBase s.hbm.devSize = true →
      exec (.memConfigWrite .dwiSize v) s = .next (s.modHbm fun h => { h with dwi := field v.toNat 0 9 })) ∧
    (s.hbm.locked = false → devRegionOk s.hbm.dwi (field v.toNat 0 19) s.hbm.devSize = true →
      exec (.memConfigWrite .devregBase v) s = .next (s.modHbm fun h => { h with devBase := field v.toNat 0 19 })) ∧
    (s.hbm.locked = false → devRegionOk s.hbm.dwi s.hbm.devBase (field v.toNat 0 14) = true →
      exec (.memConfigWrite .devregSize v) s = .next (s.modHbm fun h => { h with devSize := field v.toNat 0 14 })) ∧
    (s.hbm.locked = true → s.hbm.dwLost = false →
      ∀ r, exec (.memConfigWrite r v) s = .next (s.modHbm fun h => { h with cfgLocked := true }))

/-- While the device runs, is not frozen and a sealed part waits, FRAME_SCRUB zeroes every waiting part of that frame and unseals it;
a byte outside these parts keeps its value. (R413; derived) -/
def Obligations.FrameScrubZeroes : Prop :=
  ∀ (s : State) (k : Nat) (ks : List Nat), s.clk.booted = true → s.clk.inReset = false → s.clk.tripped = false → s.dbg.frozen = false →
    Memory.wf s.hbm.mem = true → s.hbm.scrubbing = k :: ks →
    ∃ t, exec .frameScrub s = .next t ∧ SameBlock s t ∧ t.host = s.host ∧ t.out = s.out ∧
      (∀ j ∈ s.hbm.scrubbing, j / 128 = k / 128 → j ∉ t.hbm.scrubbing ∧ (∀ e ∈ t.hbm.sealedFrames, e.1 ≠ j) ∧
        ∀ i, i < 16384 → sget 0 t.hbm.mem (hbmKey (j / 2 ^ 24) (j % 2 ^ 24 * 16384) + i) = 0) ∧
      (∀ a, (∀ j ∈ s.hbm.scrubbing, j / 128 = k / 128 →
          a < hbmKey (j / 2 ^ 24) (j % 2 ^ 24 * 16384) ∨ hbmKey (j / 2 ^ 24) (j % 2 ^ 24 * 16384) + 16384 ≤ a) →
        sget 0 t.hbm.mem a = sget 0 s.hbm.mem a)

/-- On an operational device that is not frozen, of a function that has agreed an interface, a 32-bit write below the ring's entry
count to offset 0, 8 or 16 of a doorbell of a configured ring that is not in error sets the submission tail, the completion head
or the event head. While the function has agreed no interface the write is dropped with reason 1, and DOORBELL_DROP grows by one.
(R344, R350, R360, R371, R372; derived) -/
def Obligations.DoorbellsMoveTheirIndices : Prop :=
  ∀ (w : DoorbellWrite) (c : CtxId) (s : State), s.bellExists w = true → s.host.configReady = true → s.clk.inReset = false → s.clk.tripped = false →
    s.dbg.frozen = false → s.host.operational = true →
    (s.host.agreed.get (Fin.ofNat 64 w.func) ≠ 0 → w.width = 4 → s.pageCtx w.func w.page = some c →
      (∀ r, s.host.ring? c (Fin.ofNat 64 w.bell) = some r → r.err = false →
        (w.off = 0 → w.value % 2 ^ 16 < ringEntries r.sqLog →
          exec (.doorbellSqTail w) s = .next (s.putRing c (Fin.ofNat 64 w.bell) { r with sqTail := w.value % 2 ^ 16 })) ∧
        (w.off = 8 → w.value % 2 ^ 16 < ringEntries r.cqLog →
          exec (.doorbellCqHead w) s = .next (s.putRing c (Fin.ofNat 64 w.bell) { r with cqHead := w.value % 2 ^ 16 }))) ∧
      (∀ r, s.events? c = some r → r.err = false → w.off = 16 → w.bell = 0 → w.value % 2 ^ 16 < ringEntries r.log →
        exec (.doorbellEventHead w) s = .next (s.modHost fun h => { h with events := assocSet c { r with head := w.value % 2 ^ 16 } h.events }))) ∧
    (s.host.agreed.get (Fin.ofNat 64 w.func) = 0 →
      exec (.doorbellSqTail w) s = .next (s.dropBell w 1) ∧ exec (.doorbellCqHead w) s = .next (s.dropBell w 1) ∧
      exec (.doorbellEventHead w) s = .next (s.dropBell w 1) ∧
      (s.dropBell w 1).host.drops.get (Fin.ofNat 64 w.func) = min (2 ^ 32 - 1) (s.host.drops.get (Fin.ofNat 64 w.func) + 1))

/-- A RING_CONFIG that starts with legal fields configures an unconfigured ring pair, or an event ring, with heads and tails 0 and
phase 1, pinned to the pages of its rings in HBM, which have to be mapped there, and completes with DONE. A disable of an event
ring, or of a pair that is not configured, completes with DONE; a disable of a configured pair with no command fetched but itself
stops its fetches and removes it. On a serving device a fetch from a ring takes the whole packet of 1 to 16 entries between head
and tail, where an entry can be reserved and every read is good; where a read fails the ring enters error. A failed read of a ring
pair or of an event ring sets its error, RING_ERR_LAST and INT_STATUS.RING. A flush writes the backlog in order while the event
ring has room, and an EVENTS_LOST record for drops once nothing waits. (R232, R348, R349, R350, R351, R354, R355, R373, R392,
R507; derived) -/
def Obligations.RingEventsComplete : Prop :=
  (∀ (h : CmdHdr) (p : RingConfigP) (x : Ctx) (s : State), s.startsAnew h (.ringConfig p) → s.names p.ctx x → p.ring < 64 →
    (ctxOf p.ctx ≠ 0 ∨ p.ring ≠ 0 ∨ p.event = true) →
    let n := ctxOf p.ctx
    let u := s.modHbm fun m => { m with locked := true }
    (∀ a b, p.disable = false → p.event = false → p.vector < (if s.funcOf n = 0 then 2048 else 32) → p.sqBase % 4096 = 0 → p.cqBase % 4096 = 0 →
      s.host.ring? n (Fin.ofNat 64 p.ring) = none → (if p.sqHbm then u.ringPages n p.sqBase (2 ^ (12 + p.sqLog)) .hbmRead else .ok []) = .ok a →
      (if p.cqHbm then u.ringPages n p.cqBase (2 ^ (12 + p.cqLog)) .write else .ok []) = .ok b →
      exec (.ringConfig h p) s = .next ((u.putRing n (Fin.ofNat 64 p.ring)
        { sqLog := p.sqLog, cqLog := p.cqLog, sqHbm := p.sqHbm, cqHbm := p.cqHbm, vector := p.vector, irqEn := p.irqEn, sqBase := p.sqBase, cqBase := p.cqBase,
          sqHead := 0, sqTail := 0, cqHead := 0, cqTail := 0, reserved := 0, phase := true, err := false, closing := none, closingAdmin := false,
          pins := a ++ b }).complete h .done 0)) ∧
    (∀ b, p.disable = false → p.event = true → p.vector < (if s.funcOf n = 0 then 2048 else 32) → p.cqBase % 4096 = 0 → s.events? n = none →
      (if p.cqHbm then u.ringPages n p.cqBase (2 ^ (12 + p.cqLog)) .write else .ok []) = .ok b →
      exec (.ringConfig h p) s = .next ((u.modHost fun i => { i with events := (assocSet n
        { log := p.cqLog, hbm := p.cqHbm, vector := p.vector, irqEn := p.irqEn, base := p.cqBase, head := 0, tail := 0, phase := true, err := false,
          pins := b } i.events) }).complete h .done 0)) ∧
    (p.disable = true → p.event = true → exec (.ringConfig h p) s =
      .next ((u.modHost fun i => { i with events := i.events.filter fun e => e.1 ≠ n }).complete h .done 0)) ∧
    (p.disable = true → p.event = false → s.host.ring? n (Fin.ofNat 64 p.ring) = none → exec (.ringConfig h p) s = .next (u.complete h .done 0)) ∧
    (∀ r, p.disable = true → p.event = false → s.host.ring? n (Fin.ofNat 64 p.ring) = some r → r.closing = none → r.closingAdmin = false →
      (∀ f ∈ s.host.fetched, f.on n (Fin.ofNat 64 p.ring) = true → f.hdr = h) →
      ∃ t, exec (.ringConfig h p) s = .next t ∧ t.host.ring? n (Fin.ofNat 64 p.ring) = none)) ∧
  (∀ (c : CtxId) (ring : Fin 64) (env : Env) (r : Ring) (s : State), s.live = true → s.host.ring? c ring = some r → r.err = false → r.closing = none →
    r.closingAdmin = false → 1 ≤ r.waiting → r.canReserve = true →
    (∀ first bs, s.readEntries c r env 1 0 = .ok first → 1 ≤ fieldAt first 2 1 % 32 → fieldAt first 2 1 % 32 ≤ min 16 r.waiting →
      s.readEntries c r env (fieldAt first 2 1 % 32) 0 = .ok bs →
      exec (.commandFetch c ring env) s = .next ((s.touchEntries c r (fieldAt first 2 1 % 32)).takePacket c ring r (fieldAt first 2 1 % 32) bs)) ∧
    (∀ addr st, s.readEntries c r env 1 0 = .error (addr, st) →
      exec (.commandFetch c ring env) s = .next (s.ringFails c (.pair ring) st addr))) ∧
  (∀ (c : CtxId) (st : Status) (addr : Nat) (s : State), s.live = true → (st = .farTierError ∨ st = .farTierTimeout ∨ st = .uncorrectableData) →
    (∀ ring r, s.host.ring? c ring = some r → ∃ t, exec (.ringError c (.pair ring) st addr) s = .next t ∧ t.host.ring? c ring = some { r with err := true } ∧
      t.host.ringErrLast = c.val + 2 ^ 12 * ring.val + 2 ^ 31 ∧ bit t.host.intStatus 2 = true) ∧
    (∀ r, s.events? c = some r → ∃ t, exec (.ringError c .event st addr) s = .next t ∧ t.events? c = some { r with err := true } ∧
      t.host.ringErrLast = c.val + 2 ^ 12 * 63 + 2 ^ 31 ∧ bit t.host.intStatus 2 = true)) ∧
  (∀ (c : CtxId) (x : Ctx) (r : EventRing) (s : State), s.live = true → s.ctx? c = some x → s.events? c = some r → r.err = false → x.backlog.length ≤ 64 →
    r.tail < ringEntries r.log → r.head < ringEntries r.log →
    let n := ringEntries r.log
    let free := n - 1 - (r.tail + n - r.head) % n
    let k := min free x.backlog.length
    let more := if x.backlog.length < free ∧ x.lost ≠ 0 then 1 else 0
    ∃ t y w, exec (.eventBacklogFlush c) s = .next t ∧ t.ctx? c = some y ∧ t.events? c = some w ∧ y.backlog = x.backlog.drop k ∧
      y.lost = (if more = 1 then 0 else x.lost) ∧ w.tail = (r.tail + k + more) % n ∧ w.head = r.head)

/-- Taking a packet of k entries moves the fetch head by k and reserves one entry. A one-block packet whose opcode is NOP with every
other bit but sequence number, irq and fence 0 waits as the NOP of that header; one with a reserved opcode completes with
BAD_OPCODE; a packet of a context other than 0 with an opcode of context 0 only, such as POWER_POLICY, completes with
ACCESS_DENIED. (R353, R354, R355, R361; derived) -/
def Obligations.FetchedPacketWaitsOrFails : Prop :=
  ∀ (c : CtxId) (r : Fin 64) (x : Ring) (s : State) (seq : Word32) (irq fence : Bool),
    let pkt := fun (op : Nat) => leBytes 64 (op + 2 ^ 16 + 2 ^ 24 * bitOf irq + 2 ^ 25 * bitOf fence + 2 ^ 32 * seq.toNat)
    let h : CmdHdr := ⟨c, r, seq, irq, fence⟩
    let s1 := s.putRing c r { x with sqHead := (x.sqHead + 1) % ringEntries x.sqLog, reserved := x.reserved + 1 }
    s.takePacket c r x 1 (pkt 0x001) = (s1.modHost fun i => { i with fetched := i.fetched ++ [⟨h, .nop, false⟩] }) ∧
    s.takePacket c r x 1 (pkt 0x7FF) = s1.complete h .badOpcode ∧
    (c ≠ 0 → s.takePacket c r x 1 (pkt 0x600) = s1.complete h .accessDenied)

/-- While BAR 0 takes writes, a write of REQUESTED of an enabled function without a configured ring stores it and agrees the lower of
it and 1; with a ring configured the write is ignored. (R347; derived) -/
def Obligations.InterfaceIsNegotiated : Prop :=
  ∀ (f : Fin 64) (v : Nat) (s : State), s.funcEnabled f.val = true → s.regsOpen = true →
    (s.funcHasRing f.val = false → ∃ t, exec (.ifaceNegotiate f v) s = .next t ∧ SameBlock s t ∧ t.host.requested.get f = v % 256 ∧
      t.host.agreed.get f = min (v % 256) 1 ∧ ∀ g, g ≠ f → t.host.agreed.get g = s.host.agreed.get g) ∧
    (s.funcHasRing f.val = true → exec (.ifaceNegotiate f v) s = .next s)

/-- Raising a bit of INT_STATUS that is 0 sets it and no other bit, and sends the message of INT_VECTOR, unmasked, exactly where its
enable is 1; raising a bit that is 1 changes nothing. While BAR 0 takes writes, a write of INT_ENABLE stores its six bits. If it
enables a status bit that is set and was not enabled, and the vector is not masked, exactly one message of INT_VECTOR is sent; if
it enables no such bit, none is. (R372; derived) -/
def Obligations.DeviceInterruptsSendOneMessage : Prop :=
  (∀ (b : Nat) (s : State), b < 6 → s.host.intStatus < 64 →
    (bit s.host.intStatus b = true → s.raiseInt b = s) ∧
    (bit s.host.intStatus b = false → (s.host.msixEntry 0 s.host.intVector).ctl.getLsbD 0 = false →
      (∀ k, bit (s.raiseInt b).host.intStatus k = (bit s.host.intStatus k || decide (k = b))) ∧
      (s.raiseInt b).out = if bit s.host.intEnable b then .msix 0 s.host.intVector :: s.out else s.out)) ∧
  (∀ (v : Word32) (s : State), s.regsOpen = true →
    ∃ t, exec (.intEnable v) s = .next t ∧ SameBlock s t ∧ t.hbm = s.hbm ∧ t.host.intEnable = v.toNat % 64 ∧ t.host.intStatus = s.host.intStatus ∧
      ((∀ b, b < 6 → bit v.toNat b = true → bit s.host.intStatus b = true → bit s.host.intEnable b = true) → t.out = s.out) ∧
      ((∃ b, b < 6 ∧ bit v.toNat b = true ∧ bit s.host.intStatus b = true ∧ bit s.host.intEnable b = false) →
        (s.host.msixEntry 0 s.host.intVector).ctl.getLsbD 0 = false → t.out = .msix 0 s.host.intVector :: s.out))

/-- While BAR 0 takes writes: BAR4_WIN_LO commits the selected window of a context of the function; ADMIN_CFG with ENABLE configures
ring pair 0.0 and without it starts its disable; RELOCK locks debug; LATCH copies the counters and counts; CLEAR_PEAK clears the
peaks; HIST_SEL clears its histogram; TEL_CTL.LATCH takes the snapshot; DBG_COPY_GO starts a copy; and a REGISTER_WRITE of 32 bits
to LAG_THRESH stores its field and, split in two, so does one of 64 bits; a write of another width or alignment changes nothing.
(R10, R343, R371, R373, R422, R457, R459, R467, R468, R489; derived) -/
def Obligations.RegisterWritesTakeEffect : Prop :=
  ∀ (v : Word32) (s : State), s.regsOpen = true →
    (field s.host.winSel 0 19 * 2097152 < s.bar4Size (field s.host.winSel 19 6) →
      (∃ x, s.ctx? (ctxOf (field s.host.winHi 16 12)) = some x ∧ x.func = field s.host.winSel 19 6) →
      let w : Window := ⟨bit v.toNat 0, bit v.toNat 1, field s.host.winHi 0 16 * 2 ^ 32 + field v.toNat 21 11 * 2097152, ctxOf (field s.host.winHi 16 12)⟩
      exec (.bar4WinLo v) s = .next (s.modHost fun h =>
        { h with windows := assocSet (field s.host.winSel 19 6, field s.host.winSel 0 19) w h.windows })) ∧
    (bit s.host.adminCfg 31 = false → bit v.toNat 31 = true → s.host.ring? 0 0 = none →
      ∃ t r, exec (.adminRingEnable v) s = .next t ∧ SameBlock s t ∧ t.host.ring? 0 0 = some r ∧ r.sqHead = 0 ∧ r.sqTail = 0 ∧ r.cqTail = 0 ∧ r.phase = true ∧
        r.sqBase = s.host.adminSq ∧ r.cqBase = s.host.adminCq ∧ r.err = false ∧ bit t.host.adminCfg 31 = true) ∧
    (∀ r, bit s.host.adminCfg 31 = true → bit v.toNat 31 = false → s.host.ring? 0 0 = some r → r.closing = none →
      (∀ f ∈ s.host.fetched, f.on 0 0 = false) →
      ∃ t, exec (.adminRingDisable v) s = .next t ∧ SameBlock s t ∧ t.host.ring? 0 0 = none ∧ bit t.host.adminCfg 31 = false) ∧
    (bit v.toNat 0 = true → exec (.relock v) s = .next { s with sec := { s.sec with locked := true, scope := 0, relocked := true } }) ∧
    (∃ t, exec .latch s = .next t ∧ t.dbg.latchSeq = (s.dbg.latchSeq + 1) % 2 ^ 32 ∧ (∀ c : CoreId, t.dbg.shadow.cores.get c = (s.core c).ctr) ∧
      t.cores = s.cores ∧ t.beds = s.beds) ∧
    (∃ t, exec .clearPeak s = .next t ∧ ∀ b : BedId, (t.bed b).stats.peak = 0 ∧ (t.bed b).stats.unschedPeak = 0 ∧ (t.bed b).stats.capEv = (s.bed b).stats.capEv) ∧
    (∀ b : BedId, ∃ t, exec (.histSel b v) s = .next t ∧ (t.bed b).stats.hist = List.replicate 16 0 ∧ (t.bed b).histSel = v.toNat % 512) ∧
    (bit v.toNat 0 = true → ∃ t, exec (.telLatch v) s = .next t ∧ t.pw.telSeq = (s.pw.telSeq + 1) % 2 ^ 32 ∧ t.pw.fresh = true ∧ t.pw.snap = s.pw.tele) ∧
    (bit v.toNat 0 = true → s.dbg.copyBusy = false → exec (.dbgCopyGo v) s = .next { s with dbg := { s.dbg with copyBusy := true } }) ∧
    exec (.registerWrite 0 0x30020 4 v.toNat) s = .next { s with log := { s.log with lagThresh := v.toNat % 65536 } } ∧
    exec (.registerWrite 0 0x30020 8 v.toNat) s = .next { s with log := { s.log with lagThresh := v.toNat % 65536 } } ∧
    (∀ (f : Fin 64) (off width n : Nat), s.funcEnabled f.val = true → off < (if f = 0 then 2 ^ 26 else 2 ^ 16) →
      ¬ (width = 4 ∧ off % 4 = 0) → ¬ (width = 8 ∧ off % 8 = 0) → exec (.registerWrite f off width n) s = .next s)

/-- A freeze request of each source freezes the device with that source, where configuration space is ready, no reset is asserted, the
device is neither frozen nor in debug mode and, for the register, BAR 0 takes writes. Before CONFIG_READY or in a reset the
request is ignored, and during a freeze or in debug mode it has no effect; the security state plays no part. (R460) -/
def Obligations.FreezeAndThaw : Prop :=
  ∀ (src : FreezeSrc) (s : State),
    (s.host.configReady = true → s.clk.inReset = false → s.clk.tripped = false → s.dbg.frozen = false → s.dbg.debugMode = false →
      (src = .register → s.regsOpen = true) →
      ∃ t, exec (.freezeReq src) s = .next t ∧ t.dbg = { s.dbg with frozen := true, source := src.code, frozenAt := t.timeNs, held := s.i3cLive } ∧ SameCompute s t ∧
        t.sec = s.sec ∧ t.host = s.host) ∧
    (s.host.configReady = false ∨ s.clk.inReset = true ∨ s.dbg.frozen = true ∨ s.dbg.debugMode = true → exec (.freezeReq src) s = .next s)

/-- A THAW by the register or by JTAG of a frozen device answers a state that is not frozen and in debug mode, in which no context of
those sealed before remains, and the context that still runs is faulted. (R417, R465; derived) -/
def Obligations.ThawEntersDebugMode : Prop :=
  ∀ (src : FreezeSrc) (s : State), src ≠ .pin → s.dbg.frozen = true →
    ∃ t, exec (.thaw src) s = .next t ∧ t.dbg.frozen = false ∧ t.dbg.debugMode = true ∧
      (∀ e ∈ s.ctxs, e.2.sealing.isSome = true → t.ctx? e.1 = none) ∧
      (∀ n x, t.running = some n → t.ctx? n = some x → x.faulted = true)

/-- While frozen, READOUT sends the asked bytes of its region, and the slice and the plates of a die read 0 while the running context
is sealing or sealed. The I3C port sends the asked bytes of the telemetry image on a device that is powered. A read of TEL_SEQ
answers its value and clears FRESH. A snapshot copy that is busy ends with DONE set. None of the reads changes anything else.
(R463, R464, R489, R497; derived) -/
def Obligations.ReadPortsAnswer : Prop :=
  ∀ (s : State),
    (∀ r off len, s.dbg.frozen = true →
      exec (.readout r off len) s = .next (s.send (.readoutBytes ((List.range (min len (r.size - off))).map fun i => s.regionByte r (off + i))))) ∧
    (∀ d o, s.runSealed = true → s.regionByte (.slice d) o = 0 ∧ s.regionByte (.plates d) o = 0) ∧
    (∀ off len, s.clk.inReset = false → s.clk.inert = false → s.clk.tripped = false →
      exec (.i3cTelemetryRead off len) s = .next (s.send (.i3cBytes ((s.i3cImage.drop off).take len)))) ∧
    (s.host.configReady = true → s.clk.inReset = false → s.clk.tripped = false → s.dbg.frozen = false → s.clk.warming = false →
      exec .telSeqRead s = .next (({ s with pw := { s.pw with fresh := false } } : State).send (.readReply 0 (leBytes 4 s.pw.telSeq)))) ∧
    (s.dbg.copyBusy = true → s.clk.booted = true → s.clk.inReset = false → s.clk.warming = false → s.clk.tripped = false → s.dbg.frozen = false →
      ∃ t, exec .snapshotCopyEnd s = .next t ∧ t.dbg.copyBusy = false ∧ t.dbg.copyDone = true ∧ t.cores = s.cores ∧ t.slices = s.slices)

/-- On an operational device, an access that stays within 64 bytes and lies behind a valid window on a mapped HBM page of its context
that may be so accessed reads or writes those bytes. A read of an invalid window or unmapped page gets Unsupported Request and a
write is dropped, with PAGE_FAULT logged in BAR4_ERR. (R345, R346, R371; derived) -/
def Obligations.Bar4ReachesContextMemory : Prop :=
  ∀ (f : Fin 64) (off : Nat) (s : State), s.host.configReady = true → s.clk.inReset = false → s.clk.tripped = false → s.bar4Open = true →
    (∀ len b o, 1 ≤ len → off % 64 + len ≤ 64 → s.bar4Exists f.val off len = true → s.bar4At f.val off false = .ok (b, o) → s.hbmReadable b o = true →
      ∃ t, exec (.bar4Read f off len) s = .next t ∧ t.out = .readReply f.val (readBytes s.hbm.mem (hbmKey b o) len) :: s.out ∧ t.hbm.mem = s.hbm.mem ∧
        t.cores = s.cores ∧ t.slices = s.slices ∧ t.ctxs = s.ctxs) ∧
    (∀ bs b o u, 1 ≤ bs.length → off % 64 + bs.length ≤ 64 → s.bar4Exists f.val off bs.length = true → s.bar4At f.val off true = .ok (b, o) →
      s.hbmWrite b o bs false = some u → exec (.bar4Write f off bs) s = .next u) ∧
    (∀ len, 1 ≤ len → s.bar4Exists f.val off len = true → s.bar4At f.val off false = .error .pageFault →
      ∃ t, exec (.bar4Read f off len) s = .next t ∧ t.out.head? = some (.unsupported f.val) ∧ t.host.bar4Err = 0x200 + 2 ^ 16 * f.val + 2 ^ 31 ∧
        t.hbm.mem = s.hbm.mem) ∧
    (∀ bs : List Byte, 1 ≤ bs.length → s.bar4Exists f.val off bs.length = true → s.bar4At f.val off true = .error .pageFault →
      ∃ t, exec (.bar4Write f off bs) s = .next t ∧ t.host.bar4Err = 0x200 + 2 ^ 16 * f.val + 2 ^ 31 ∧ t.hbm.mem = s.hbm.mem)

/-- A device whose link is up answers CRS until configuration space is ready; then a write of a register of an enabled function is
kept and enabling VFs reports FRS for each. An FLR of an enabled VF destroys the contexts of that function, resets its registers
and reports FRS. An ATS invalidation of an enabled function is answered. (R340, R341, R342, R363, R487; derived) -/
def Obligations.ConfigurationAndFunctionReset : Prop :=
  ∀ (f : Fin 64) (s : State), s.clk.inReset = false → s.clk.inert = false → s.clk.tripped = false → s.clk.linkUp = true →
    (∀ q, s.host.configReady = false → exec (.configRequest f q) s = .next (s.send (.crs f.val))) ∧
    (∀ r v, s.host.configReady = true → s.funcEnabled f.val = true →
      exec (.configRequest f (.write r v)) s = .next (s.modHost fun h => { h with cfgRegs := assocSet (f.val, r) v h.cfgRegs })) ∧
    (f ≠ 0 → s.regsOpen = true → s.funcEnabled f.val = true →
      ∃ t, exec (.flr f) s = .next t ∧ t.out.head? = some (.frs f.val) ∧ (∀ e ∈ t.ctxs, e.2.func ≠ f.val) ∧ t.host.requested.get f = 0 ∧ t.host.agreed.get f = 0 ∧
        (∀ w ∈ t.host.windows, w.1.1 ≠ f.val) ∧ ∀ e ∈ t.host.msix, e.1.1 ≠ f.val) ∧
    (∀ p a n, s.host.configReady = true → s.dbg.frozen = false → s.funcEnabled f.val = true →
      exec (.atsInvalidation f p a n) s = .next (s.send (.invalidateDone f.val)))

/-- While the mailbox can be reached and no activation runs: GET_VERSION answers version 1.3 and starts the negotiation anew;
GET_CAPABILITIES answers capabilities; NEGOTIATE_ALGORITHMS takes the algorithms of R402 that are offered, and answers
UnsupportedRequest and takes nothing where none is; GET_DIGESTS answers the digest of the chain of slot 0; GET_CERTIFICATE a
portion of that chain, and InvalidRequest for another slot or beyond its end; CHALLENGE of slot 0 and, where the offer and the
point hold, KEY_EXCHANGE answer a message that ends in a signature by the alias key, the second with a new session of the shared
secret; GET_MEASUREMENTS answers the number of indices, the block of a present index or every block, signed by the alias key where
asked, and InvalidRequest for an absent index. During an activation each SPDM request answers ERROR Busy. Message layouts and
ERROR codes are the model's reading of SPDM 1.3 (log entry 53). (R399, R402, R403, R404; derived) -/
def Obligations.SpdmAnswersWithItsCommand : Prop :=
  (∀ (s : State), s.spdmOpen = true → s.host.updating = false →
    let signedBy := fun (t : State) (m : List Byte) => ∃ pre : List Byte,
      let sig := ecdsaSign s.sec.aliasKey (sha512 (pre ++ m))
      t.out = .spdm (m ++ (leBytes 66 sig.1).reverse ++ (leBytes 66 sig.2).reverse) :: s.out
    (exec .getVersion s = .next (({ s with sec := { s.sec with spdmVersion := true, spdmCaps := false, spdmAlgs := ⟨false, false, false, false⟩ } } : State).send
      (.spdm (leBytes 1 0x10 ++ leBytes 1 0x04 ++ zeros 3 ++ leBytes 1 1 ++ leBytes 2 0x1300)))) ∧
    (s.sec.spdmVersion = true → ∃ body, exec .getCapabilities s =
      .next (({ s with sec := { s.sec with spdmCaps := true } } : State).send (.spdm (spdmMsg 0x61 0 0 body)))) ∧
    (∀ a : SpdmAlgs, s.sec.spdmVersion = true → s.sec.spdmCaps = true →
      ((a.ecdsaP521 || a.sha512 || a.dheSecp521 || a.aesGcm256) = true → ∃ body, exec (.negotiateAlgorithms a) s =
        .next (({ s with sec := { s.sec with spdmAlgs := a } } : State).send (.spdm (spdmMsg 0x63 0 0 body)))) ∧
      ((a.ecdsaP521 || a.sha512 || a.dheSecp521 || a.aesGcm256) = false → exec (.negotiateAlgorithms a) s = .next (s.spdmError 7))) ∧
    (s.sec.negotiated = true → exec .getDigests s = .next (s.send (.spdm (spdmMsg 0x01 0 1 (leBytes 64 (sha512 s.certChain)))))) ∧
    (∀ slot off len, s.sec.negotiated = true →
      (slot = 0 → off < s.certChain.length → ∃ m, exec (.getCertificate slot off len) s = .next (s.send (.spdm m)) ∧ fieldAt m 1 1 = 0x02 ∧
        m.drop 8 = (s.certChain.drop off).take (min len 0xFFFF) ∧ fieldAt m 4 2 = (m.drop 8).length) ∧
      (slot ≠ 0 ∨ s.certChain.length ≤ off → exec (.getCertificate slot off len) s = .next (s.spdmError 1))) ∧
    (∀ nonce, s.sec.canSign = true → ∃ t r, exec (.challenge 0 nonce) s = .next t ∧ r.length = 32 ∧
      signedBy t (spdmMsg 0x03 0 1 (leBytes 64 (sha512 s.certChain) ++ r ++ leBytes 2 0)) ∧ t.sec.sessions = s.sec.sessions) ∧
    (∀ i signed nonce, (if signed then s.sec.canSign else s.sec.negotiated) = true →
      let wanted := if i = 0xFF then measurementIndices else if i = 0 then [] else [i]
      let blocks := wanted.flatMap fun k => measurementBlock k ((s.measurement k).getD [])
      ((∀ k ∈ wanted, (s.measurement k).isSome = true) → ∃ t r, exec (.getMeasurements i signed nonce) s = .next t ∧ r.length = 32 ∧
        let m := spdmMsg 0x60 (if i = 0 then measurementIndices.length else 0) 0
          (leBytes 1 wanted.length ++ leBytes 3 blocks.length ++ blocks ++ r ++ leBytes 2 0)
        (signed = false → t.out = .spdm m :: s.out) ∧ (signed = true → signedBy t m)) ∧
      (i ≠ 0 → i ≠ 0xFF → s.measurement i = none → exec (.getMeasurements i signed nonce) s = .next (s.spdmError 1))) ∧
    (∀ x y, s.sec.canSign = true → s.sec.spdmAlgs.dheSecp521 = true → s.sec.spdmAlgs.aesGcm256 = true → onP521 x y = true →
      ∃ t k body, exec (.keyExchange 0 x y) s = .next t ∧ signedBy t (spdmMsg 0x64 0 0 body) ∧
        t.sec.sessions = s.sec.sessions ++ [⟨s.sec.nextSession, false, ecdhShared k x y, 0⟩] ∧ t.sec.nextSession = s.sec.nextSession + 1)) ∧
  (∀ (c : Instr) (s : State), s.spdmOpen = true → s.host.updating = true →
    (c = .getVersion ∨ c = .getCapabilities ∨ (∃ a, c = .negotiateAlgorithms a) ∨ c = .getDigests ∨ (∃ i j k, c = .getCertificate i j k) ∨
      (∃ i j, c = .challenge i j) ∨ (∃ i j k, c = .getMeasurements i j k) ∨ (∃ i j k, c = .keyExchange i j k) ∨ (∃ i j, c = .finish i j) ∨
      (∃ i, c = .heartbeat i) ∨ (∃ i, c = .keyUpdate i) ∨ (∃ i, c = .endSession i) ∨ (∃ i m, c = .vendorDefinedRequest i m)) →
    exec c s = .next (s.spdmError 3))

/-- While the mailbox can be reached, no activation runs and algorithms are negotiated: FINISH of a session that is not established
and verifies establishes it; in an established session HEARTBEAT answers, KEY_UPDATE moves the session to its next key epoch,
END_SESSION removes it, and a VENDOR_DEFINED_REQUEST changes the IDE streams as its message says. K_SET_GO puts a key set of a
stream in use exactly when that set has a key in each direction; K_SET_STOP takes the stream out of use; programming a key never
makes more than 8 streams of 8 or fewer. (R402, R424; derived) -/
def Obligations.SpdmSessionsOpenAndClose : Prop :=
  (∀ (id : Nat) (n : Session) (s : State), s.spdmOpen = true → s.host.updating = false → s.sec.negotiated = true → s.sec.session? id = some n →
    (n.established = false → ∃ t, exec (.finish id true) s = .next t ∧ (∀ k ∈ t.sec.sessions, k.id = id → k.established = true) ∧
      t.sec.sessions.length = s.sec.sessions.length) ∧
    (n.established = true →
      exec (.heartbeat id) s = .next (s.send (.spdm (spdmMsg 0x68 0 0 []))) ∧
      (∃ t k, exec (.keyUpdate id) s = .next t ∧ t.sec.session? id = some k ∧ k.keyEpoch = n.keyEpoch + 1 ∧ k.secret = n.secret) ∧
      (∃ t, exec (.endSession id) s = .next t ∧ t.sec.session? id = none) ∧
      (∀ m, ∃ t, exec (.vendorDefinedRequest id m) s = .next t ∧ t.sec.ide = ideKm m s.sec.ide ∧ t.sec.sessions = s.sec.sessions))) ∧
  ((∀ (l : List IdeStream) (id : Nat) (set : Bool) (k : IdeStream), k ∈ l → k.id = id →
    (k.complete set = true → { k with active := some set } ∈ ideKm (.setGo id set) l) ∧
    (k.complete set = false → k ∈ ideKm (.setGo id set) l) ∧
    { k with active := none } ∈ ideKm (.setStop id) l) ∧
  (∀ (l : List IdeStream) (m : IdeKm), l.length ≤ 8 → (ideKm m l).length ≤ 8))

/-- A cold reset always leaves the device held in reset with an empty fault log and cleared memory; the fuses survive. A fundamental
reset does the same but keeps the fault records, their next identifier and the warm count. A write of RST_CTL with its key and
WARM on a running device with no activation resets it: contexts, rings and cores are gone, HBM contents and fault records stay,
RST_CAUSE is 2 and the warm count has grown by one up to 255. (R407, R433, R483, R484, R485, R486, R490; derived) -/
def Obligations.ResetsLeaveWhatTheyMust : Prop :=
  ∀ (s : State),
    (∃ t, exec .coldReset s = .next t ∧ t.clk.inReset = true ∧ t.log = FaultLog.reset ∧ t.hbm = Hbm.reset ∧ t.fuses = s.fuses ∧ t.cores = State.reset.cores ∧
      t.slices = State.reset.slices ∧ t.ctxs = State.reset.ctxs ∧ t.pending = s.pending) ∧
    (∃ t, exec .fundamentalReset s = .next t ∧ t.clk.inReset = true ∧ t.log.recs = s.log.recs ∧ t.log.nextId = s.log.nextId ∧ t.hbm = Hbm.reset ∧
      t.fuses = s.fuses ∧ t.clk.warmCount = s.clk.warmCount ∧ t.cores = State.reset.cores ∧ t.pending = s.pending) ∧
    (∀ v : Word32, s.regsOpen = true → field v.toNat 16 16 = 0x574D → bit v.toNat 0 = true → s.host.updating = false → s.host.operational = true →
      s.clk.halted = false →
      ∃ t, exec (.warmReset v) s = .next t ∧ t.hbm.mem = s.hbm.mem ∧ t.log.recs = s.log.recs ∧ t.log.nextId = s.log.nextId ∧ t.clk.cause = 2 ∧
        t.clk.warmCount = min 255 (s.clk.warmCount + 1) ∧ t.clk.warming = true ∧ t.ctxs = State.reset.ctxs ∧ t.host.rings = [] ∧ t.host.configReady = true ∧
        t.host.operational = false ∧ t.cores = State.reset.cores ∧ t.slices = State.reset.slices ∧ t.fuses = s.fuses ∧ t.pending = s.pending)

/-- START_UP without PG_EAS leaves the device inert; with every feed and a bank that verifies and whose SVN is not below the fused one
the device boots that bank. CONFIG_READY sends DRS once; HBM_READY sets READY and unseals every frame; OPERATIONAL, when all is
ready, sets OPERATIONAL, which needs the device to have booted. (R236, R341, R400, R413, R420, R473, R488; derived) -/
def Obligations.StartUpReachesOperation : Prop :=
  ∀ (s : State),
    (∀ env : BootEnv, s.clk.inReset = true → Feed.eas ∈ env.pgLow →
      exec (.startUp env) s = .next { s with clk := { s.clk with inReset := false, inert := true } }) ∧
    (∀ (env : BootEnv) (k : ImageInfo), s.clk.inReset = true → env.pgLow = [] → env.avsFail = [] →
      (if env.selector = 0 then env.bank0 else env.bank1) = some k → s.fuses.svn ≤ k.svn →
      ∃ t, exec (.startUp env) s = .next t ∧ t.clk.booted = true ∧ t.clk.inReset = false ∧ t.sec.running = some k ∧ t.sec.activeBank = env.selector.val ∧
        t.sec.fallback = false ∧ t.cores = s.cores ∧ t.slices = s.slices ∧ t.hbm = s.hbm) ∧
    (s.clk.inReset = false → s.clk.inert = false → s.clk.linkUp = true → s.host.configReady = false →
      exec .configReady s = .next ((s.modHost fun h => { h with configReady := true }).send .drs)) ∧
    (∀ env : TestEnv, s.clk.booted = true → s.clk.inReset = false → s.clk.tripped = false → s.hbm.ready = false → s.dbg.frozen = false →
      env.badStacks = [] →
      ∃ t, exec (.hbmReady env) s = .next t ∧ t.hbm.ready = true ∧ t.hbm.sealedFrames = [] ∧ t.hbm.scrubbing = [] ∧ SameBlock s t ∧ t.host = s.host) ∧
    (∀ env : TestEnv, s.clk.booted = true → s.clk.inReset = false → s.clk.tripped = false → s.clk.halted = false → s.dbg.frozen = false →
      s.host.configReady = true → s.hbm.ready = true → s.host.operational = false → env.badDies = [] →
      ∃ t, exec (.operational env) s = .next t ∧ t.host.operational = true ∧ t.clk.warming = false ∧ bit t.host.intStatus 0 = true ∧
        t.cores = s.cores ∧ t.hbm = s.hbm)

/-- On a device whose sensors run: a THERMAL_RATION of a die above TEMP_LIMIT raises its reduction by one, up to 15, and lowers the
allowance of each of its cores by one, down to 1; a STACK_OVERTEMP sets the stack's temperature; ALERT_N of a die at 110 °C or
more asserts the pin; a THERMAL_TRIP at 115 °C of a junction or 105 °C of a stack asserts THERMTRIP_N and stops the clocks, and
below it only the temperature changes. (R479, R489, R505; derived) -/
def Obligations.ThermalEventsAct : Prop :=
  ∀ (s : State), s.sensing = true → s.clk.booted = true →
    (∀ (d : DieId) (t0 : Nat), s.dbg.frozen = false → s.pw.tempLimit < t0 → ∃ t, exec (.thermalRation d t0) s = .next t ∧
      (t.die (.c d)).reduce = min 15 ((s.die (.c d)).reduce + 1) ∧ (t.die (.c d)).temp = t0 ∧
      (∀ c : CoreId, (t.core c).pw.allowance = if c.die = d then max 1 ((s.core c).pw.allowance - 1) else (s.core c).pw.allowance) ∧ t.slices = s.slices) ∧
    (∀ (n : Fin 12) (t0 : Nat), ∃ t, exec (.stackOvertemp n t0) s = .next t ∧ t.pw.stackTemp.get n = t0 ∧ t.slices = s.slices ∧ t.hbm = s.hbm) ∧
    (∀ (d : DieCode) (t0 : Nat), 110 ≤ t0 → ∃ t, exec (.alertN (.die d) t0) s = .next t ∧ t.pins.alert = true ∧ (t.die d).temp = t0 ∧ t.cores = s.cores) ∧
    (∀ (src : TempSrc) (t0 : Nat), (match src with | .stack _ => 105 | _ => 115) ≤ t0 →
      ∃ t, exec (.thermalTrip src t0) s = .next t ∧ t.pins = ⟨true, true⟩ ∧ t.clk.tripped = true ∧ t.clk.halted = true) ∧
    (∀ (src : TempSrc) (t0 : Nat), t0 < (match src with | .stack _ => 105 | _ => 115) → exec (.thermalTrip src t0) s = .next (s.setTemp src t0))

/-- A POWER_POLICY of 500 to 2,000 W sets the limit and lending, ends every loan where it disables lending, and completes with DONE. A
TELEMETRY_READ latches the snapshot if asked, writes the 1,024-byte image cut to its length and completes with DONE, or
DONE_PARTIAL for a shorter buffer, and the bytes written. An AVS_TRIM moves its rail by 5 mV within its range and no other, and
after four failures only sets AVS_ERR. A measurement replaces the telemetry and the temperatures of the dies and the easel and
changes no core. While lending is on, a core with nothing eligible, with no operation in progress but a transfer that it waits for
and with its cycles under a cause of R201 lends; a lending core with an eligible head starts to reclaim its share. (R201, R202,
R471, R475, R477, R489; derived) -/
def Obligations.PowerManagementActs : Prop :=
  ∀ (s : State),
    (∀ (h : CmdHdr) (p : PowerPolicyP), s.starts h (.powerPolicy p) → 500 ≤ p.limit → p.limit ≤ 2000 →
      let u : State := { s with pw := { s.pw with limitW := p.limit, lend := p.lend } }
      ∃ v, exec (.powerPolicy h p) s = .next (v.complete h .done) ∧ (p.lend = true → v = u) ∧
        (p.lend = false → v = { u with cores := v.cores } ∧
          ∀ c : CoreId, v.core c = { s.core c with pw := { (s.core c).pw with lending := false, reclaiming := false } })) ∧
    (∀ (h : CmdHdr) (p : TelemetryReadP), s.starts h (.telemetryRead p) →
      let u := if p.latch then s.latchTele else s
      let bs := u.teleImage.take p.length
      u.teleImage.length = 1024 ∧ (p.latch = true → u.pw.telSeq = (s.pw.telSeq + 1) % 2 ^ 32 ∧ u.pw.fresh = true ∧ u.pw.snap = s.pw.tele) ∧
      exec (.telemetryRead h p) s = .next ((if bs = [] then u else u.send (.hostWrite (u.funcOf h.ctx) (u.pasidOf h.ctx) p.buffer bs true)).complete h
        (if p.length < 1024 then .donePartial else .done) bs.length)) ∧
    (∀ (r : Rail) (up : Bool) (n : Nat), s.managing = true → ∃ t, exec (.avsTrim r up n) s = .next t ∧
      (4 ≤ n → t = { s with pw := { s.pw with avsErr := true } }) ∧
      (n < 4 → t.pw.railMv.get r.index =
        if up then (if s.pw.railMv.get r.index + 5 ≤ (Rail.range r).2 then s.pw.railMv.get r.index + 5 else s.pw.railMv.get r.index)
        else (if (Rail.range r).1 + 5 ≤ s.pw.railMv.get r.index then s.pw.railMv.get r.index - 5 else s.pw.railMv.get r.index)) ∧
      (∀ k, k ≠ r.index → t.pw.railMv.get k = s.pw.railMv.get k) ∧ t.cores = s.cores ∧ t.hbm = s.hbm) ∧
    (∀ m : Telemetry, s.managing = true → ∃ t, exec (.powerMeasure m) s = .next t ∧ t.pw.tele = m ∧ t.pw.easelTemp = m.easelTemp ∧
      (∀ (i : Fin 24) (v : Nat), m.dieTemp[i.val]? = some v → (t.dies.get i).temp = v ∧ (t.dies.get i).peak = max (s.dies.get i).peak v) ∧ t.cores = s.cores ∧
      t.hbm = s.hbm ∧ t.slices = s.slices) ∧
    (∀ (c : CoreId) n x e, s.acting c = some (n, x, e) → s.pw.lend = true → (s.core c).pw.lending = false → s.idleFor c x = true →
      exec (.powerLend c) s = .next (s.modCore c fun k => { k with pw := { k.pw with lending := true } })) ∧
    (∀ (c : CoreId) n x e, s.acting c = some (n, x, e) → (s.core c).pw.lending = true → ((s.core c).pick x c).isSome = true →
      exec (.powerReclaim c) s = .next (s.modCore c fun k =>
        { k.bankWaits s.timeNs true with pw := { (k.bankWaits s.timeNs true).pw with reclaiming := true } }))

/-- At an interval boundary whose budget is below one sixteenth for every computing core, every computing core gets the allowance 1
and LIMIT_UNMET is set. (R478) -/
def Obligations.BudgetIsSharedEvenly : Prop :=
  ∀ (s : State) (otherMw unitMw : Nat), s.managing = true → 0 < unitMw →
    (s.pw.limitW * 1000 - otherMw) * 16 / unitMw < (allCores.filter s.computing).length →
    ∃ t, exec (.controlInterval otherMw unitMw) s = .next t ∧ t.pw.limitUnmet = true ∧
      ∀ c : CoreId, s.computing c = true → (t.core c).pw.allowance = 1

/-- For n computing cores and a budget of t sixteenths with n ≤ t ≤ 16 n, every share of shareOf lies between 1 and 16, two shares
differ by at most one, and the shares add up to t, wherever the left-over sixteenths start. (R476, R477; derived) -/
def Obligations.AllowancesStayInRange : Prop :=
  ∀ n t r : Nat, 0 < n → n ≤ t → t ≤ 16 * n →
    (∀ i, i < n → 1 ≤ shareOf n t r i ∧ shareOf n t r i ≤ 16) ∧ (∀ i j, i < n → j < n → shareOf n t r i ≤ shareOf n t r j + 1) ∧
    ((List.range n).map (shareOf n t r)).sum = t

/-- DIE_FENCE of a die that is not fenced nor the bed of the device region fences it. SELF_TEST of an idle die that passes completes
with DONE. A DIE_RESET of a working die starts with the die not measured. A pending self-test that passes clears the pending test.
A single-bit find of PATROL_SCRUB counts a class A event. A CLASS_F_FAULT stops the device and asserts ALERT_N. FEED_LOSS and
CLOCK_FAILURE of a compute die fence it. PARTNER_SET of two dies of different beds sets the partner. (R430, R431, R432, R437,
R442, R444, R448, R481; derived) -/
def Obligations.DiesAreFencedAndTested : Prop :=
  ∀ (s : State),
    (∀ (h : CmdHdr) (d : DieCode), s.starts h (.dieFence d) → d ≠ .b s.regionBed → s.fenced d = false →
      ∃ t, exec (.dieFence h d) s = .next t ∧ t.fenced d = true) ∧
    (∀ (h : CmdHdr) (d : DieCode), s.starts h (.selfTest d) → s.fenced d = false → s.inUse d = false →
      exec (.selfTest h d .pass) s = .next (s.complete h .done 0)) ∧
    (∀ (h : CmdHdr) (d : DieCode) (r : TestResult), (∀ b, d ≠ .b b) → s.startsAnew h (.dieReset d) → s.fenced d = false →
      exec (.dieReset h d r) s = .next ((s.beginReset d).start h (.dieReset d)) ∧ ((s.beginReset d).die d).loaded = false) ∧
    (∀ (d : DieId) (id : Nat), s.powered = true → s.fenced (.c d) = false → (s.die (.c d)).testFor = some id →
      exec (.faultSelfTest (.c d) .pass) s = .next (s.modDie (.c d) fun k => { k with testFor := none })) ∧
    (∀ (d : DieId) (l : Nat), s.ticking = true → s.fenced (.c d) = false → l < 524288 → (∀ m ∈ (s.slice d).wet, m.line ≠ l) →
      exec (.patrolScrub d l .single) s = .next s.countA ∧ exec (.patrolScrub d l .clean) s = .next s ∧
      s.countA.log.countA = min (2 ^ 32 - 1) (s.log.countA + 1)) ∧
    (∀ src, s.powered = true → s.clk.halted = false → ∃ t, exec (.classFFault src) s = .next t ∧ t.clk.halted = true ∧ t.pins.alert = true ∧
      t.log.classF = true ∧ t.slices = s.slices ∧ t.hbm = s.hbm) ∧
    (∀ k : Fin 8, s.powered = true → ∃ t, exec (.feedLoss (.f k)) s = .next t ∧ t.pw.pgLost = true ∧ ∀ d ∈ Feed.dies (.f k), t.fenced d = true) ∧
    (∀ d : DieId, s.powered = true → ∃ t, exec (.clockFailure (.compute d)) s = .next t ∧ t.fenced (.c d) = true) ∧
    (∀ (h : CmdHdr) (p : PartnerSetP) (x : Ctx), s.starts h (.partnerSet p) → s.names p.ctx x → s.fenced (.c p.die) = false → s.fenced (.c p.partner) = false →
      p.die.bed ≠ p.partner.bed →
      exec (.partnerSet h p) s = .next ((s.putCtx (ctxOf p.ctx) { x with partner := assocSet p.die.val p.partner.val x.partner }).complete h .done 0))

/-- SEAL_OPEN of an unsealed context that does not run, with debug locked, every die measured and no shared or far writable page, puts
it in the sealing state and counts the open. A SEAL_LOAD of the kind its context's state takes, with a good header and the
context's owner or, for the first image, an owner key on the curve, runs its chunks: it completes with DONE where every tag holds
and the image is accepted, with ACCESS_DENIED where not, and halts where a read or a store fails. SEAL_CLOSE of a sealed context
that does not run leaves it unsealed. FW_STAGE of a whole image stages it where it verifies, and nothing where it does not, and
raises INT_STATUS.FW. FW_ACTIVATE of a staged image on an idle device starts the activation and ends every SPDM session.
DEBUG_UNLOCK step 0 keeps the challenge that it reports. (R406, R407, R416, R419, R421, R422, R423; derived) -/
def Obligations.SecurityCommandsComplete : Prop :=
  ∀ (h : CmdHdr) (s : State),
    (∀ (p : SealP) (x : Ctx), s.starts h (.sealOpen p) → ctxOf p.ctx ≠ 0 → s.namesIdle p.ctx x → x.sealing = none → s.sec.locked = true → x.grad.casc = none →
      (∀ q ∈ x.pages, q.far = false ∨ q.wr = false) → s.sharesFrame (ctxOf p.ctx) x = false → s.unmeasured = false → 512 ≤ p.length →
      ∃ t y k, exec (.sealOpen h p) s = .next t ∧ t.ctx? (ctxOf p.ctx) = some y ∧ y.sealing = some k ∧ k.st = .sealing ∧ k.owner = none ∧
        t.fuses.opens = s.fuses.opens + 1 ∧ t.cores = s.cores ∧ t.slices = s.slices) ∧
    (∀ (p : SealLoadP) (env : Env) (x : Ctx) (k : Seal) (hd : List Byte) (g : SealHdr),
      s.starts h (.sealLoad p) → s.names p.ctx x → x.sealing = some k → 256 ≤ p.length → env.read 0 256 = .ok hd → sealHdr hd p.length = .ok g →
      ((k.st == .sealing) = (g.kind == 0)) → (k.owner = some (g.qx, g.qy) ∨ (k.owner = none ∧ onP521 g.qx g.qy = true)) →
      let keys := if k.owner.isSome then (k.kLoad, k.kImp) else k.keys (ctxOf p.ctx) s.fuses.serial g.qx g.qy
      let r := s.loadChunks (ctxOf p.ctx) x env keys.1 hd g p.dst (chunkCount g.plain) 0 []
      exec (.sealLoad h p env) s = .next (match r.2.2 with
        | .ok text => (match r.1.acceptImage (ctxOf p.ctx) (r.1.ctxD (ctxOf p.ctx)) k g keys text with
          | some v => v.complete h .done r.2.1
          | none => r.1.complete h .accessDenied r.2.1)
        | .tag => r.1.complete h .accessDenied r.2.1
        | .far f => r.1.commandHalt h (ctxOf p.ctx) (.far f) (p.src + 256 + copyBytes r.2.1) false r.2.1
        | .halt e => r.1.commandHalt h (ctxOf p.ctx) e (p.dst + r.2.1) true r.2.1)) ∧
    (∀ (c : Nat) (x : Ctx), s.starts h (.sealClose c) → s.namesIdle c x → x.sealing.isSome = true →
      ∃ t y, exec (.sealClose h c) s = .next t ∧ t.ctx? (ctxOf c) = some y ∧ y.sealing = none ∧ (∀ q ∈ y.pages, q.far = true ∨ x.inOpen q.vaddr = true)) ∧
    (∀ (p : FwStageP) (env : Env) (bs : List Byte), s.starts h (.fwStage p) → p.length ≤ 2 ^ 25 → env.rdFail = none →
      env.read 0 p.length = .ok bs → fieldAt (padTo (min p.length 12) env.bytes) 8 4 = p.length →
      let u := ({ s with sec := { s.sec with staged := verifyImage bs s.fuses.svn } } : State).raiseInt intFw
      exec (.fwStage h p env) s = .next (u.complete h (if (verifyImage bs s.fuses.svn).isSome then .done else .accessDenied) 0) ∧
        bit u.host.intStatus 5 = true ∧ u.cores = s.cores ∧ u.ctxs = s.ctxs) ∧
    (∀ (b : Bool) (e : TestEnv), s.startsAnew h .fwActivate → s.sec.staged.isSome = true → s.anySealing = false → s.running = none →
      (∀ j ∈ s.media.jobs, j.st = .queued) →
      ∃ t, exec (.fwActivate h b e) s = .next t ∧ t.host.updating = true ∧ t.sec.sessions = [] ∧ t.sec.staged = s.sec.staged) ∧
    (∀ (p : DebugUnlockP) (env : Env), s.starts h (.debugUnlock p) → s.anySealing = false → p.present = false → 192 ≤ p.length →
      ∃ t bs, exec (.debugUnlock h p env) s = .next t ∧ t.sec.challenge = some bs ∧ bs.length = 192 ∧ t.sec.locked = s.sec.locked ∧ t.cores = s.cores)

/-- At a dispatch point of a free core that does not lend and has no wait on a lost owner, the eligible head of the picked queue
issues: where it has not run, its run begins, its program's raster is in effect and the channel that its signal fills, where there
is room, holds its increment; a released BARRIER ends a C-cycle later. A suspended operation goes on at its saved indices. A
SIGNAL and a WAIT in hand end 1 C-cycle after their issue, a STOP_MARK writes its mark and ends so. An operation that has done its
work leaves its queue, which counts it, and stays among the trailing ones until its completion; where STOP_AT or a halting
STOP_MARK says so its core is asked to stop. At the completion its marks clear and its signal leaves. A signal that arrives is
added to its counter; an ack takes its increment off the occupancy of its channel. Nothing else changes. Where a residue code or
duplicated control state of the core fails, the operation in hand ends with INTERNAL_ERROR instead. (R153, R163, R173, R181, R183,
R185, R189, R253; derived) -/
def Obligations.ControlOperationsComplete : Prop :=
  (∀ (c : CoreId) (dt : Nat) (s : State) (n : CtxId) (x : Ctx) (e : Exec) (q : QueueId) (d : Desc) (ds : List Desc),
    s.acting c = some (n, x, e) → s.current c = none → (s.core c).cur = none → (s.core c).pick x c = some q → (s.core c).pw.lending = false →
    (∀ k, ((s.core c).queue k).lostTo x c e.lost = false) → ((s.core c).queue q).ops = d :: ds →
    let at_ := max ((s.core c).cyc + dt) (s.core c).freeAt
    (∀ chan, chan = (if d.sigEn then findChan (fun h => h.full == d.sigCtr && h.consumer == d.sigCore) x.channels 0 else none) →
      ((s.core c).queue q).run = none → (∀ i h, chan = some (i, h) → h.occ + d.sigInc ≤ h.depth) →
      let w := if e.rasterOn then s else s.modCtx n fun y => { y with exec := some { e with rasterOn := true } }
      let v := match chan with
        | some (i, h) => w.modCtx n fun y => y.setChan i { h with occ := h.occ + d.sigInc }
        | none => w
      let r := Run.fresh (s.core c).nextOp at_ (x.counter c d.op.epochCtr)
      ∃ t, exec (.dispatch c dt) s = .next t ∧ (t.core c).cur = some q ∧ (t.core c).nextOp = (s.core c).nextOp + 1 ∧ (t.core c).cyc = at_ ∧
        ((∀ l, d.op ≠ .barrier l) → (t.core c).queue q = { (s.core c).queue q with run := some r, wait := .none, waitFrom := none }) ∧
        (∀ l, d.op = .barrier l → (t.core c).queue q =
          { (s.core c).queue q with run := some { r with outcome := some .ok, endAt := some (at_ + 1) }, wait := .none, waitFrom := none }) ∧
        (∀ k, k ≠ q → (t.core c).queue k = (s.core c).queue k) ∧ (t.core c).plates = (s.core c).plates ∧ OnlyCore v t c) ∧
    (∀ r, ((s.core c).queue q).run = some r →
      ∃ t, exec (.dispatch c dt) s = .next t ∧ (t.core c).cur = some q ∧ (t.core c).cyc = at_ ∧
        (t.core c).queue q = { (s.core c).queue q with wait := .none, waitFrom := none, run := some { r with
          issued := at_, first := true, lastEnd := at_, decided := [], leaveAt := none, fetch := false, suspended := false } } ∧
        (∀ k, k ≠ q → (t.core c).queue k = (s.core c).queue k) ∧ (t.core c).plates = (s.core c).plates ∧ OnlyCore (s.haltXfer r.xfer false) t c)) ∧
  (∀ (c : CoreId) (s : State) (u : Cur), u.run.endAt = none →
    (s.currentIs c .signal = some u → exec (.signal c) s = .next (s.endOp c u.q (u.run.issued + 1))) ∧
    (s.currentIs c .wait = some u → exec (.wait c) s = .next (s.endOp c u.q (u.run.issued + 1))) ∧
    (∀ p, s.currentIs c (.stopMark p) = some u →
      exec (.stopMark c p) s = .next ((s.modQueue c u.q fun q => { q with mark := p.mark }).endOp c u.q (u.run.issued + 1)))) ∧
  (∀ (c : CoreId) (s : State) (q : QueueId) (n : CtxId) (x : Ctx) (d : Desc) (ds : List Desc) (r : Run) (e : Nat),
    s.ticking = true → (s.core c).pw.reclaiming = false → (s.core c).cur = some q → s.runCtx = some (n, x) →
    ((s.core c).queue q).ops = d :: ds → ((s.core c).queue q).run = some r → r.outcome = some .ok → r.endAt = some e →
    let why := stopCause s x c q ((((s.core c).queue q).count + 1) % 2 ^ 32) d.op
    ∃ t, exec (.operationEnd c none) s = .next t ∧ (t.core c).cur = none ∧
      (t.core c).trailing = (s.core c).trailing ++ [⟨r.op, q, d, r.xfer, completionAt d.op r e⟩] ∧ ((t.core c).queue q).ops = ds ∧
      ((t.core c).queue q).run = none ∧ ((t.core c).queue q).count = (((s.core c).queue q).count + 1) % 2 ^ 32 ∧
      ((t.core c).queue q).index = ((s.core c).queue q).index + 1 ∧ (t.core c).ctr.ops = ((s.core c).ctr.ops + 1) % 2 ^ 48 ∧
      (t.core c).stopping = (why.isSome || (s.core c).stopping) ∧ (∀ k, why = some k → (t.core c).stopBy = some (q, k, d.opTag)) ∧
      (∀ k, k ≠ q → (t.core c).queue k = (s.core c).queue k) ∧ (t.core c).plates = (s.core c).plates ∧ OnlyCore s t c) ∧
  (∀ (c : CoreId) (s : State) (u : Cur) (f : CoreFault), s.current c = some u → CoreFault.meets f u.desc.op = true →
    exec (.operationEnd c (some f)) s = .next (s.failOp c u (u.info c .internalError (CoreFault.struct_ f) 0 true) [CoreFault.body f u.desc.opTag.toNat])) ∧
  (∀ (c : CoreId) (i : Nat) (s : State) (n : CtxId) (x : Ctx) (t : Trailing) (e : Nat),
    s.ticking = true → (s.core c).pw.reclaiming = false → (s.core c).trailing[i]? = some t → s.runCtx = some (n, x) → t.at_ = some e →
    (e ≤ (s.core c).cyc ∨ (s.core c).cur = none) →
    let u := (s.stallTo c 0 e).modCore c fun k => { (k.settle (max e k.cyc)) with trailing := k.trailing.eraseIdx i }
    exec (.operationCompletion c i) s = .next (((u.clearMarks c t.queue t.op).sendSignal n c t.desc).finishExec n)) ∧
  (∀ (i : Nat) (s : State) (n : CtxId) (x : Ctx) (k : Fin 64) (c : CoreId) (inc : Nat) (g : Option DieId) (b : Option CoreId),
    s.ticking = true → s.fabric.vc4[i]? = some (.signal n k c inc g b) → s.ctx? n = some x →
    let u := s.modFabric fun f => { f with vc4 := f.vc4.eraseIdx i }
    let y := x.setCounter c k (x.counter c k + inc)
    (findChan (fun h => h.ack == k && h.producer == c) x.channels 0 = none → exec (.signalArrival i) s = .next (u.putCtx n y)) ∧
    (∀ j h, findChan (fun h => h.ack == k && h.producer == c) x.channels 0 = some (j, h) → inc ≤ h.occ →
      exec (.signalArrival i) s = .next (u.putCtx n (y.setChan j { h with occ := h.occ - inc }))))

/-- A BARRIER at the head of its queue arrives at its unbroken line, or is held for the next generation it has no arrival for; a line
at which every participant has arrived toggles G, takes the re-entries of the new generation and releases its queues; where the
count of arrivals disagrees, its waiters end with BARRIER_BROKEN. A held read leaves when its line is clear. A wait past its
limit, measured in the time in which its program runs and its core is not frozen, sets its SYNC_STATUS bit and ends with
SYNC_TIMEOUT, a held read with HAZARD_WET_READ, and a record of every waiting queue. A core that is asked to stop stops once it
has nothing in flight, a program that is switched out parks its cores, and a program that stops for good ends its EXEC. (R179,
R191, R192, R193, R196, R197, R199, R200, R378, R380; derived) -/
def Obligations.BarriersAndWaitsComplete : Prop :=
  (∀ (c : CoreId) (q : QueueId) (s : State) (n : CtxId) (x : Ctx) (e : Exec) (d : Desc) (ds : List Desc) (l : LineId) (h : HatchLine),
    s.acting c = some (n, x, e) → ((s.core c).queue q).ops = d :: ds → ((s.core c).queue q).run = none → d.op = .barrier l →
    (((s.core c).queue q).wait = .none ∨ ((s.core c).queue q).wait = .counter) → x.met c d = true → x.line? l = some h → h.broken = false →
    bit h.mask c.val = true →
    (c.val ∉ h.arrived → exec (.barrier c q) s = .next ((s.putCtx n (x.setLine l { h with
        arrived := h.arrived ++ [c.val], times := h.times ++ [(c.val, s.timeNs)] })).modQueue c q fun w =>
      { w.beginWait .barrier s.regs.waitLimit s.timeNs with barGens := 0 })) ∧
    (c.val ∈ h.arrived →
      let ahead := (h.held.filter fun e => e.1 = c.val).length + 1
      exec (.barrier c q) s = .next ((s.putCtx n (x.setLine l { h with held := h.held ++ [(c.val, ahead)] })).modQueue c q fun w =>
        { w.beginWait .reentry s.regs.waitLimit s.timeNs with barGens := ahead }))) ∧
  (∀ (l : LineId) (s : State) (n : CtxId) (x : Ctx) (h : HatchLine), s.ticking = true → s.runCtx = some (n, x) → x.line? l = some h →
    h.mask ≠ 0 → h.broken = false → (∀ p ∈ participants h.mask, p ∈ h.arrived) →
    ∃ t y g, exec (.hatchRelease l false) s = .next t ∧ t.ctx? n = some y ∧ y.line? l = some g ∧ g.gen = (!h.gen) ∧ g.mask = h.mask ∧ g.broken = false ∧
      g.arrived = (h.held.filter fun e => e.2 = 1).map (fun e => e.1) ∧
      (∀ c q, (t.core c).queue q = ((s.core c).queue q).released l) ∧ t.slices = s.slices ∧ t.fabric = s.fabric ∧ t.running = s.running) ∧
  (∀ (l : LineId) (s : State) (n : CtxId) (x : Ctx) (h : HatchLine), s.ticking = true → s.runCtx = some (n, x) → x.line? l = some h →
    exec (.hatchRelease l true) s = .next (s.failWaiters n fun k => k == l)) ∧
  (∀ (c : CoreId) (dt : Nat) (s : State) (u : Cur) (line : Nat), s.current c = some u → ((s.core c).queue u.q).wait = .wet line →
    s.lineWet c ((s.core c).cyc + dt) line = false → (s.clearsAt c line ≠ [] → (s.core c).cyc + dt = (s.clearsAt c line).foldl max (s.core c).cyc) →
    exec (.wetLineClear c dt) s = .next ((s.stallTo c 15 ((s.core c).cyc + dt)).modQueue c u.q fun q =>
      { q with wait := .none, run := q.run.map fun r => { r with leaveAt := some ((s.core c).cyc + dt) } })) ∧
  (∀ (c : CoreId) (q : QueueId) (elapsed : Nat) (s : State) (n : CtxId) (x : Ctx) (e : Exec), s.acting c = some (n, x, e) →
    let w := (s.core c).queue q
    let limit := 100000 * w.waitLimit
    let v : State := { s with timeNs := (s.core c).timeOf s.timeNs w elapsed }
    limit < elapsed → elapsed ≤ limit + 10000 → min ((s.core c).measured s.timeNs w) (limit + 10000) ≤ elapsed → (v.waitEntry x c q).isSome = true →
    (∀ line u, w.wait = .wet line → s.current c = some u → u.q = q →
      exec (.waitTimeout c q elapsed) s = .next (v.failOp c u (u.info c .hazardWetRead 0x10 (128 * line)) (v.waitEntries x))) ∧
    ((∀ line, w.wait ≠ .wet line) →
      (∀ u, s.current c = some u → u.q = q →
        exec (.waitTimeout c q elapsed) s = .next ((v.setSync syncTimeout).failOp c u (u.info c .syncTimeout 0x10 0) (v.waitEntries x))) ∧
      ((∀ u, s.current c = some u → u.q ≠ q) →
        exec (.waitTimeout c q elapsed) s = .next ((v.setSync syncTimeout).failHead n c q .syncTimeout 0x10 (v.waitEntries x))))) ∧
  (∀ (s : State) (n : CtxId) (x : Ctx) (e : Exec), s.ticking = true → s.runCtx = some (n, x) → x.exec = some e →
    let on := inMap e.coreMap
    (e.stopSt.isSome = true → s.canQuiesce n on = true →
      exec .quiesce s = .next ((((allCores.filter on).foldl (fun s c => s.parkCore n c) s).dropFlow n).endExec n)) ∧
    (e.stopSt = none → s.preempting n = true → x.program = true → s.canQuiesce n on = true →
      exec .quiesce s = .next ((allCores.filter on).foldl (fun s c => s.parkCore n c) s)) ∧
    (e.stopSt = none → (s.preempting n && x.program) = false → ∀ one, one = (fun c => on c && (s.core c).stopping) → allCores.any one = true →
      s.canQuiesce n one = true →
      exec .quiesce s = .next ((allCores.filter one).foldl (fun s c => (s.quiesceCore n c).stopCore n c (stopQueue x (s.core c) c)) s)))

/-- Where no line that the operation touches is marked by another operation, a VEC in hand takes its next group of 256 elements (an
optimizer that a set skip flag passes over writes nothing and ends when its units would have), a GRAD_GATHER its next group, a ROW
of at most 16,384 elements its next row and a longer one the next chunk pass of its row: pass 1 leaves lane totals, pass 2 writes.
The slice of the core's die holds what the elements of the unit put there and nothing else changes in it; the operation's next
unit is the one after. No other slice, core, context or unit of the device changes. (R126, R130, R131, R150, R163, R169; derived) -/
def Obligations.UnitsOfVectorsAndRowsComplete : Prop :=
  let unit := fun (s t : State) (c : CoreId) (u : Cur) (puts : List Put) =>
    (t.slice c.die).mem = applyPuts (s.slice c.die).mem puts ∧ (((t.core c).queue u.q).run.map fun r => r.unit) = some (u.run.unit + 1) ∧
    (t.core c).plates = (s.core c).plates ∧ OnlyDie s t c
  (∀ (c : CoreId) (p : VecP) (s : State) (u : Cur), s.currentIs c (.vec p) = some u → u.run.endAt = none →
    let m := (s.slice c.die).mem
    let skips := VecFunc.isOpt p.func && p.skip && u.run.unit == 0 && wordAt m p.flagWord != 0
    let els := unitElems p.elems p.unitSize u.run.unit
    let step := if u.run.unit = 0 ∧ u.run.first = true then wordAt m p.stepCtr else u.run.stepCtr
    let vals := els.map fun n => (p.inp 0).word m (p.index n)
    let acc := if u.run.unit = 0 then (match vals with
      | [] => 0
      | v :: l => l.foldl f32Add v) else vals.foldl f32Add (nthD 0 (u.run.gather.getD 0 []) 0)
    (skips = false → (∀ g, u.run.unit ≤ g → g < p.units → s.dry c u (linesOf ((unitElems p.elems p.unitSize g).flatMap fun n => p.writes n))) →
      s.dry c u (linesOf ((if u.run.first then p.sideBytes else []) ++ els.flatMap fun n => p.reads n)) →
      (p.func = .scaleCommit → ∀ n ∈ els, recordOk (readBytes m ((p.inp 0).byteAt (p.index n)) 128) = true) →
      ∃ t, exec (.vec c p 1) s = .next t ∧ unit s t c u (els.flatMap fun n => p.puts m u.x.srKey u.run.epoch step acc n)) ∧
    (skips = true → s.dry c u (linesOf p.sideBytes) →
      exec (.vec c p 1) s = .next (s.endOp c u.q (u.run.leaveAt.getD u.run.issued + 52 + p.restCycles 0 + 24)))) ∧
  (∀ (c : CoreId) (p : GatherP) (s : State) (u : Cur), s.currentIs c (.gradGather p) = some u → u.run.endAt = none →
    let m := (s.slice c.die).mem
    let els := fun g => unitElems (GatherP.elems p) 256 g
    (∀ g, u.run.unit ≤ g → g < ceilDiv (GatherP.elems p) 256 → s.dry c u (linesOf ((els g).flatMap fun n => p.dst.destBytes (p.dst.indexFrom 0 n)))) →
    s.dry c u (linesOf ((els u.run.unit).flatMap fun n => ((List.range p.n).flatMap fun i => (GatherP.slotRec p i).touch (p.dst.indexFrom 0 n)) ++
      (if p.accumulate then p.dst.touch (p.dst.indexFrom 0 n) else []))) →
    ∃ t, exec (.gradGather c p 1) s = .next t ∧ unit s t c u ((els u.run.unit).flatMap fun n => gatherPut p m u.x.srKey u.run.epoch n)) ∧
  (∀ (c : CoreId) (p : RowP) (s : State) (u : Cur), s.currentIs c (.row p) = some u → u.run.endAt = none →
    let m := (s.slice c.die).mem
    let ch := rowChunks p.n
    let row := u.run.unit / (2 * ch)
    let j := u.run.unit % (2 * ch)
    (∀ k, u.run.unit ≤ k → k < 2 * ch * rowCount p → ch ≤ k % (2 * ch) → s.dry c u (linesOf (rowPassBytes p (k / (2 * ch)) (k % (2 * ch) - ch)))) →
    s.dry c u (linesOf (((rowChunk p.n (j % ch)).flatMap fun k => rowInBytes p row k) ++
      (if j < ch then [] else (rowOuts p).2.1.flatMap fun a => (rowChunk p.n (j % ch)).flatMap fun k => a.touch (a.indexFrom 0 k)))) →
    ∃ t k, exec (.row c p 1) s = .next t ∧ ((t.core c).queue u.q).run = some k ∧ (t.core c).plates = (s.core c).plates ∧ OnlyDie s t c ∧
      (p.n ≤ 16384 → j = 0 →
        let fin := rowFin p m row (rowPass1 p m row 0 Lanes.empty)
        let pass := rowPass2 p m row 0 fin Lanes.empty
        k.unit = u.run.unit + 2 ∧ (t.slice c.die).mem = applyPuts m (pass.1 ++ rowLast p row fin pass.2)) ∧
      (16384 < p.n → j < ch →
        let ls := rowPass1 p m row j (if j = 0 then Lanes.empty else u.run.stats)
        k.unit = u.run.unit + 1 ∧ (t.slice c.die).mem = m ∧ (j + 1 < ch → k.stats = ls) ∧ (j + 1 = ch → k.gather = [rowFin p m row ls])) ∧
      (16384 < p.n → ch ≤ j →
        let fin := u.run.gather.getD 0 []
        let pass := rowPass2 p m row (j - ch) fin u.run.stats
        k.unit = u.run.unit + 1 ∧ k.stats = pass.2 ∧
          (t.slice c.die).mem = applyPuts m (pass.1 ++ if j + 1 = 2 * ch then rowLast p row fin pass.2 else [])))

/-- Where no line that it reads is marked by another operation and its plate is free or its queue's own, a PRELOAD writes every
element of its source into its plate, zero elsewhere, and ends 308 cycles after its start with the plate free. A PULL whose plate
no longer shifts and whose walks can all issue leaves what they write in the slice and ends a cycle after its last issue, the
context stopping where the residue check of a row finds a mismatch. A bite of an OUTER whose vectors can be read and that passes
its checks, the last of a tile where no pull is attached too, is promoted into its plate and the bite after is next. A row of a
STYLUS within a group, whose vectors are those of the row before it and whose products pass their checks, adds one value per
vector to its group. Nothing else in HBM, the contexts and the other cores changes. (R65, R68, R71, R73, R80, R86, R96, R163;
derived) -/
def Obligations.PlatesAreLoadedPulledAndAccumulated : Prop :=
  (∀ (c : CoreId) (p : PreloadP) (s : State) (u : Cur), s.currentRun c (.preload p) = some u → u.run.endAt = none →
    let own := (s.core c).owner p.plate p.dword
    let st := ((s.core c).info own).st
    swf 0 (s.core c).plates = true → (st = .free ∨ st = .owned u.q) → p.plate < 8 → (p.dword = true → p.plate < 4) → p.src.count 0 ≤ 256 → p.src.count 1 ≤ 256 →
    (∀ r, r < p.src.count 1 → s.dry c u (linesOf ((List.range (p.src.count 0)).flatMap fun j => p.src.touch [j, r, 0, 0, 0, 0]))) →
    ∃ t k, exec (.preload c p) s = .next t ∧ ((t.core c).queue u.q).run = some k ∧ k.outcome = some .ok ∧ (t.core c).cyc = max (s.core c).cyc (k.endAt.getD 0) ∧
      u.run.leaveAt.getD u.run.issued + 308 ≤ k.endAt.getD 0 ∧
      (∀ i j, i < 256 → j < 256 → (t.core c).word p.plate i j =
        if i < p.src.count 1 ∧ j < p.src.count 0 then p.src.word (s.slice c.die).mem [j, i, 0, 0, 0, 0] % 2 ^ 32 else 0) ∧
      (∀ a i j, a < 8 → a ≠ p.plate → (p.dword = true → a ≠ p.plate + 4) → i < 256 → j < 256 → (t.core c).word a i j = (s.core c).word a i j) ∧
      (p.dword = true → ∀ i j, i < 256 → j < 256 → (t.core c).word (p.plate + 4) i j = 0) ∧ ((t.core c).info own).st = .free ∧
      OnlyCore s t c) ∧
  (∀ (c : CoreId) (p : PullP) (s : State) (u : Cur) (v : State) (e : Nat), s.currentRun c (.pull p) = some u → u.run.endAt = none →
    (let k := (s.core c).settle (u.run.leaveAt.getD u.run.issued)
     (k.info (k.owner (PullP.plateAt p u.run.unit) p.dword)).st ≠ .shifting) →
    s.pullLoop c u p (PullP.walks p - u.run.unit) u.run.unit (u.run.leaveAt.getD u.run.issued) = (v, none, e) →
    ∃ t, exec (.pull c p none) s = .next t ∧ (∀ g, (t.slice g).mem = (v.slice g).mem) ∧ (t.core c).plates = (v.core c).plates ∧
      (t.core c).plate = (v.core c).plate ∧ (((t.core c).queue u.q).run.bind fun r => r.endAt) = some (e + 1) ∧ OnlyDie s t c ∧
      (∀ i row, u.run.unit ≤ i → i < PullP.walks p →
        exec (.pull c p (some (i, row))) s = .next (t.residueFault c u p (PullP.plateAt p i) i row))) ∧
  (∀ (c : CoreId) (p : PullP) (s v : State) (u : Cur) (op plate : Nat) (walk : List Nat) (no t fetch : Nat), plate < 8 →
    s.pullPlate c u op p plate p.dword walk no t fetch = .ok v →
    let s1 := s.modCore c fun k => k.settle t
    let own := (s1.core c).owner plate p.dword
    let x := s1.pullIn c u.x p walk no u.run.epoch ((s1.core c).plateSrc p plate p.dword fetch)
    let m := applyPuts (s.slice c.die).mem x.allPuts
    (v.slice c.die).mem = (match p.recOut with
        | some a => writeBytes m a (mergeAmax (readBytes m a 128) x.absmax)
        | none => m) ∧
      (∀ i j, i < 256 → j < 256 → (v.core c).word plate i j = 0) ∧ ((v.core c).info own).st = .shifting ∧
      (v.core c).ctr.pulls = ((s.core c).ctr.pulls + 1) % 2 ^ 48 ∧ OnlyDie s v c) ∧
  (∀ (c : CoreId) (p : OuterP) (flt : Option ArrayFault) (s v : State) (u : Cur) (e : Nat) (as bs : List (List (Nat × Nat))) (w : Win)
      (cells : List (List Bite)) (top : Option Int), s.currentIs c (.outer p) = some u → u.run.endAt = none → u.run.unit < p.bites * p.tiles →
    s.biteReads c u p = .ok (v, e, as, bs) → ((u.run.unit + 1) % p.bites ≠ 0 ∨ p.att = none) →
    let plate := p.plateOf (u.run.unit / p.bites)
    let f := flt.bind fun f => if f.bite = 0 then some f else none
    ((p.bite as bs).decide f ((v.core c).info ((v.core c).owner plate p.dword)).pred).d = .promote w cells top →
    (((v.core c).queue u.q).run.map fun r => r.unit) = some u.run.unit →
    ∃ t, exec (.outer c p 1 ⟨flt, none⟩) s = .next t ∧ (t.core c).plates = ((v.core c).promote p plate as bs w cells).plates ∧
      (((t.core c).queue u.q).run.map fun r => r.unit) = some (u.run.unit + 1) ∧ (∀ g, (t.slice g).mem = (v.slice g).mem) ∧
      (((p.bite as bs).decide f ((v.core c).info ((v.core c).owner plate p.dword)).pred).margins = 0 → OnlyCore v t c)) ∧
  (∀ (c : CoreId) (p : StylusP) (s : State) (u : Cur), s.currentIs c (.stylus p) = some u → u.run.endAt = none → u.run.first = false →
    u.run.leaveAt = none → u.run.fetch = false → p.reloads u.run.unit = false → u.run.unit % 256 ≠ 255 → u.run.unit + 1 ≠ p.rows →
    let row := p.mat (s.slice c.die).mem u.run.unit
    let outs := ((s.core c).ports.vecReg.zip (List.range p.vectors)).map fun e =>
      stylusDot p.w.fmt p.v.fmt (ceilDiv p.k 32) row e.1 0 (u.run.preds.getD e.2 none) 0
    s.dry c u (linesOf ((List.range p.k).flatMap fun i => p.w.touch ((p.w.indexFrom 1 u.run.unit).set 0 i))) →
    outs.any Option.isNone = false →
    ∃ t k, exec (.stylus c p ⟨1, none⟩) s = .next t ∧ ((t.core c).queue u.q).run = some k ∧ k.unit = u.run.unit + 1 ∧
      k.gather = (((outs.map fun o => o.getD (0, none, 0)).zip (List.range p.vectors)).map fun e =>
        (if u.run.unit % 256 = 0 then [] else u.run.gather).getD e.2 [] ++ [e.1.1]) ∧
      (t.core c).plates = (s.core c).plates ∧ OnlyCore s t c)

/-- In hand and not yet open, a MOVE, an MCAST with a member left, an ATOMIC_ADD, a STASH_PUSH with room in its lane and a STASH_POP
of a lane that holds a record open their transfer; an MCAST with no member left ends at its issue. Opening marks the destination
lines, puts one transfer on the fabric and issues its tiles. A STASH_POP of an entry that the mirror holds copies it from there. A
CLIP_DRAW marks its destinations, finds its number, copies its slot where it is filled and waits where not. A BUCKET_SEND whose
buffer can be pinned queues its bucket at its replica and ends, or waits with its pages pinned where the queue does not take it.
(R105, R140, R141, R170, R175, R206, R259, R268, R332, R333; derived) -/
def Obligations.TransferOperationsOpen : Prop :=
  (∀ (c : CoreId) (s : State) (u : Cur), u.run.endAt = none → u.run.xfer = none →
    let start := u.run.doneBytes
    (∀ p, s.currentIs c (.move p) = some u → (p.dstRemote = true → s.fenced (.c p.dstDie) = false) →
      exec (.move c p) s = .next (s.openXfer c u .move .fp32 p.flow p.len start [] (match p.dst with
        | some r => if p.dstVirt then [] else [(if p.dstRemote then p.dstDie else c.die, linesOf (walkBytes r start (p.len - start)))]
        | none => []))) ∧
    (∀ p, s.currentIs c (.mcast p) = some u →
      let ms := allDies.filter fun d => bit p.mask d.val && !s.fenced (.c d) && !decide (d ∈ u.run.acks)
      (ms ≠ [] → exec (.mcast c p) s = .next (s.openXfer c u .mcast .fp32 p.flow p.len start ms
        (ms.map fun d => (d, linesOf (walkBytes p.dst start (p.len - start)))))) ∧
      (ms = [] → exec (.mcast c p) s = .next ((if (allDies.any fun d => bit p.mask d.val && s.fenced (.c d)) = true
        then s.recordDelivery c u.desc.opTag u.run.acks else s).endOp c u.q u.run.issued))) ∧
    (∀ p, s.currentIs c (.atomicAdd p) = some u →
      exec (.atomicAdd c p) s = .next (s.openXfer c u (.atomic p.ordered p.group p.n p.idx) p.src.fmt p.flow p.len start [] [])) ∧
    (∀ p v w, s.currentIs c (.stashPush p) = some u → s.unmirror c u = (v, w) →
      (w.x.lane c).pay + padded p.size + 64 * ((w.x.lane c).tags + 1) ≤ w.x.laneSize c →
      exec (.stashPush c p) s = .next (v.openXfer c w .push .fp32 none p.size w.run.doneBytes [] [])) ∧
    (∀ p v w, s.currentIs c (.stashPop p) = some u → s.unmirror c u = (v, w) → (w.x.lane c).tags ≠ 0 →
      let dests := match p.dst with
        | some r => if p.discard then [] else [(c.die, linesOf (walkBytes r w.run.doneBytes (p.size - w.run.doneBytes)))]
        | none => []
      ((w.x.lane c).mirrored (w.exec.mirrorAt c) = none →
        exec (.stashPop c p) s = .next (v.openXfer c w .pop .fp32 none p.size w.run.doneBytes [] dests)) ∧
      (∀ m, (w.x.lane c).mirrored (w.exec.mirrorAt c) = some m → exec (.stashPop c p) s = .next (v.popMirror c w p m dests))) ∧
    (∀ p r lane, s.currentIs c (.clipDraw p) = some u → u.x.shuffle = some r → r.lane? c = some lane →
      ((∃ m ∈ (s.slice c.die).wet, m.own c u.q u.run.op = true) → exec (.clipDraw c p) s = .next (s.drawNext c u lane r)) ∧
      ((∀ m ∈ (s.slice c.die).wet, m.own c u.q u.run.op = false) → s.dry c u (linesOf (drawRest p r.cfg.slotBytes u.run)) →
        exec (.clipDraw c p) s = .next ((s.markWet c.die c u.q u.run.op u.desc.opTag (s.core c).cyc
          ((linesOf (drawRest p r.cfg.slotBytes u.run)).map fun l => (l, none))).drawNext c u lane r))) ∧
    (∀ p g i r pages, s.currentIs c (.bucketSend p) = some u → u.x.grad.cfg = some g →
      (List.range u.x.grad.replicas.length).find? (fun i => (u.x.grad.replicas.map fun r => r.die)[i]? == some c.die) = some i →
      u.x.grad.replica? (u.x.grad.base + i) = some r → s.pinBucket u c p = .ok pages →
      let others := u.x.grad.waits.filter fun w => !(w.1 == c && w.2.1 == u.run.op)
      (r.takes p.bucket g.bucketCount = true →
        let b : SentBucket := ⟨p.bucket, c, u.q, u.run.op, u.desc.opTag,
          if u.desc.sigEn then some (u.desc.sigCtr, u.desc.sigCore, u.desc.sigInc) else none, pages, p.addr⟩
        let v := (s.modCtx u.ctx fun x => { x with grad := ({ x.grad with waits := others } : Grad).modReplica (u.x.grad.base + i) fun r =>
          { r with queue := r.queue ++ [b] } }).waited c u.x
        exec (.bucketSend c p) s = .next (v.endOp c u.q (v.core c).cyc)) ∧
      (r.takes p.bucket g.bucketCount = false → exec (.bucketSend c p) s =
        .next (s.modCtx u.ctx fun x => { x with grad := { x.grad with waits := others ++ [(c, u.run.op, pages)] } })))) ∧
  (∀ (c : CoreId) (s : State) (u : Cur) (kind : XferKind) (fmt : Fmt) (flow : Option Nat) (len start : Nat) (ms : List DieId)
      (dests : List (DieId × List Nat)), (∀ d ∈ dests, ∀ m ∈ (s.slice d.1).wet, m.line ∈ d.2 → m.own c u.q u.run.op = true) →
    let v := dests.foldl (fun s d => s.markWet d.1 c u.q u.run.op u.desc.opTag (s.core c).cyc (d.2.map fun l => (l, none))) s
    ∃ x : Xfer, x.id = s.fabric.nextId ∧ x.core = c ∧ x.queue = u.q ∧ x.op = u.run.op ∧ x.kind = kind ∧ x.len = len ∧ x.next = start ∧
      x.pieces = [] ∧ x.members = ms ∧
      let w := v.modFabric fun f => { f with nextId := f.nextId + 1, xfers := f.xfers ++ [x] }
      s.openXfer c u kind fmt flow len start ms dests = (w.setRun c u.q { u.run with xfer := some x.id }).pump c u.q 256) ∧
  (∀ (c : CoreId) (s : State) (u : Cur) (lane q : Nat) (r v : Reservoir), r.seek lane seekFuel = (v, some q) →
    (v.holds q = true →
      let w := s.modShuffle u.ctx fun _ => { v with want := assocDel lane v.want }
      s.drawNext c u lane r = (if (assoc? lane v.want).isSome = true then w.waited c u.x else w).openXfer c u (.draw (q % v.slots)) .fp32 none
        v.cfg.slotBytes u.run.doneBytes [] []) ∧
    (v.holds q = false → s.drawNext c u lane r = s.modShuffle u.ctx fun _ => { v with want := assocSet lane q v.want })) ∧
  (∀ (c : CoreId) (s : State) (u : Cur) (p : ClipP) (r : Reservoir) (lane q : Nat), s.currentIs c (.clipDraw p) = some u → u.x.shuffle = some r →
    r.lane? c = some lane → u.run.xfer = none → u.run.endAt = none → assoc? lane r.want = some q → r.holds q = true →
    exec (.drawSlotFilled c) s = .next (s.drawNext c u lane r))

/-- A MOVE of 1 to 4,096 bytes from one scratchpad operand of its die to another, none of whose lines another operation has marked,
puts the bytes of its source at its destination in walk order and sends the completion acknowledgement of one new transfer. No
other slice and no byte of HBM changes, and no packet is sent. (R170, R206, R240, R257; derived) -/
def Obligations.MoveWithinADieCopies : Prop :=
  ∀ (c : CoreId) (p : MoveP) (s : State) (u : Cur) (a b : OperandRec), s.currentIs c (.move p) = some u → u.run.endAt = none → u.run.xfer = none →
    (s.die (.c c.die)).resetting = false → u.run.doneBytes = 0 → u.run.suspended = false → p.srcVirt = false → p.dstVirt = false → p.dstRemote = false → p.src = some a → p.dst = some b →
    1 ≤ p.len → p.len ≤ 4096 → (∀ x ∈ s.fabric.xfers, x.id < s.fabric.nextId) →
    s.dry c u (linesOf (walkBytes a 0 p.len)) → s.dry c u (linesOf (walkBytes b 0 p.len)) →
    ∃ t, exec (.move c p) s = .next t ∧
      (t.slice c.die).mem = ((walkBytes b 0 p.len).zip (padTo p.len ((walkBytes a 0 p.len).map fun i => sget 0 (s.slice c.die).mem i))).foldl
        (fun m e => sset 0 m e.1 e.2) (s.slice c.die).mem ∧
      (∀ d, d ≠ c.die → (t.slice d).mem = (s.slice d).mem) ∧ t.hbm = s.hbm ∧ t.ctxs = s.ctxs ∧ t.host = s.host ∧ t.out = s.out ∧
      t.fabric.vc4 = s.fabric.vc4 ++ [.ack s.fabric.nextId u.ctx c.die.val] ∧ t.fabric.pkts = s.fabric.pkts ∧ t.fabric.nextId = s.fabric.nextId + 1

/-- A free tag goes to the tile that has waited longest of those whose turn it is; a controller finishes its oldest access, freeing
its tag: read data leaves, written data is in HBM. What a controller finds at an access is noted first. A far-tier read that fails
or times out fails its tile; its data, when whole, goes on, but for a context whose IDE stream does not cover it; a flush that
returns completes what it covers. A packet that arrives is delivered at its destination or its replication stop and goes on
otherwise; 16 failed retries take its link down, and what waits there goes another way. A slot sends its flow's packets, else
unscheduled ones. The acknowledgement of the last destination ends its transfer, that of the last member its multicast. A
contribution is added at its adder, a wrong sum ends its operation, a refused one is sent again. (R105, R107, R213, R214, R216,
R217, R227, R228, R229, R239, R241, R246; derived) -/
def Obligations.TransferEventsAct : Prop :=
  (∀ (b : BedId) (s v : State) (x : Xfer) (p : Piece) (o : Nat), s.clocked = true → oldestWaiter (s.tagTurn b) = some (x, p, o) →
    ((s.waitedFor x).noteTurn b x o).tryTag x p.seq b o (p.st == .waitWrite) false = (v, true) →
    (p.st = .waitRead → exec (.tagGrant b) s = .next (v.modPiece x.id p.seq fun p => { p with st := .reading })) ∧
    (p.st ≠ .waitRead → exec (.tagGrant b) s = .next ((v.ship x p.seq p.src.stop p.data).pumpXfer x.id))) ∧
  (∀ (b k : BedId) (stack : Fin 3) (pc : Fin 64) (find : HbmFind) (o : Nat) (s v : State) (t : Tag) (x : Xfer) (p : Piece) (bs : List Byte), s.clocked = true →
    (s.bed b).tags.find? (fun t => t.stack == stack && t.pc == pc && s.atController t) = some t → s.xfer? t.xfer = some x → x.piece? t.seq = some p →
    let f := s.stamp.hbmFinds k.val o find
    let w := f.modBed b fun k => k.free t.xfer t.seq t.wr f.timeNs
    (f.hbm.groupBad k.val o ≤ 1 ∨ 3 * b.val + stack.val ∈ f.hbm.failedStacks) →
    (t.wr = true → p.dst = .hbm k o → w.spanWrite k.val o p.data (w.covers x) = some v →
      exec (.tagRelease b stack pc find) s = .next ((v.pieceLanded x.id p.seq).pumpXfer x.id)) ∧
    (t.wr = false → p.src = .hbm k o → w.pieceRead x k.val o p.len = (some bs, v) →
      exec (.tagRelease b stack pc find) s = .next ((v.toDest x p.seq bs true).pumpXfer x.id))) ∧
  (∀ (i seq : Nat) (s : State) (x : Xfer) (p : Piece), s.clocked = true → s.xfer? i = some x → x.piece? seq = some p → p.st = .farRead →
    let lost := fun (v : State) (f : FarFail) =>
      let w := v.modHbm fun h => { h with farErr := true }
      (w.pieceFailed i seq f.status (w.addrOf x p.off false) (farWhy false f)).nextFar
    let bare : Bool := match p.src with
      | .far a _ _ _ | .host _ _ a => (s.ctxD x.ctx).ideRequired && !s.ideCovers a
      | _ => false
    exec (.farTierTileFail i seq) s = .next (lost s .error) ∧
    exec (.farTierTimeout i seq) s = .next (lost { s with timeNs := max s.timeNs (p.issuedNs + p.limitNs) } .timeout) ∧
    (∀ bytes,
      (bare = true → exec (.pcieReadCompletion i seq bytes) s = .next (lost s .error)) ∧
      (bare = false → (p.data ++ bytes).length < p.len →
        exec (.pcieReadCompletion i seq bytes) s = .next (s.modPiece i seq fun p => { p with data := p.data ++ bytes })) ∧
      (bare = false → p.len ≤ (p.data ++ bytes).length → exec (.pcieReadCompletion i seq bytes) s = .next
        ((((s.modPiece i seq fun p => { p with st := .moving }).toDest x seq ((p.data ++ bytes).take p.len) true).nextFar).pumpXfer i)))) ∧
  (∀ (i upTo : Nat) (rest : List Nat) (s : State) (x : Xfer), s.clocked = true → s.xfer? i = some x → x.flushing = upTo :: rest →
    let covered := fun (p : Piece) => if p.st = .posted && decide (p.off < upTo) then { p with st := .landed, data := [] } else p
    let back := fun (x : Xfer) => { x with flushing := rest, flushed := max x.flushed upTo, pieces := x.pieces.map covered }
    exec (.farFlushReturn i none) s = .next ((((s.modXfer i back).afterPiece i).nextFar).pumpXfer i)) ∧
  (∀ (pkt crc : Nat) (s : State) (p : Pkt) (l : LinkId), s.clocked = true → s.fabric.pkts.find? (fun p => p.id == pkt) = some p → p.pos = .flying l →
    let k := s.modLink l fun k => { k with retry := satAt (2 ^ 32 - 1) (k.retry + min 16 crc), down := k.down || decide (17 ≤ crc) }
    let w := if min 16 crc = 0 then k else k.countB (min 16 crc)
    let v := w.modFabric fun f => { f with pkts := f.pkts.filter fun q => q.id != pkt }
    let q := { p with vc := vcAfter l p.vc, hops := p.hops + 1 }
    (17 ≤ crc → exec (.packetArrival pkt crc) s = .next (w.abandonLink l)) ∧
    (crc ≤ 16 → linkTo l = p.dst → linkTo l ∉ p.drops → exec (.packetArrival pkt crc) s = .next ((v.deliver q (linkTo l)).pumpXfer p.xfer)) ∧
    (crc ≤ 16 → linkTo l ≠ p.dst → linkTo l ∉ p.drops → exec (.packetArrival pkt crc) s =
      .next ((v.onward { q with drops := q.drops.filter fun d => d ≠ linkTo l } (linkTo l)).pumpXfer p.xfer)) ∧
    (crc ≤ 16 → linkTo l ≠ p.dst → linkTo l ∈ p.drops → exec (.packetArrival pkt crc) s =
      .next (((v.deliver q (linkTo l)).onward { q with drops := q.drops.filter fun d => d ≠ linkTo l } (linkTo l)).pumpXfer p.xfer))) ∧
  (∀ (l : LinkId) (slot : Fin 64) (s : State), s.clocked = true → s.fabric.aligned = true → (s.fabric.links.get l).down = false →
    let v := s.noteDepth l
    (∀ f, slot.val % 8 ≠ 7 → v.raster.find? (fun e => bit (nthD 0 e.2 l.val) slot.val) = some f →
      exec (.rasterSlot l slot) s = .next ((v.sendFlow l f.1 (v.fabric.pkts.filter fun p => p.flow == some f.1 && some p.ctx == v.running && (match p.pos with
        | .queued k q => k == l && q == 0
        | .flying _ => false)) 73728).releaseHeld (linkFrom l))) ∧
    ((slot.val % 8 = 7 ∨ v.raster.find? (fun e => bit (nthD 0 e.2 l.val) slot.val) = none) →
      exec (.rasterSlot l slot) s = .next (v.sendOpen l 64 1 73728))) ∧
  (∀ (i k : Nat) (n : CtxId) (s : State) (x : Xfer), s.clocked = true → s.xfer? k = some x →
    let v := s.modFabric fun f => { f with vc4 := f.vc4.eraseIdx i }
    (∀ dest, s.fabric.vc4[i]? = some (.ack k n dest) →
      ((∀ d ∈ x.stations, d ∈ x.got ++ [dest]) → x.cmd? = none → exec (.transferCompletionAck i) s = .next (v.finishXfer x)) ∧
      (∀ h, (∀ d ∈ x.stations, d ∈ x.got ++ [dest]) → x.cmd? = some h → exec (.transferCompletionAck i) s = .next (v.finishCmd h x)) ∧
      ((∃ d ∈ x.stations, d ∉ x.got ++ [dest]) →
        exec (.transferCompletionAck i) s = .next (v.modXfer k fun y => { y with got := x.got ++ [dest] }))) ∧
    (∀ d u p, s.fabric.vc4[i]? = some (.member k n d) → d ∈ x.members → s.fenced (.c d) = false → s.opOf x = some u → u.desc.op = .mcast p →
      let w := ((v.applySignal x.ctx p.memCtr (coreOf d p.memCore) 1).modXfer k fun y =>
        { y with delivered := y.delivered ++ [d] }).modQueue x.core u.q fun q => { q with run := q.run.map fun r => { r with acks := r.acks ++ [d] } }
      ((∃ e ∈ x.members, e ∉ x.delivered ++ [d]) → exec (.mcastMemberAck i) s = .next w) ∧
      ((∀ e ∈ x.members, e ∈ x.delivered ++ [d]) →
        exec (.mcastMemberAck i) s = .next ((if (w.castMembers p.mask []).length < (allDies.filter fun e => bit p.mask e.val).length
          then w.recordDelivery x.core u.desc.opTag (u.run.acks ++ [d]) else w).finishXfer { x with delivered := x.delivered ++ [d] })))) ∧
  (∀ (i seq : Nat) (s v : State) (x : Xfer) (p : Piece) (b : BedId) (o g n idx : Nat), s.clocked = true → s.xfer? i = some x → x.piece? seq = some p →
    (x.kind = .atomic false g n idx → p.dst = .hbm b o → p.st = .writing → s.stamp.adderApply b.val o x.fmt p.data = some v →
      exec (.adderTileArrival i seq none) s = .next (((((v.accepted x p b).applied i seq).pumpXfer i)).endIfAccepted i)) ∧
    (x.kind = .atomic true g n idx → p.dst = .hbm b o → p.st = .writing →
      exec (.adderTileArrival i seq none) s = .next (((s.stamp.ordered x p b o g n idx).pumpXfer i).endIfAccepted i)) ∧
    (∀ ord g n idx group, x.kind = .atomic ord g n idx → p.dst = .hbm b o → p.st = .writing →
      exec (.adderTileArrival i seq (some group)) s = .next (s.stamp.adderCheckFails x p b group)) ∧
    (p.st = .refused → exec (.adderResend i seq) s = .next (s.ship x seq p.src.stop p.data)))

/-- On an existing context that does not run, in the ranges of their rules, RING_MAP, GRAD_CONFIG, CASCADE_CONFIG, TILE_FORMAT,
SHUFFLE_CONFIG, SHUFFLE_SEEK and INGEST_OPEN install their configuration and complete with DONE. An INGEST_FEED queues one job per
program and its feed, an INGEST_CLOSE of a stream without jobs frees it and completes with DONE. (R264, R266, R284, R286, R291,
R292, R293, R295, R320, R327, R330, R336; derived) -/
def Obligations.FlowConfigurationCompletes : Prop :=
  ∀ (h : CmdHdr) (x : Ctx) (s : State),
    (∀ p, s.starts h (.ringMap p) → s.namesIdle p.ctx x →
      let dies := (p.dies.take p.replicas).map fun d => (⟨d % 16, by omega⟩ : DieId)
      1 ≤ p.replicas → p.replicas ≤ 16 → dies.Nodup → (∀ d ∈ dies, s.fenced (.c d) = false) →
      exec (.ringMap h p) s = .next ((s.putCtx (ctxOf p.ctx) { x with
        grad := ({ x.grad with ring := some p, replicas := dies.map fun d => ⟨d, [], 0, 0, 0, [], 0, false⟩ } : Grad).emptied }).complete h .done)) ∧
    (∀ p, s.starts h (.gradConfig p) → s.namesIdle p.ctx x → p.bucketCount ≠ 0 → p.recBase % 128 = 0 →
      exec (.gradConfig h p) s = .next ((s.putCtx (ctxOf p.ctx) { x with
        grad := ({ x.grad with cfg := some p } : Grad).emptied }).complete h .done)) ∧
    (∀ p, s.starts h (.cascadeConfig p) → s.namesIdle p.ctx x → x.sealing = none → CascadeConfigP.inRange p = true → (p.devices = 1 ∨ s.inboxOk (ctxOf p.ctx) p.inbox = true) →
      let counts := (p.counts.take p.devices).map fun k => k + 1
      let peers := (List.range p.devices).filter fun d => d ≠ p.index
      let member : Cascade := ⟨p, [], false, false, 0, 0, [], peers.map fun d => (d, s.timeNs)⟩
      let master : Cascade := ⟨p, counts, true, false, 0, 0, [], peers.map fun d => (d, s.timeNs)⟩
      (p.devices = 1 → (p.index = p.master → counts.sum ≤ 128 ∧ nthD 0 counts p.index = (x.grad.ring.map fun r => r.replicas).getD 0) →
        exec (.cascadeConfig h p) s =
        .next ((s.putCtx (ctxOf p.ctx) { x with grad := { x.grad with casc := none } }).complete h .done)) ∧
      (p.devices ≠ 1 → p.index ≠ p.master → exec (.cascadeConfig h p) s =
        .next ((s.putCtx (ctxOf p.ctx) { x with grad := { x.grad with casc := some member } }).complete h .done)) ∧
      (p.devices ≠ 1 → p.index = p.master → counts.sum ≤ 128 → nthD 0 counts p.index = (x.grad.ring.map fun r => r.replicas).getD 0 →
        exec (.cascadeConfig h p) s = .next ((peers.foldl (fun s d => s.send (.peerMap (ctxOf p.ctx) d counts))
          (s.putCtx (ctxOf p.ctx) { x with grad := { x.grad with casc := some master } })).complete h .done))) ∧
    (∀ p r, s.starts h (.tileFormat p) → s.names p.ctx x → p.inRange = true → x.shuffle = some r → p.tiles * 4096 ≤ r.cfg.slotBytes →
      (∀ t ∈ s.media.streams, t.ctx = ctxOf p.ctx → t.p.tileFormat ≠ p.handle) →
      exec (.tileFormat h p) s = .next ((s.putCtx (ctxOf p.ctx) { x with formats := assocSet p.handle p x.formats }).complete h .done)) ∧
    (∀ p, s.starts h (.shuffleConfig p) → s.namesIdle p.ctx x → p.base + p.size * 2 ^ 30 ≤ 2 ^ 48 → s.hasStream (ctxOf p.ctx) = false →
      shuffleInRange p = true → (∀ f ∈ x.formats, f.2.tiles * 4096 ≤ p.slotBytes) →
      (∀ c ∈ allCores, nthD 0xFF p.lane c.val < p.lanes → s.fenced (.c c.die) = false) →
      exec (.shuffleConfig h p) s = .next ((s.putCtx (ctxOf p.ctx) { x with shuffle := some (Reservoir.fresh p) }).complete h .done)) ∧
    (∀ p r, s.starts h (.shuffleSeek p) → s.names p.ctx x → x.shuffle = some r →
      (p.voidRange = true → p.a < p.b → (addVoid p.a p.b r.voids).length ≤ 8192 → exec (.shuffleSeek h p) s =
        .next ((s.modShuffle (ctxOf p.ctx) fun r => { r with voids := addVoid p.a p.b (r.voids) }).complete h .done)) ∧
      (p.voidRange = false → s.running ≠ some (ctxOf p.ctx) → exec (.shuffleSeek h p) s =
        .next ((s.modShuffle (ctxOf p.ctx) fun r => ({ r with pos := r.pos.map fun _ => p.a } : Reservoir).reseat).complete h .done))) ∧
    (∀ p, s.starts h (.ingestOpen p) → s.names p.ctx x → s.stream? (ctxOf p.ctx) p.stream = none → s.media.streams.length < 1024 →
      ingestInRange p = true → p.jobs * workNeed p ≤ p.workSize * 2097152 → p.workBase + p.workSize * 2097152 ≤ 2 ^ 48 →
      s.openDies p.mediaMask ≠ [] → (assoc? p.tileFormat x.formats).isSome = true →
      exec (.ingestOpen h p) s = .next ((s.modMedia fun m => { m with streams := m.streams ++ [⟨ctxOf p.ctx, p, none⟩] }).complete h .done)) ∧
    (∀ p t, s.starts h (.ingestFeed p) → s.names p.ctx x → s.stream? (ctxOf p.ctx) p.stream = some t → t.closing = none →
      1 ≤ p.length → p.length ≤ 2 ^ 30 → 1 ≤ p.maxFrames → p.maxFrames ≤ 4096 → 1 ≤ p.clipStride → p.clipStride ≤ 2 ^ 24 →
      p.auxBase % 64 = 0 → p.auxSize % 64 = 0 → p.source + p.length ≤ 2 ^ 48 → p.auxBase + p.auxSize ≤ 2 ^ 48 →
      p.report + 64 * t.p.programs ≤ 2 ^ 48 → p.arrive = false → s.media.queued + t.p.programs ≤ 4096 →
      exec (.ingestFeed h p) s = .next (((s.start h (.ingestFeed p)).modMedia fun m => { m with
        feeds := m.feeds ++ [⟨s.media.nextId, h, ctxOf p.ctx, p, t.p.programs, [], 0⟩],
        jobs := m.jobs ++ feedJobs (ctxOf p.ctx) p s.media.nextId (s.media.nextId + 1) t.p.programs,
        nextId := s.media.nextId + 1 + t.p.programs }).reapJobs)) ∧
    (∀ p t, s.starts h (.ingestClose p) → s.names p.ctx x → s.stream? (ctxOf p.ctx) p.stream = some t → t.closing = none →
      let shut := fun (u : Stream) => if u.ctx == ctxOf p.ctx && u.p.stream == p.stream then { u with closing := some h } else u
      exec (.ingestClose h p) s =
        .next (((s.start h (.ingestClose p)).modMedia fun m => { m with streams := m.streams.map shut }).endStream (ctxOf p.ctx) p.stream))

/-- While the context runs and does not stop: the next accepted bucket enters reduction and its shard's chains start; a chain that has
come to its position takes the contribution there, in ring order, and leaves for the next over the mesh or as a packet in the flow
of its channel, or lands; a shard's sum of squares reaches its replica; a bucket with every shard's sum completes. A peer's
message joins the chains, the sums or the heartbeats; the map and the round word reach a member; a released pin is sampled; a
heartbeat goes to the peers that watch, and its loss breaks the cascade. (R270, R272, R273, R275, R276, R277, R285, R286, R287,
R288; derived) -/
def Obligations.GradientEventsAct : Prop :=
  (∀ (n : CtxId) (s : State) (x : Ctx) (g : GradConfigP), s.ticking = true → s.running = some n → s.ctx? n = some x → x.grad.cfg = some g →
    (∀ e, x.exec = some e → e.stopSt = none) →
    (∀ pos r b, x.grad.replica? pos = some r → r.queue.find? (fun b => b.id == r.nextEnter) = some b →
      (∀ k, x.grad.casc = some k → k.mapReceived = true ∧ k.broken = false) → (4 ≤ r.nextEnter → r.nextEnter - 4 < r.nextDone) →
      let a : ActiveBucket := ⟨b, r.round, [], 0, false, []⟩
      exec (.bucketEnter n pos) s = .next (((s.modGrad n fun q => (q.modReplica pos fun v =>
        { v with queue := v.queue.erase b, active := v.active ++ [a], nextEnter := r.nextEnter + 1 }).pace r.nextEnter).markRecord g b).startShard n pos a)) ∧
    (∀ i k r a, x.grad.chains[i]? = some k → k.pkt = none → x.grad.replica? k.to_ = some r → r.bucket? k.bucket k.round = some a →
      let taken := s.modGrad n fun q => { q with chains := q.chains.eraseIdx i }
      (k.last = true → exec (.chainPacket i) s = .next (taken.landUnit n g k.to_ a k)) ∧
      (∀ ws, k.last = false → taken.unitWords g a.sent k.unit = some ws → exec (.chainPacket i) s =
        .next ((taken.touchUnit g a.sent k.unit).sendChain n g (x.grad.stopOf k.to_) (nextHop g x.grad.total k.bucket k.round k.unit k.to_
          (if nonfinite g.elem ws then k.flags ||| 2 ^ k.to_ else k.flags)
          ((k.vals.zip ws).map fun e => f32Add e.1.toNat (widen g.elem e.2)))))) ∧
    (∀ i k, x.grad.chains[i]? = some k → k.pkt = none → x.grad.replica? k.to_ = none → x.grad.mayCross k = true → exec (.chainPacket i) s =
      .next ((s.modGrad n fun q => { q with chains := q.chains.eraseIdx i }).send (.peerWrite n (x.grad.deviceOf k.to_)
        (if k.last then CascMsg.reduced k.bucket k.round k.unit k.flags (k.vals.map fun w => w.toNat)
         else .chain k.bucket k.round k.unit k.flags k.vals k.to_)))) ∧
    (∀ i m r a, x.grad.shardMsgs[i]? = some m → x.grad.replica? m.to_ = some r → r.bucket? m.bucket m.round = some a → (∀ e ∈ a.shards, e.1 ≠ m.shard) →
      exec (.shardSumsqArrival i) s = .next (s.modGrad n fun q => { (q.modReplica m.to_ fun r => r.modBucket m.bucket fun b =>
        { b with shards := a.shards ++ [(m.shard, m.sumsq, m.flags, m.nonfin)] }) with shardMsgs := q.shardMsgs.eraseIdx i })) ∧
    (∀ pos r a, x.grad.replica? pos = some r → r.bucket? r.nextDone r.round = some a → a.sent.id + 1 ≠ g.bucketCount →
      (∀ j, j < x.grad.total → ∃ e ∈ a.shards, e.1 = j) → (∃ t ∈ (s.core a.sent.core).trailing, t.op = a.sent.op) →
      let vs := (List.range x.grad.total).filterMap fun j => a.shards.find? fun e => e.1 == j
      let flags := vs.foldl (fun t e => t ||| e.2.2.1) 0
      let nonfin := vs.any fun e => e.2.2.2
      flags = 0 → nonfin = false →
      let rec_ := gradRecord a.sent.id r.round (vs.foldl (fun t e => f32Add t e.2.1.toNat) 0) x.grad.total 0 false
      let put := fun (k : Slice) => { k with mem := writeBytes k.mem (g.recBase + 64 * (a.sent.id + 1)) rec_ }
      let on := fun (r : Replica) => { r with active := r.active.filter fun b => b.sent.id ≠ a.sent.id, nextDone := a.sent.id + 1 }
      exec (.bucketComplete n pos) s = .next (((s.modSlice r.die put).modGrad n fun q => q.modReplica pos on).bucketDone n a.sent))) ∧
  (∀ (n : CtxId) (s : State) (k : Cascade), (s.ctxD n).grad.casc = some k → k.broken = false → s.inboxOpen = true →
    (∀ b r u f v to_, exec (.cascInboxWrite n (.chain b r u f v to_)) s = .next (s.takeChain n ⟨b, r, u, to_, false, f, v, none⟩)) ∧
    (∀ b r u f v, exec (.cascInboxWrite n (.reduced b r u f v)) s = .next (s.takeChain n
      ⟨b, r, u, ((s.ctxD n).grad.cfg.map fun c => shardOf c.units (s.ctxD n).grad.total u).getD 0, true, f, v.map fun w => BitVec.ofNat 32 w, none⟩)) ∧
    (∀ b r j v f nf,
      let ms := fun (g : Grad) => (List.range g.replicas.length).map fun i => (⟨b, r, j, g.base + i, v, f, nf⟩ : ShardMsg)
      exec (.cascInboxWrite n (.sumsq b r j v f nf)) s = .next (s.modGrad n fun g => { g with shardMsgs := g.shardMsgs ++ ms g })) ∧
    (∀ d e, assoc? d k.hbSeen ≠ some e → exec (.cascInboxWrite n (.heartbeat d e)) s = .next (s.stamp.modCasc n fun k =>
      { k with hbSeen := assocSet d e k.hbSeen, hbAt := assocSet d s.stamp.timeNs k.hbAt })) ∧
    exec (.cascInboxWrite n .broken) s = .next (s.breakCascade n) ∧
    (∀ counts, exec (.cascMapArrival n counts) s = .next (s.modCasc n fun k =>
      if k.cfg.index = k.cfg.master then k else { k with counts := counts, mapReceived := true })) ∧
    (∀ round, exec (.cascRoundStart n round) s = .next (s.modCasc n fun k =>
      if k.cfg.index = k.cfg.master then k else { k with roundStarted := max k.roundStarted round }))) ∧
  (∀ (n : CtxId) (x : Ctx) (s : State) (chan : Fin 4), s.runCtx = some (n, x) → x.grad.casc.isSome = true → nthD false x.grad.pinReleased chan.val = true →
    exec (.cascHatchRelease chan) s = .next (s.modGrad n fun g =>
      { g with pinSampled := g.pinSampled.set chan.val true, pinReleased := g.pinReleased.set chan.val false })) ∧
  (∀ (n : CtxId) (s : State) (g : GradConfigP) (src : Fin 5) (k : Chain),
    (src = (s.ctxD n).grad.stopOf k.to_ → s.sendChain n g src k = s.modGrad n fun r => { r with chains := r.chains ++ [k] }) ∧
    (src ≠ (s.ctxD n).grad.stopOf k.to_ → ∃ (p : Pkt) (v : State), p.id = s.fabric.nextId ∧ p.ctx = n ∧ p.flow = GradConfigP.flowOf g k.bucket ∧
      p.dst = (s.ctxD n).grad.stopOf k.to_ ∧ v = (s.modFabric fun f => { f with nextId := s.fabric.nextId + 1 }).modGrad n (fun r =>
        { r with chains := r.chains ++ [{ k with pkt := some s.fabric.nextId }] }) ∧ s.sendChain n g src k = v.enqueue p src false)) ∧
  (∀ (n : CtxId) (k : Cascade) (s : State), s.ticking = true → s.cascades = [(n, k)] →
    exec .cascHeartbeat s = .next ((k.watchers.foldl (fun s d => s.send (.peerWrite n d (.heartbeat k.cfg.index (k.hbCount + 1)))) s).modCasc n fun k =>
      { k with hbCount := k.hbCount + 1 }) ∧
    (∀ dev, dev ∈ k.watchers → k.cfg.index ≠ k.cfg.master → exec (.cascHeartbeatLoss dev) s =
      .next (({ s with timeNs := max s.timeNs ((assoc? dev k.hbAt).getD 0 + 1000000) } : State).breakCascade n)))

/-- The oldest queued job that can start takes the permitted die with most free engines, its lowest free engine and the lowest free
work slice, and begins. Where no ready clip waits for its slot, pictures of a running job are decoded until one is ready, and that
one is counted, sampled by its clips and stamped; what the engine's checks masked is counted. A ready clip whose slot is empty in
its own generation makes the slot filling; one whose slot has gone on is discarded with SHUF_REUSED. A clip whose bytes can be
written fills its slot. A job ends with the status and the reason to which its source, its limits and its clips have brought it,
or with a fault that its engine finds. A range that every lane has passed leaves the void table. (R292, R294, R297, R301, R304,
R311, R315, R321, R324, R329, R330; derived) -/
def Obligations.IngestEventsAct : Prop :=
  (∀ (job : Nat) (env : Env) (s : State) (j : Job) (t : Stream) (d : BedId), s.ticking = true → s.clk.halted = false → s.host.updating = false →
    s.job? job = some j → j.st = .queued → s.media.jobs.find? s.canStart = some j → j.id = job → s.stream? j.ctx j.stream = some t →
    d ∈ s.startDies t.p.mediaMask → (∀ e ∈ s.startDies t.p.mediaMask, (s.freeEngines e).length ≤ (s.freeEngines d).length) →
    (∀ e ∈ s.startDies t.p.mediaMask, (s.freeEngines e).length = (s.freeEngines d).length → d ≤ e) →
    let j' := { j with st := .running, die := some d, engine := (s.freeEngines d).headD 0,
                       slice := ((List.range t.p.jobs).find? fun i => i ∉ (s.jobsOn j.ctx j.stream).map fun q => q.slice).getD 0 }
    exec (.ingestJobStart job env) s = .next ((s.modJob job fun _ => j').beginJob j' env)) ∧
  (∀ (job : Nat) (s : State) (j : Job) (f : FeedRec) (t : Stream) (d : BedId), s.ticking = true → s.clk.halted = false → s.job? job = some j →
    j.st = .running → s.feed? j.feed = some f → s.stream? j.ctx j.stream = some t → j.die = some d → j.demux.isSome = true →
    (∀ fmt fixed retry, assoc? t.p.tileFormat (s.ctxD j.ctx).formats = some fmt → (∀ c ∈ j.clips, c.ready = true → c.slot.isSome = true) →
      let k := j.advance t.p f j.todo.length
      (k.ready = [] → exec (.pictureOutput job fixed retry) s = .next (s.modJob job fun _ => k)) ∧
      (∀ pic rest, k.ready = pic :: rest →
        let v := s.engineFinds d fixed retry
        exec (.pictureOutput job fixed retry) s = .next ((v.modMediaDie d fun m => { m with pictures := (m.pictures + 1) % 2 ^ 48 }).modJob job fun _ =>
          { k with
            ready := rest, jumps := k.jumps.filter (fun o => pic.off < o), pics := k.pics + 1,
            concealedPics := k.concealedPics + bitOf (decide (0 < pic.concealedLuma)),
            firstPts := some (k.firstPts.getD (k.ptsOf t.p pic)), lastPts := k.ptsOf t.p pic, lastDur := pic.frameDur,
            clips := k.sample fmt f.p.clipStride k.pics (pic, metaWord pic (k.ptsOf t.p pic) (k.jumps.any fun o => o ≤ pic.off)) }))) ∧
    (∀ c r, j.readyClip = some c → (s.ctxD j.ctx).shuffle = some r →
      let q := f.base j.prog + c.idx
      (r.gen (q % r.slots) = q / r.slots → r.slot (q % r.slots) = .empty → r.voided q = false →
        exec (.clipReady job) s = .next ((s.modShuffle j.ctx fun v => v.setSlot (q % r.slots) (.filling job)).modJob job fun j =>
          { j with clips := j.clips.map fun k => if k.idx = c.idx then { k with slot := some (q % r.slots) } else k })) ∧
      (q / r.slots < r.gen (q % r.slots) → exec (.clipReady job) s =
        .next (({ s with regs := { s.regs with shufReused := true } } : State).modJob job fun j =>
          { (j.dropClip c.idx) with clipsFilled := j.clipsFilled + 1 }))) ∧
    (∀ c fmt r slot v, j.fillingClip = some c → assoc? t.p.tileFormat (s.ctxD j.ctx).formats = some fmt → (s.ctxD j.ctx).shuffle = some r →
      c.slot = some slot →
      let bs := clipBytes fmt r.cfg.seed (f.base j.prog + c.idx) j.stream j.prog c.pics
      s.writeSlot j.ctx (r.slotAddr slot) (chunksOf 4096 (bs.length + 1) bs) = .ok v →
      exec (.clipFilled job) s = .next ((v.modShuffle j.ctx fun r => if r.slot slot = .filling job then r.setSlot slot .filled else r).modJob job fun j =>
        { (j.dropClip c.idx) with clipsFilled := j.clipsFilled + 1 })) ∧
    (∀ st code fixed retry, j.naturalEnd t.p f = some (st, code) →
      exec (.ingestJobEnd job none fixed retry) s = .next ((s.engineFinds d fixed retry).endJob job st code false)) ∧
    (∀ w fixed retry, exec (.ingestJobEnd job (some w) fixed retry) s =
      .next (((s.engineFinds d fixed retry).noteJobFault j w).stopJob job (JobFault.status w) false))) ∧
  (∀ (n : CtxId) (s : State), s.clk.booted = true → s.clk.inReset = false → s.clk.tripped = false → s.dbg.frozen = false →
    exec (.voidRangeDrop n) s = .next (s.modShuffle n fun r => match r.voids.find? fun v => r.past v with
      | some v => { r with voids := r.voids.erase v }
      | none => r))

/-- An IMPRESSION_TAKE of a context other than 0 without a program, whose plan reads well and passes its checks and whose copies can
all be written, writes its record and completes with DONE, or with DONE_PARTIAL where an entry has no working mirror. An
IMPRESSION_RESTORE of a readable plan and record, complete and sealed as the context is, restores the image. (R415, R446, R447,
R450, R451; derived) -/
def Obligations.ImpressionsComplete : Prop :=
  ∀ (h : CmdHdr) (p : ImpressionP) (env : Env) (x : Ctx) (s : State) (es : List PlanEntry) (plan : List Byte) (m : Moving), s.names p.ctx x →
    ctxOf p.ctx ≠ 0 → x.program = false → (⟨s, env.bytes, 0, 0, false⟩ : Moving).plan (ctxOf p.ctx) env p.area = .ok ((es, plan), m) →
    (∀ v, s.starts h (.impressionTake p) → p.far = false → m.s.planStatus x p.far es = none →
      let y := { x with impCount := x.impCount + 1 }
      let t := es.zipIdx.foldl (fun (t : Taking) e => t.entry (ctxOf p.ctx) y env e.1 e.2) ⟨{ m with s := m.s.putCtx (ctxOf p.ctx) y }, 0, 0, [], [], none⟩
      t.halt = none → t.m.put (ctxOf p.ctx) (p.area + plan.length) (impRecord (ctxOf p.ctx) y y.impCount false t.lost) = (v, none) →
      exec (.impressionTake h p env) s = .next (v.s.complete h (if t.lost = [] then .done else .donePartial) (t.bytes + 4096))) ∧
    (∀ bs v, s.starts h (.impressionRestore p) →
      ({ m with done := 0 } : Moving).readAll (ctxOf p.ctx) env (p.area + plan.length) 4096 4097 [] = .ok (bs, v) →
      let rec_ := bs.reverse.flatten
      bit (fieldAt rec_ 10 1) 0 = true → bit (fieldAt rec_ 10 1) 1 = x.sealing.isSome →
      (s.running = some (ctxOf p.ctx) ∨ 585 ≤ x.saveSize ∨ ∀ e ∈ es, e.scratch = false) →
      exec (.impressionRestore h p env) s = .next (v.restoreImage h p env (ctxOf p.ctx) es plan.length rec_))

/-- A wait condition on a counter c with target t is met exactly when (c − t) mod 2^32 is below 2^31, that is, when the 32-bit
difference is not negative; the wait condition of a descriptor and the WAIT use this comparison with the context's counter on its
core. From the target on it is met for 2^31 counts, and for the 2^31 counts before it is not: at a larger distance the answer is
reversed. (R185) -/
def Obligations.WaitsCountModulo : Prop :=
  (∀ c t : Nat, c < 2 ^ 32 → t < 2 ^ 32 →
    (waitMet c t = true ↔ ((c : Int) - t) % 2 ^ 32 < 2 ^ 31) ∧ (waitMet c t = true ↔ 0 ≤ (BitVec.ofNat 32 c - BitVec.ofNat 32 t).toInt) ∧
    (∀ k, k < 2 ^ 31 → waitMet ((t + k) % 2 ^ 32) t = true) ∧ (∀ k, 1 ≤ k → k ≤ 2 ^ 31 → waitMet ((t + 2 ^ 32 - k) % 2 ^ 32) t = false)) ∧
  (∀ (x : Ctx) (c : CoreId) (d : Desc), x.met c d = true ↔ d.waitEn = false ∨ waitMet (x.counter c d.waitCtr) d.waitTarget.toNat = true) ∧
  (∀ (x : Ctx) (c : CoreId) (k : Core) (q : QueueId) (d : Desc) (ds : List Desc), (k.queue q).ops = d :: ds → (k.queue q).run = none →
    (k.queue q).wait = .counter → (∀ l, d.op ≠ .barrier l) → (k.queue q).eligible x c = x.met c d)

/-- A bucket of S bytes in BF16 or FP32 has S / f / 1,024 units. Shard j of R holds units ⌊jU / R⌋ to ⌊(j + 1)U / R⌋ − 1; the owner of
a unit is the one position whose shard holds it. The smallest bucket has 256 units, and for R up to 128 every shard holds at least
2. (R267) -/
def Obligations.ShardsPartitionTheUnits : Prop :=
  (∀ g : GradConfigP, GradConfigP.bytes g = 2 ^ (20 + g.sizeCode) ∧
    (GradConfigP.elem g = .bf16 → GradConfigP.units g = GradConfigP.bytes g / 2 / 1024 ∧ 256 ≤ GradConfigP.units g) ∧
    (GradConfigP.elem g = .fp32 → GradConfigP.units g = GradConfigP.bytes g / 4 / 1024 ∧ 256 ≤ GradConfigP.units g)) ∧
  (∀ u r : Nat, 1 ≤ r →
    (∀ j k, k ∈ shardUnits u r j ↔ j * u / r ≤ k ∧ k < (j + 1) * u / r) ∧
    (∀ k, k < u → shardOf u r k < r ∧ k ∈ shardUnits u r (shardOf u r k) ∧ ∀ j, j < r → k ∈ shardUnits u r j → j = shardOf u r k) ∧
    (256 ≤ u → r ≤ 128 → ∀ j, j < r → 2 ≤ (shardUnits u r j).length))

/-- For every seed and number of slots, R332's permutation keeps the slots of a generation, and each sequence number is reached at
exactly one global draw position. (R332; derived) -/
def Obligations.DrawsPermuteTheReservoir : Prop :=
  ∀ seed slots : Nat, 1 ≤ slots → (∀ e i, i < slots → permute seed slots e i < slots) ∧
    ∀ q, ∃! n, n / slots * slots + permute seed slots (n / slots) (n % slots) = q
end

