-- ==== Sys2Proof/Laws/State.lean ====
section
/-! SUPPORT. One lemma for each field of the state and each of its updates, true by definition, so that no proof unfolds a record
update. -/

namespace Sys2Proof.Machine

open Sys2Proof

/-! ### modCore -/

@[simp] theorem State.modCore_pending (s : State) (c : CoreId) (f : Core → Core) : (s.modCore c f).pending = s.pending := rfl
@[simp] theorem State.modCore_tick (s : State) (c : CoreId) (f : Core → Core) : (s.modCore c f).tick = s.tick := rfl
@[simp] theorem State.modCore_timeNs (s : State) (c : CoreId) (f : Core → Core) : (s.modCore c f).timeNs = s.timeNs := rfl
@[simp] theorem State.modCore_out (s : State) (c : CoreId) (f : Core → Core) : (s.modCore c f).out = s.out := rfl
@[simp] theorem State.modCore_fuses (s : State) (c : CoreId) (f : Core → Core) : (s.modCore c f).fuses = s.fuses := rfl
@[simp] theorem State.modCore_clk (s : State) (c : CoreId) (f : Core → Core) : (s.modCore c f).clk = s.clk := rfl
@[simp] theorem State.modCore_pins (s : State) (c : CoreId) (f : Core → Core) : (s.modCore c f).pins = s.pins := rfl
@[simp] theorem State.modCore_pw (s : State) (c : CoreId) (f : Core → Core) : (s.modCore c f).pw = s.pw := rfl
@[simp] theorem State.modCore_sec (s : State) (c : CoreId) (f : Core → Core) : (s.modCore c f).sec = s.sec := rfl
@[simp] theorem State.modCore_host (s : State) (c : CoreId) (f : Core → Core) : (s.modCore c f).host = s.host := rfl
@[simp] theorem State.modCore_ctxs (s : State) (c : CoreId) (f : Core → Core) : (s.modCore c f).ctxs = s.ctxs := rfl
@[simp] theorem State.modCore_running (s : State) (c : CoreId) (f : Core → Core) : (s.modCore c f).running = s.running := rfl
@[simp] theorem State.modCore_regs (s : State) (c : CoreId) (f : Core → Core) : (s.modCore c f).regs = s.regs := rfl
@[simp] theorem State.modCore_cores (s : State) (c : CoreId) (f : Core → Core) : (s.modCore c f).cores = vmod s.cores c f := rfl
@[simp] theorem State.modCore_slices (s : State) (c : CoreId) (f : Core → Core) : (s.modCore c f).slices = s.slices := rfl
@[simp] theorem State.modCore_dies (s : State) (c : CoreId) (f : Core → Core) : (s.modCore c f).dies = s.dies := rfl
@[simp] theorem State.modCore_beds (s : State) (c : CoreId) (f : Core → Core) : (s.modCore c f).beds = s.beds := rfl
@[simp] theorem State.modCore_hbm (s : State) (c : CoreId) (f : Core → Core) : (s.modCore c f).hbm = s.hbm := rfl
@[simp] theorem State.modCore_fabric (s : State) (c : CoreId) (f : Core → Core) : (s.modCore c f).fabric = s.fabric := rfl
@[simp] theorem State.modCore_media (s : State) (c : CoreId) (f : Core → Core) : (s.modCore c f).media = s.media := rfl
@[simp] theorem State.modCore_log (s : State) (c : CoreId) (f : Core → Core) : (s.modCore c f).log = s.log := rfl
@[simp] theorem State.modCore_dbg (s : State) (c : CoreId) (f : Core → Core) : (s.modCore c f).dbg = s.dbg := rfl

/-! ### modSlice -/

@[simp] theorem State.modSlice_pending (s : State) (d : DieId) (f : Slice → Slice) : (s.modSlice d f).pending = s.pending := rfl
@[simp] theorem State.modSlice_tick (s : State) (d : DieId) (f : Slice → Slice) : (s.modSlice d f).tick = s.tick := rfl
@[simp] theorem State.modSlice_timeNs (s : State) (d : DieId) (f : Slice → Slice) : (s.modSlice d f).timeNs = s.timeNs := rfl
@[simp] theorem State.modSlice_out (s : State) (d : DieId) (f : Slice → Slice) : (s.modSlice d f).out = s.out := rfl
@[simp] theorem State.modSlice_fuses (s : State) (d : DieId) (f : Slice → Slice) : (s.modSlice d f).fuses = s.fuses := rfl
@[simp] theorem State.modSlice_clk (s : State) (d : DieId) (f : Slice → Slice) : (s.modSlice d f).clk = s.clk := rfl
@[simp] theorem State.modSlice_pins (s : State) (d : DieId) (f : Slice → Slice) : (s.modSlice d f).pins = s.pins := rfl
@[simp] theorem State.modSlice_pw (s : State) (d : DieId) (f : Slice → Slice) : (s.modSlice d f).pw = s.pw := rfl
@[simp] theorem State.modSlice_sec (s : State) (d : DieId) (f : Slice → Slice) : (s.modSlice d f).sec = s.sec := rfl
@[simp] theorem State.modSlice_host (s : State) (d : DieId) (f : Slice → Slice) : (s.modSlice d f).host = s.host := rfl
@[simp] theorem State.modSlice_ctxs (s : State) (d : DieId) (f : Slice → Slice) : (s.modSlice d f).ctxs = s.ctxs := rfl
@[simp] theorem State.modSlice_running (s : State) (d : DieId) (f : Slice → Slice) : (s.modSlice d f).running = s.running := rfl
@[simp] theorem State.modSlice_regs (s : State) (d : DieId) (f : Slice → Slice) : (s.modSlice d f).regs = s.regs := rfl
@[simp] theorem State.modSlice_cores (s : State) (d : DieId) (f : Slice → Slice) : (s.modSlice d f).cores = s.cores := rfl
@[simp] theorem State.modSlice_slices (s : State) (d : DieId) (f : Slice → Slice) : (s.modSlice d f).slices = vmod s.slices d f := rfl
@[simp] theorem State.modSlice_dies (s : State) (d : DieId) (f : Slice → Slice) : (s.modSlice d f).dies = s.dies := rfl
@[simp] theorem State.modSlice_beds (s : State) (d : DieId) (f : Slice → Slice) : (s.modSlice d f).beds = s.beds := rfl
@[simp] theorem State.modSlice_hbm (s : State) (d : DieId) (f : Slice → Slice) : (s.modSlice d f).hbm = s.hbm := rfl
@[simp] theorem State.modSlice_fabric (s : State) (d : DieId) (f : Slice → Slice) : (s.modSlice d f).fabric = s.fabric := rfl
@[simp] theorem State.modSlice_media (s : State) (d : DieId) (f : Slice → Slice) : (s.modSlice d f).media = s.media := rfl
@[simp] theorem State.modSlice_log (s : State) (d : DieId) (f : Slice → Slice) : (s.modSlice d f).log = s.log := rfl
@[simp] theorem State.modSlice_dbg (s : State) (d : DieId) (f : Slice → Slice) : (s.modSlice d f).dbg = s.dbg := rfl

/-! ### modDie -/

@[simp] theorem State.modDie_pending (s : State) (d : DieCode) (f : DieSt → DieSt) : (s.modDie d f).pending = s.pending := rfl
@[simp] theorem State.modDie_tick (s : State) (d : DieCode) (f : DieSt → DieSt) : (s.modDie d f).tick = s.tick := rfl
@[simp] theorem State.modDie_timeNs (s : State) (d : DieCode) (f : DieSt → DieSt) : (s.modDie d f).timeNs = s.timeNs := rfl
@[simp] theorem State.modDie_out (s : State) (d : DieCode) (f : DieSt → DieSt) : (s.modDie d f).out = s.out := rfl
@[simp] theorem State.modDie_fuses (s : State) (d : DieCode) (f : DieSt → DieSt) : (s.modDie d f).fuses = s.fuses := rfl
@[simp] theorem State.modDie_clk (s : State) (d : DieCode) (f : DieSt → DieSt) : (s.modDie d f).clk = s.clk := rfl
@[simp] theorem State.modDie_pins (s : State) (d : DieCode) (f : DieSt → DieSt) : (s.modDie d f).pins = s.pins := rfl
@[simp] theorem State.modDie_pw (s : State) (d : DieCode) (f : DieSt → DieSt) : (s.modDie d f).pw = s.pw := rfl
@[simp] theorem State.modDie_sec (s : State) (d : DieCode) (f : DieSt → DieSt) : (s.modDie d f).sec = s.sec := rfl
@[simp] theorem State.modDie_host (s : State) (d : DieCode) (f : DieSt → DieSt) : (s.modDie d f).host = s.host := rfl
@[simp] theorem State.modDie_ctxs (s : State) (d : DieCode) (f : DieSt → DieSt) : (s.modDie d f).ctxs = s.ctxs := rfl
@[simp] theorem State.modDie_running (s : State) (d : DieCode) (f : DieSt → DieSt) : (s.modDie d f).running = s.running := rfl
@[simp] theorem State.modDie_regs (s : State) (d : DieCode) (f : DieSt → DieSt) : (s.modDie d f).regs = s.regs := rfl
@[simp] theorem State.modDie_cores (s : State) (d : DieCode) (f : DieSt → DieSt) : (s.modDie d f).cores = s.cores := rfl
@[simp] theorem State.modDie_slices (s : State) (d : DieCode) (f : DieSt → DieSt) : (s.modDie d f).slices = s.slices := rfl
@[simp] theorem State.modDie_dies (s : State) (d : DieCode) (f : DieSt → DieSt) : (s.modDie d f).dies = vmod s.dies d.num f := rfl
@[simp] theorem State.modDie_beds (s : State) (d : DieCode) (f : DieSt → DieSt) : (s.modDie d f).beds = s.beds := rfl
@[simp] theorem State.modDie_hbm (s : State) (d : DieCode) (f : DieSt → DieSt) : (s.modDie d f).hbm = s.hbm := rfl
@[simp] theorem State.modDie_fabric (s : State) (d : DieCode) (f : DieSt → DieSt) : (s.modDie d f).fabric = s.fabric := rfl
@[simp] theorem State.modDie_media (s : State) (d : DieCode) (f : DieSt → DieSt) : (s.modDie d f).media = s.media := rfl
@[simp] theorem State.modDie_log (s : State) (d : DieCode) (f : DieSt → DieSt) : (s.modDie d f).log = s.log := rfl
@[simp] theorem State.modDie_dbg (s : State) (d : DieCode) (f : DieSt → DieSt) : (s.modDie d f).dbg = s.dbg := rfl

/-! ### modBed -/

@[simp] theorem State.modBed_pending (s : State) (b : BedId) (f : Bed → Bed) : (s.modBed b f).pending = s.pending := rfl
@[simp] theorem State.modBed_tick (s : State) (b : BedId) (f : Bed → Bed) : (s.modBed b f).tick = s.tick := rfl
@[simp] theorem State.modBed_timeNs (s : State) (b : BedId) (f : Bed → Bed) : (s.modBed b f).timeNs = s.timeNs := rfl
@[simp] theorem State.modBed_out (s : State) (b : BedId) (f : Bed → Bed) : (s.modBed b f).out = s.out := rfl
@[simp] theorem State.modBed_fuses (s : State) (b : BedId) (f : Bed → Bed) : (s.modBed b f).fuses = s.fuses := rfl
@[simp] theorem State.modBed_clk (s : State) (b : BedId) (f : Bed → Bed) : (s.modBed b f).clk = s.clk := rfl
@[simp] theorem State.modBed_pins (s : State) (b : BedId) (f : Bed → Bed) : (s.modBed b f).pins = s.pins := rfl
@[simp] theorem State.modBed_pw (s : State) (b : BedId) (f : Bed → Bed) : (s.modBed b f).pw = s.pw := rfl
@[simp] theorem State.modBed_sec (s : State) (b : BedId) (f : Bed → Bed) : (s.modBed b f).sec = s.sec := rfl
@[simp] theorem State.modBed_host (s : State) (b : BedId) (f : Bed → Bed) : (s.modBed b f).host = s.host := rfl
@[simp] theorem State.modBed_ctxs (s : State) (b : BedId) (f : Bed → Bed) : (s.modBed b f).ctxs = s.ctxs := rfl
@[simp] theorem State.modBed_running (s : State) (b : BedId) (f : Bed → Bed) : (s.modBed b f).running = s.running := rfl
@[simp] theorem State.modBed_regs (s : State) (b : BedId) (f : Bed → Bed) : (s.modBed b f).regs = s.regs := rfl
@[simp] theorem State.modBed_cores (s : State) (b : BedId) (f : Bed → Bed) : (s.modBed b f).cores = s.cores := rfl
@[simp] theorem State.modBed_slices (s : State) (b : BedId) (f : Bed → Bed) : (s.modBed b f).slices = s.slices := rfl
@[simp] theorem State.modBed_dies (s : State) (b : BedId) (f : Bed → Bed) : (s.modBed b f).dies = s.dies := rfl
@[simp] theorem State.modBed_beds (s : State) (b : BedId) (f : Bed → Bed) : (s.modBed b f).beds = vmod s.beds b f := rfl
@[simp] theorem State.modBed_hbm (s : State) (b : BedId) (f : Bed → Bed) : (s.modBed b f).hbm = s.hbm := rfl
@[simp] theorem State.modBed_fabric (s : State) (b : BedId) (f : Bed → Bed) : (s.modBed b f).fabric = s.fabric := rfl
@[simp] theorem State.modBed_media (s : State) (b : BedId) (f : Bed → Bed) : (s.modBed b f).media = s.media := rfl
@[simp] theorem State.modBed_log (s : State) (b : BedId) (f : Bed → Bed) : (s.modBed b f).log = s.log := rfl
@[simp] theorem State.modBed_dbg (s : State) (b : BedId) (f : Bed → Bed) : (s.modBed b f).dbg = s.dbg := rfl

/-! ### modHost -/

@[simp] theorem State.modHost_pending (s : State) (f : HostIf → HostIf) : (s.modHost f).pending = s.pending := rfl
@[simp] theorem State.modHost_tick (s : State) (f : HostIf → HostIf) : (s.modHost f).tick = s.tick := rfl
@[simp] theorem State.modHost_timeNs (s : State) (f : HostIf → HostIf) : (s.modHost f).timeNs = s.timeNs := rfl
@[simp] theorem State.modHost_out (s : State) (f : HostIf → HostIf) : (s.modHost f).out = s.out := rfl
@[simp] theorem State.modHost_fuses (s : State) (f : HostIf → HostIf) : (s.modHost f).fuses = s.fuses := rfl
@[simp] theorem State.modHost_clk (s : State) (f : HostIf → HostIf) : (s.modHost f).clk = s.clk := rfl
@[simp] theorem State.modHost_pins (s : State) (f : HostIf → HostIf) : (s.modHost f).pins = s.pins := rfl
@[simp] theorem State.modHost_pw (s : State) (f : HostIf → HostIf) : (s.modHost f).pw = s.pw := rfl
@[simp] theorem State.modHost_sec (s : State) (f : HostIf → HostIf) : (s.modHost f).sec = s.sec := rfl
@[simp] theorem State.modHost_host (s : State) (f : HostIf → HostIf) : (s.modHost f).host = f s.host := rfl
@[simp] theorem State.modHost_ctxs (s : State) (f : HostIf → HostIf) : (s.modHost f).ctxs = s.ctxs := rfl
@[simp] theorem State.modHost_running (s : State) (f : HostIf → HostIf) : (s.modHost f).running = s.running := rfl
@[simp] theorem State.modHost_regs (s : State) (f : HostIf → HostIf) : (s.modHost f).regs = s.regs := rfl
@[simp] theorem State.modHost_cores (s : State) (f : HostIf → HostIf) : (s.modHost f).cores = s.cores := rfl
@[simp] theorem State.modHost_slices (s : State) (f : HostIf → HostIf) : (s.modHost f).slices = s.slices := rfl
@[simp] theorem State.modHost_dies (s : State) (f : HostIf → HostIf) : (s.modHost f).dies = s.dies := rfl
@[simp] theorem State.modHost_beds (s : State) (f : HostIf → HostIf) : (s.modHost f).beds = s.beds := rfl
@[simp] theorem State.modHost_hbm (s : State) (f : HostIf → HostIf) : (s.modHost f).hbm = s.hbm := rfl
@[simp] theorem State.modHost_fabric (s : State) (f : HostIf → HostIf) : (s.modHost f).fabric = s.fabric := rfl
@[simp] theorem State.modHost_media (s : State) (f : HostIf → HostIf) : (s.modHost f).media = s.media := rfl
@[simp] theorem State.modHost_log (s : State) (f : HostIf → HostIf) : (s.modHost f).log = s.log := rfl
@[simp] theorem State.modHost_dbg (s : State) (f : HostIf → HostIf) : (s.modHost f).dbg = s.dbg := rfl

/-! ### modHbm -/

@[simp] theorem State.modHbm_pending (s : State) (f : Hbm → Hbm) : (s.modHbm f).pending = s.pending := rfl
@[simp] theorem State.modHbm_tick (s : State) (f : Hbm → Hbm) : (s.modHbm f).tick = s.tick := rfl
@[simp] theorem State.modHbm_timeNs (s : State) (f : Hbm → Hbm) : (s.modHbm f).timeNs = s.timeNs := rfl
@[simp] theorem State.modHbm_out (s : State) (f : Hbm → Hbm) : (s.modHbm f).out = s.out := rfl
@[simp] theorem State.modHbm_fuses (s : State) (f : Hbm → Hbm) : (s.modHbm f).fuses = s.fuses := rfl
@[simp] theorem State.modHbm_clk (s : State) (f : Hbm → Hbm) : (s.modHbm f).clk = s.clk := rfl
@[simp] theorem State.modHbm_pins (s : State) (f : Hbm → Hbm) : (s.modHbm f).pins = s.pins := rfl
@[simp] theorem State.modHbm_pw (s : State) (f : Hbm → Hbm) : (s.modHbm f).pw = s.pw := rfl
@[simp] theorem State.modHbm_sec (s : State) (f : Hbm → Hbm) : (s.modHbm f).sec = s.sec := rfl
@[simp] theorem State.modHbm_host (s : State) (f : Hbm → Hbm) : (s.modHbm f).host = s.host := rfl
@[simp] theorem State.modHbm_ctxs (s : State) (f : Hbm → Hbm) : (s.modHbm f).ctxs = s.ctxs := rfl
@[simp] theorem State.modHbm_running (s : State) (f : Hbm → Hbm) : (s.modHbm f).running = s.running := rfl
@[simp] theorem State.modHbm_regs (s : State) (f : Hbm → Hbm) : (s.modHbm f).regs = s.regs := rfl
@[simp] theorem State.modHbm_cores (s : State) (f : Hbm → Hbm) : (s.modHbm f).cores = s.cores := rfl
@[simp] theorem State.modHbm_slices (s : State) (f : Hbm → Hbm) : (s.modHbm f).slices = s.slices := rfl
@[simp] theorem State.modHbm_dies (s : State) (f : Hbm → Hbm) : (s.modHbm f).dies = s.dies := rfl
@[simp] theorem State.modHbm_beds (s : State) (f : Hbm → Hbm) : (s.modHbm f).beds = s.beds := rfl
@[simp] theorem State.modHbm_hbm (s : State) (f : Hbm → Hbm) : (s.modHbm f).hbm = f s.hbm := rfl
@[simp] theorem State.modHbm_fabric (s : State) (f : Hbm → Hbm) : (s.modHbm f).fabric = s.fabric := rfl
@[simp] theorem State.modHbm_media (s : State) (f : Hbm → Hbm) : (s.modHbm f).media = s.media := rfl
@[simp] theorem State.modHbm_log (s : State) (f : Hbm → Hbm) : (s.modHbm f).log = s.log := rfl
@[simp] theorem State.modHbm_dbg (s : State) (f : Hbm → Hbm) : (s.modHbm f).dbg = s.dbg := rfl

/-! ### modMedia -/

@[simp] theorem State.modMedia_pending (s : State) (f : Media → Media) : (s.modMedia f).pending = s.pending := rfl
@[simp] theorem State.modMedia_tick (s : State) (f : Media → Media) : (s.modMedia f).tick = s.tick := rfl
@[simp] theorem State.modMedia_timeNs (s : State) (f : Media → Media) : (s.modMedia f).timeNs = s.timeNs := rfl
@[simp] theorem State.modMedia_out (s : State) (f : Media → Media) : (s.modMedia f).out = s.out := rfl
@[simp] theorem State.modMedia_fuses (s : State) (f : Media → Media) : (s.modMedia f).fuses = s.fuses := rfl
@[simp] theorem State.modMedia_clk (s : State) (f : Media → Media) : (s.modMedia f).clk = s.clk := rfl
@[simp] theorem State.modMedia_pins (s : State) (f : Media → Media) : (s.modMedia f).pins = s.pins := rfl
@[simp] theorem State.modMedia_pw (s : State) (f : Media → Media) : (s.modMedia f).pw = s.pw := rfl
@[simp] theorem State.modMedia_sec (s : State) (f : Media → Media) : (s.modMedia f).sec = s.sec := rfl
@[simp] theorem State.modMedia_host (s : State) (f : Media → Media) : (s.modMedia f).host = s.host := rfl
@[simp] theorem State.modMedia_ctxs (s : State) (f : Media → Media) : (s.modMedia f).ctxs = s.ctxs := rfl
@[simp] theorem State.modMedia_running (s : State) (f : Media → Media) : (s.modMedia f).running = s.running := rfl
@[simp] theorem State.modMedia_regs (s : State) (f : Media → Media) : (s.modMedia f).regs = s.regs := rfl
@[simp] theorem State.modMedia_cores (s : State) (f : Media → Media) : (s.modMedia f).cores = s.cores := rfl
@[simp] theorem State.modMedia_slices (s : State) (f : Media → Media) : (s.modMedia f).slices = s.slices := rfl
@[simp] theorem State.modMedia_dies (s : State) (f : Media → Media) : (s.modMedia f).dies = s.dies := rfl
@[simp] theorem State.modMedia_beds (s : State) (f : Media → Media) : (s.modMedia f).beds = s.beds := rfl
@[simp] theorem State.modMedia_hbm (s : State) (f : Media → Media) : (s.modMedia f).hbm = s.hbm := rfl
@[simp] theorem State.modMedia_fabric (s : State) (f : Media → Media) : (s.modMedia f).fabric = s.fabric := rfl
@[simp] theorem State.modMedia_media (s : State) (f : Media → Media) : (s.modMedia f).media = f s.media := rfl
@[simp] theorem State.modMedia_log (s : State) (f : Media → Media) : (s.modMedia f).log = s.log := rfl
@[simp] theorem State.modMedia_dbg (s : State) (f : Media → Media) : (s.modMedia f).dbg = s.dbg := rfl

/-! ### modFabric -/

@[simp] theorem State.modFabric_pending (s : State) (f : Fabric → Fabric) : (s.modFabric f).pending = s.pending := rfl
@[simp] theorem State.modFabric_tick (s : State) (f : Fabric → Fabric) : (s.modFabric f).tick = s.tick := rfl
@[simp] theorem State.modFabric_timeNs (s : State) (f : Fabric → Fabric) : (s.modFabric f).timeNs = s.timeNs := rfl
@[simp] theorem State.modFabric_out (s : State) (f : Fabric → Fabric) : (s.modFabric f).out = s.out := rfl
@[simp] theorem State.modFabric_fuses (s : State) (f : Fabric → Fabric) : (s.modFabric f).fuses = s.fuses := rfl
@[simp] theorem State.modFabric_clk (s : State) (f : Fabric → Fabric) : (s.modFabric f).clk = s.clk := rfl
@[simp] theorem State.modFabric_pins (s : State) (f : Fabric → Fabric) : (s.modFabric f).pins = s.pins := rfl
@[simp] theorem State.modFabric_pw (s : State) (f : Fabric → Fabric) : (s.modFabric f).pw = s.pw := rfl
@[simp] theorem State.modFabric_sec (s : State) (f : Fabric → Fabric) : (s.modFabric f).sec = s.sec := rfl
@[simp] theorem State.modFabric_host (s : State) (f : Fabric → Fabric) : (s.modFabric f).host = s.host := rfl
@[simp] theorem State.modFabric_ctxs (s : State) (f : Fabric → Fabric) : (s.modFabric f).ctxs = s.ctxs := rfl
@[simp] theorem State.modFabric_running (s : State) (f : Fabric → Fabric) : (s.modFabric f).running = s.running := rfl
@[simp] theorem State.modFabric_regs (s : State) (f : Fabric → Fabric) : (s.modFabric f).regs = s.regs := rfl
@[simp] theorem State.modFabric_cores (s : State) (f : Fabric → Fabric) : (s.modFabric f).cores = s.cores := rfl
@[simp] theorem State.modFabric_slices (s : State) (f : Fabric → Fabric) : (s.modFabric f).slices = s.slices := rfl
@[simp] theorem State.modFabric_dies (s : State) (f : Fabric → Fabric) : (s.modFabric f).dies = s.dies := rfl
@[simp] theorem State.modFabric_beds (s : State) (f : Fabric → Fabric) : (s.modFabric f).beds = s.beds := rfl
@[simp] theorem State.modFabric_hbm (s : State) (f : Fabric → Fabric) : (s.modFabric f).hbm = s.hbm := rfl
@[simp] theorem State.modFabric_fabric (s : State) (f : Fabric → Fabric) : (s.modFabric f).fabric = f s.fabric := rfl
@[simp] theorem State.modFabric_media (s : State) (f : Fabric → Fabric) : (s.modFabric f).media = s.media := rfl
@[simp] theorem State.modFabric_log (s : State) (f : Fabric → Fabric) : (s.modFabric f).log = s.log := rfl
@[simp] theorem State.modFabric_dbg (s : State) (f : Fabric → Fabric) : (s.modFabric f).dbg = s.dbg := rfl

/-! ### putCtx -/

@[simp] theorem State.putCtx_pending (s : State) (c : CtxId) (x : Ctx) : (s.putCtx c x).pending = s.pending := rfl
@[simp] theorem State.putCtx_tick (s : State) (c : CtxId) (x : Ctx) : (s.putCtx c x).tick = s.tick := rfl
@[simp] theorem State.putCtx_timeNs (s : State) (c : CtxId) (x : Ctx) : (s.putCtx c x).timeNs = s.timeNs := rfl
@[simp] theorem State.putCtx_out (s : State) (c : CtxId) (x : Ctx) : (s.putCtx c x).out = s.out := rfl
@[simp] theorem State.putCtx_fuses (s : State) (c : CtxId) (x : Ctx) : (s.putCtx c x).fuses = s.fuses := rfl
@[simp] theorem State.putCtx_clk (s : State) (c : CtxId) (x : Ctx) : (s.putCtx c x).clk = s.clk := rfl
@[simp] theorem State.putCtx_pins (s : State) (c : CtxId) (x : Ctx) : (s.putCtx c x).pins = s.pins := rfl
@[simp] theorem State.putCtx_pw (s : State) (c : CtxId) (x : Ctx) : (s.putCtx c x).pw = s.pw := rfl
@[simp] theorem State.putCtx_sec (s : State) (c : CtxId) (x : Ctx) : (s.putCtx c x).sec = s.sec := rfl
@[simp] theorem State.putCtx_host (s : State) (c : CtxId) (x : Ctx) : (s.putCtx c x).host = s.host := rfl
@[simp] theorem State.putCtx_ctxs (s : State) (c : CtxId) (x : Ctx) : (s.putCtx c x).ctxs = assocSet c x s.ctxs := rfl
@[simp] theorem State.putCtx_running (s : State) (c : CtxId) (x : Ctx) : (s.putCtx c x).running = s.running := rfl
@[simp] theorem State.putCtx_regs (s : State) (c : CtxId) (x : Ctx) : (s.putCtx c x).regs = s.regs := rfl
@[simp] theorem State.putCtx_cores (s : State) (c : CtxId) (x : Ctx) : (s.putCtx c x).cores = s.cores := rfl
@[simp] theorem State.putCtx_slices (s : State) (c : CtxId) (x : Ctx) : (s.putCtx c x).slices = s.slices := rfl
@[simp] theorem State.putCtx_dies (s : State) (c : CtxId) (x : Ctx) : (s.putCtx c x).dies = s.dies := rfl
@[simp] theorem State.putCtx_beds (s : State) (c : CtxId) (x : Ctx) : (s.putCtx c x).beds = s.beds := rfl
@[simp] theorem State.putCtx_hbm (s : State) (c : CtxId) (x : Ctx) : (s.putCtx c x).hbm = s.hbm := rfl
@[simp] theorem State.putCtx_fabric (s : State) (c : CtxId) (x : Ctx) : (s.putCtx c x).fabric = s.fabric := rfl
@[simp] theorem State.putCtx_media (s : State) (c : CtxId) (x : Ctx) : (s.putCtx c x).media = s.media := rfl
@[simp] theorem State.putCtx_log (s : State) (c : CtxId) (x : Ctx) : (s.putCtx c x).log = s.log := rfl
@[simp] theorem State.putCtx_dbg (s : State) (c : CtxId) (x : Ctx) : (s.putCtx c x).dbg = s.dbg := rfl

/-! ### mapCores -/

@[simp] theorem State.mapCores_pending (s : State) (f : CoreId → Core → Core) : (s.mapCores f).pending = s.pending := by unfold State.mapCores; rfl
@[simp] theorem State.mapCores_tick (s : State) (f : CoreId → Core → Core) : (s.mapCores f).tick = s.tick := by unfold State.mapCores; rfl
@[simp] theorem State.mapCores_timeNs (s : State) (f : CoreId → Core → Core) : (s.mapCores f).timeNs = s.timeNs := by unfold State.mapCores; rfl
@[simp] theorem State.mapCores_out (s : State) (f : CoreId → Core → Core) : (s.mapCores f).out = s.out := by unfold State.mapCores; rfl
@[simp] theorem State.mapCores_fuses (s : State) (f : CoreId → Core → Core) : (s.mapCores f).fuses = s.fuses := by unfold State.mapCores; rfl
@[simp] theorem State.mapCores_clk (s : State) (f : CoreId → Core → Core) : (s.mapCores f).clk = s.clk := by unfold State.mapCores; rfl
@[simp] theorem State.mapCores_pins (s : State) (f : CoreId → Core → Core) : (s.mapCores f).pins = s.pins := by unfold State.mapCores; rfl
@[simp] theorem State.mapCores_pw (s : State) (f : CoreId → Core → Core) : (s.mapCores f).pw = s.pw := by unfold State.mapCores; rfl
@[simp] theorem State.mapCores_sec (s : State) (f : CoreId → Core → Core) : (s.mapCores f).sec = s.sec := by unfold State.mapCores; rfl
@[simp] theorem State.mapCores_host (s : State) (f : CoreId → Core → Core) : (s.mapCores f).host = s.host := by unfold State.mapCores; rfl
@[simp] theorem State.mapCores_ctxs (s : State) (f : CoreId → Core → Core) : (s.mapCores f).ctxs = s.ctxs := by unfold State.mapCores; rfl
@[simp] theorem State.mapCores_running (s : State) (f : CoreId → Core → Core) : (s.mapCores f).running = s.running := by unfold State.mapCores; rfl
@[simp] theorem State.mapCores_regs (s : State) (f : CoreId → Core → Core) : (s.mapCores f).regs = s.regs := by unfold State.mapCores; rfl
@[simp] theorem State.mapCores_cores (s : State) (f : CoreId → Core → Core) : (s.mapCores f).cores = Vector.ofFn fun i => f i (s.cores.get i) := by unfold State.mapCores; rfl
@[simp] theorem State.mapCores_slices (s : State) (f : CoreId → Core → Core) : (s.mapCores f).slices = s.slices := by unfold State.mapCores; rfl
@[simp] theorem State.mapCores_dies (s : State) (f : CoreId → Core → Core) : (s.mapCores f).dies = s.dies := by unfold State.mapCores; rfl
@[simp] theorem State.mapCores_beds (s : State) (f : CoreId → Core → Core) : (s.mapCores f).beds = s.beds := by unfold State.mapCores; rfl
@[simp] theorem State.mapCores_hbm (s : State) (f : CoreId → Core → Core) : (s.mapCores f).hbm = s.hbm := by unfold State.mapCores; rfl
@[simp] theorem State.mapCores_fabric (s : State) (f : CoreId → Core → Core) : (s.mapCores f).fabric = s.fabric := by unfold State.mapCores; rfl
@[simp] theorem State.mapCores_media (s : State) (f : CoreId → Core → Core) : (s.mapCores f).media = s.media := by unfold State.mapCores; rfl
@[simp] theorem State.mapCores_log (s : State) (f : CoreId → Core → Core) : (s.mapCores f).log = s.log := by unfold State.mapCores; rfl
@[simp] theorem State.mapCores_dbg (s : State) (f : CoreId → Core → Core) : (s.mapCores f).dbg = s.dbg := by unfold State.mapCores; rfl

/-! ### stamp -/

@[simp] theorem State.stamp_pending (s : State) : (s.stamp).pending = s.pending := rfl
@[simp] theorem State.stamp_tick (s : State) : (s.stamp).tick = s.tick + 1 := rfl
@[simp] theorem State.stamp_timeNs (s : State) : (s.stamp).timeNs = s.timeNs + Config.elapsedNs s.tick := rfl
@[simp] theorem State.stamp_out (s : State) : (s.stamp).out = s.out := rfl
@[simp] theorem State.stamp_fuses (s : State) : (s.stamp).fuses = s.fuses := rfl
@[simp] theorem State.stamp_clk (s : State) : (s.stamp).clk = s.clk := rfl
@[simp] theorem State.stamp_pins (s : State) : (s.stamp).pins = s.pins := rfl
@[simp] theorem State.stamp_pw (s : State) : (s.stamp).pw = s.pw := rfl
@[simp] theorem State.stamp_sec (s : State) : (s.stamp).sec = s.sec := rfl
@[simp] theorem State.stamp_host (s : State) : (s.stamp).host = s.host := rfl
@[simp] theorem State.stamp_ctxs (s : State) : (s.stamp).ctxs = s.ctxs := rfl
@[simp] theorem State.stamp_running (s : State) : (s.stamp).running = s.running := rfl
@[simp] theorem State.stamp_regs (s : State) : (s.stamp).regs = s.regs := rfl
@[simp] theorem State.stamp_cores (s : State) : (s.stamp).cores = s.cores := rfl
@[simp] theorem State.stamp_slices (s : State) : (s.stamp).slices = s.slices := rfl
@[simp] theorem State.stamp_dies (s : State) : (s.stamp).dies = s.dies := rfl
@[simp] theorem State.stamp_beds (s : State) : (s.stamp).beds = s.beds := rfl
@[simp] theorem State.stamp_hbm (s : State) : (s.stamp).hbm = s.hbm := rfl
@[simp] theorem State.stamp_fabric (s : State) : (s.stamp).fabric = s.fabric := rfl
@[simp] theorem State.stamp_media (s : State) : (s.stamp).media = s.media := rfl
@[simp] theorem State.stamp_log (s : State) : (s.stamp).log = s.log := rfl
@[simp] theorem State.stamp_dbg (s : State) : (s.stamp).dbg = s.dbg := rfl

/-! ### send -/

@[simp] theorem State.send_pending (s : State) (m : OutMsg) : (s.send m).pending = s.pending := rfl
@[simp] theorem State.send_tick (s : State) (m : OutMsg) : (s.send m).tick = s.tick := rfl
@[simp] theorem State.send_timeNs (s : State) (m : OutMsg) : (s.send m).timeNs = s.timeNs := rfl
@[simp] theorem State.send_out (s : State) (m : OutMsg) : (s.send m).out = m :: s.out := rfl
@[simp] theorem State.send_fuses (s : State) (m : OutMsg) : (s.send m).fuses = s.fuses := rfl
@[simp] theorem State.send_clk (s : State) (m : OutMsg) : (s.send m).clk = s.clk := rfl
@[simp] theorem State.send_pins (s : State) (m : OutMsg) : (s.send m).pins = s.pins := rfl
@[simp] theorem State.send_pw (s : State) (m : OutMsg) : (s.send m).pw = s.pw := rfl
@[simp] theorem State.send_sec (s : State) (m : OutMsg) : (s.send m).sec = s.sec := rfl
@[simp] theorem State.send_host (s : State) (m : OutMsg) : (s.send m).host = s.host := rfl
@[simp] theorem State.send_ctxs (s : State) (m : OutMsg) : (s.send m).ctxs = s.ctxs := rfl
@[simp] theorem State.send_running (s : State) (m : OutMsg) : (s.send m).running = s.running := rfl
@[simp] theorem State.send_regs (s : State) (m : OutMsg) : (s.send m).regs = s.regs := rfl
@[simp] theorem State.send_cores (s : State) (m : OutMsg) : (s.send m).cores = s.cores := rfl
@[simp] theorem State.send_slices (s : State) (m : OutMsg) : (s.send m).slices = s.slices := rfl
@[simp] theorem State.send_dies (s : State) (m : OutMsg) : (s.send m).dies = s.dies := rfl
@[simp] theorem State.send_beds (s : State) (m : OutMsg) : (s.send m).beds = s.beds := rfl
@[simp] theorem State.send_hbm (s : State) (m : OutMsg) : (s.send m).hbm = s.hbm := rfl
@[simp] theorem State.send_fabric (s : State) (m : OutMsg) : (s.send m).fabric = s.fabric := rfl
@[simp] theorem State.send_media (s : State) (m : OutMsg) : (s.send m).media = s.media := rfl
@[simp] theorem State.send_log (s : State) (m : OutMsg) : (s.send m).log = s.log := rfl
@[simp] theorem State.send_dbg (s : State) (m : OutMsg) : (s.send m).dbg = s.dbg := rfl

/-! ### modQueue -/

@[simp] theorem State.modQueue_pending (s : State) (c : CoreId) (q : QueueId) (f : Queue → Queue) : (s.modQueue c q f).pending = s.pending := rfl
@[simp] theorem State.modQueue_tick (s : State) (c : CoreId) (q : QueueId) (f : Queue → Queue) : (s.modQueue c q f).tick = s.tick := rfl
@[simp] theorem State.modQueue_timeNs (s : State) (c : CoreId) (q : QueueId) (f : Queue → Queue) : (s.modQueue c q f).timeNs = s.timeNs := rfl
@[simp] theorem State.modQueue_out (s : State) (c : CoreId) (q : QueueId) (f : Queue → Queue) : (s.modQueue c q f).out = s.out := rfl
@[simp] theorem State.modQueue_fuses (s : State) (c : CoreId) (q : QueueId) (f : Queue → Queue) : (s.modQueue c q f).fuses = s.fuses := rfl
@[simp] theorem State.modQueue_clk (s : State) (c : CoreId) (q : QueueId) (f : Queue → Queue) : (s.modQueue c q f).clk = s.clk := rfl
@[simp] theorem State.modQueue_pins (s : State) (c : CoreId) (q : QueueId) (f : Queue → Queue) : (s.modQueue c q f).pins = s.pins := rfl
@[simp] theorem State.modQueue_pw (s : State) (c : CoreId) (q : QueueId) (f : Queue → Queue) : (s.modQueue c q f).pw = s.pw := rfl
@[simp] theorem State.modQueue_sec (s : State) (c : CoreId) (q : QueueId) (f : Queue → Queue) : (s.modQueue c q f).sec = s.sec := rfl
@[simp] theorem State.modQueue_host (s : State) (c : CoreId) (q : QueueId) (f : Queue → Queue) : (s.modQueue c q f).host = s.host := rfl
@[simp] theorem State.modQueue_ctxs (s : State) (c : CoreId) (q : QueueId) (f : Queue → Queue) : (s.modQueue c q f).ctxs = s.ctxs := rfl
@[simp] theorem State.modQueue_running (s : State) (c : CoreId) (q : QueueId) (f : Queue → Queue) : (s.modQueue c q f).running = s.running := rfl
@[simp] theorem State.modQueue_regs (s : State) (c : CoreId) (q : QueueId) (f : Queue → Queue) : (s.modQueue c q f).regs = s.regs := rfl
@[simp] theorem State.modQueue_cores (s : State) (c : CoreId) (q : QueueId) (f : Queue → Queue) : (s.modQueue c q f).cores = vmod s.cores c fun k => k.modQueue q f := rfl
@[simp] theorem State.modQueue_slices (s : State) (c : CoreId) (q : QueueId) (f : Queue → Queue) : (s.modQueue c q f).slices = s.slices := rfl
@[simp] theorem State.modQueue_dies (s : State) (c : CoreId) (q : QueueId) (f : Queue → Queue) : (s.modQueue c q f).dies = s.dies := rfl
@[simp] theorem State.modQueue_beds (s : State) (c : CoreId) (q : QueueId) (f : Queue → Queue) : (s.modQueue c q f).beds = s.beds := rfl
@[simp] theorem State.modQueue_hbm (s : State) (c : CoreId) (q : QueueId) (f : Queue → Queue) : (s.modQueue c q f).hbm = s.hbm := rfl
@[simp] theorem State.modQueue_fabric (s : State) (c : CoreId) (q : QueueId) (f : Queue → Queue) : (s.modQueue c q f).fabric = s.fabric := rfl
@[simp] theorem State.modQueue_media (s : State) (c : CoreId) (q : QueueId) (f : Queue → Queue) : (s.modQueue c q f).media = s.media := rfl
@[simp] theorem State.modQueue_log (s : State) (c : CoreId) (q : QueueId) (f : Queue → Queue) : (s.modQueue c q f).log = s.log := rfl
@[simp] theorem State.modQueue_dbg (s : State) (c : CoreId) (q : QueueId) (f : Queue → Queue) : (s.modQueue c q f).dbg = s.dbg := rfl

/-! ### A context changed -/

@[simp] theorem State.modCtx_pending (s : State) (c : CtxId) (f : Ctx → Ctx) : (s.modCtx c f).pending = s.pending := by
  unfold State.modCtx; split <;> rfl
@[simp] theorem State.modCtx_tick (s : State) (c : CtxId) (f : Ctx → Ctx) : (s.modCtx c f).tick = s.tick := by
  unfold State.modCtx; split <;> rfl
@[simp] theorem State.modCtx_timeNs (s : State) (c : CtxId) (f : Ctx → Ctx) : (s.modCtx c f).timeNs = s.timeNs := by
  unfold State.modCtx; split <;> rfl
@[simp] theorem State.modCtx_out (s : State) (c : CtxId) (f : Ctx → Ctx) : (s.modCtx c f).out = s.out := by
  unfold State.modCtx; split <;> rfl
@[simp] theorem State.modCtx_fuses (s : State) (c : CtxId) (f : Ctx → Ctx) : (s.modCtx c f).fuses = s.fuses := by
  unfold State.modCtx; split <;> rfl
@[simp] theorem State.modCtx_clk (s : State) (c : CtxId) (f : Ctx → Ctx) : (s.modCtx c f).clk = s.clk := by
  unfold State.modCtx; split <;> rfl
@[simp] theorem State.modCtx_pins (s : State) (c : CtxId) (f : Ctx → Ctx) : (s.modCtx c f).pins = s.pins := by
  unfold State.modCtx; split <;> rfl
@[simp] theorem State.modCtx_pw (s : State) (c : CtxId) (f : Ctx → Ctx) : (s.modCtx c f).pw = s.pw := by
  unfold State.modCtx; split <;> rfl
@[simp] theorem State.modCtx_sec (s : State) (c : CtxId) (f : Ctx → Ctx) : (s.modCtx c f).sec = s.sec := by
  unfold State.modCtx; split <;> rfl
@[simp] theorem State.modCtx_host (s : State) (c : CtxId) (f : Ctx → Ctx) : (s.modCtx c f).host = s.host := by
  unfold State.modCtx; split <;> rfl
@[simp] theorem State.modCtx_running (s : State) (c : CtxId) (f : Ctx → Ctx) : (s.modCtx c f).running = s.running := by
  unfold State.modCtx; split <;> rfl
@[simp] theorem State.modCtx_regs (s : State) (c : CtxId) (f : Ctx → Ctx) : (s.modCtx c f).regs = s.regs := by
  unfold State.modCtx; split <;> rfl
@[simp] theorem State.modCtx_cores (s : State) (c : CtxId) (f : Ctx → Ctx) : (s.modCtx c f).cores = s.cores := by
  unfold State.modCtx; split <;> rfl
@[simp] theorem State.modCtx_slices (s : State) (c : CtxId) (f : Ctx → Ctx) : (s.modCtx c f).slices = s.slices := by
  unfold State.modCtx; split <;> rfl
@[simp] theorem State.modCtx_dies (s : State) (c : CtxId) (f : Ctx → Ctx) : (s.modCtx c f).dies = s.dies := by
  unfold State.modCtx; split <;> rfl
@[simp] theorem State.modCtx_beds (s : State) (c : CtxId) (f : Ctx → Ctx) : (s.modCtx c f).beds = s.beds := by
  unfold State.modCtx; split <;> rfl
@[simp] theorem State.modCtx_hbm (s : State) (c : CtxId) (f : Ctx → Ctx) : (s.modCtx c f).hbm = s.hbm := by
  unfold State.modCtx; split <;> rfl
@[simp] theorem State.modCtx_fabric (s : State) (c : CtxId) (f : Ctx → Ctx) : (s.modCtx c f).fabric = s.fabric := by
  unfold State.modCtx; split <;> rfl
@[simp] theorem State.modCtx_media (s : State) (c : CtxId) (f : Ctx → Ctx) : (s.modCtx c f).media = s.media := by
  unfold State.modCtx; split <;> rfl
@[simp] theorem State.modCtx_log (s : State) (c : CtxId) (f : Ctx → Ctx) : (s.modCtx c f).log = s.log := by
  unfold State.modCtx; split <;> rfl
@[simp] theorem State.modCtx_dbg (s : State) (c : CtxId) (f : Ctx → Ctx) : (s.modCtx c f).dbg = s.dbg := by
  unfold State.modCtx; split <;> rfl

/-! ### Vectors -/

@[simp] theorem vmod_get_same {α : Type} {n : Nat} (v : Vector α n) (i : Fin n) (f : α → α) : (vmod v i f).get i = f (v.get i) := by
  show (v.set i.val (f (v.get i)) i.isLt)[i.val] = f (v.get i)
  simp

theorem vmod_get_other {α : Type} {n : Nat} (v : Vector α n) (i j : Fin n) (f : α → α) (h : j ≠ i) : (vmod v i f).get j = v.get j := by
  show (v.set i.val (f (v.get i)) i.isLt)[j.val] = v[j.val]
  exact Vector.getElem_set_ne _ _ fun e => h (Fin.ext e.symm)

/-- The other entries, whichever way the two indices compare. -/
theorem vmod_get {α : Type} {n : Nat} (v : Vector α n) (i j : Fin n) (f : α → α) : (vmod v i f).get j = if j = i then f (v.get i) else v.get j := by
  by_cases h : j = i
  · subst h; simp
  · simp [h, vmod_get_other v i j f h]

end Sys2Proof.Machine
end

