-- ==== Sys2Proof/Laws/Cores.lean ====
section
/-! SUPPORT. What the shared operations of a core can touch: the core, its queue, wet marks, and the slice of its die. -/

namespace Sys2Proof.Machine

open Sys2Proof

/-! ## Reading one core, one slice, one queue -/

@[simp] theorem core_modCore_same (s : State) (c : CoreId) (f : Core → Core) : (s.modCore c f).core c = f (s.core c) := by
  simp [State.core]
theorem core_modCore_other (s : State) {c k : CoreId} (f : Core → Core) (h : k ≠ c) : (s.modCore c f).core k = s.core k := by
  simp [State.core, vmod_get_other _ _ _ _ h]
@[simp] theorem slice_modCore (s : State) (c : CoreId) (f : Core → Core) (d : DieId) : (s.modCore c f).slice d = s.slice d := rfl
@[simp] theorem core_modSlice (s : State) (d : DieId) (f : Slice → Slice) (c : CoreId) : (s.modSlice d f).core c = s.core c := rfl
@[simp] theorem slice_modSlice_same (s : State) (d : DieId) (f : Slice → Slice) : (s.modSlice d f).slice d = f (s.slice d) := by
  simp [State.slice]
theorem slice_modSlice_other (s : State) {d g : DieId} (f : Slice → Slice) (h : g ≠ d) : (s.modSlice d f).slice g = s.slice g := by
  simp [State.slice, vmod_get_other _ _ _ _ h]
@[simp] theorem queue_modQueue_same (k : Core) (q : QueueId) (f : Queue → Queue) : (k.modQueue q f).queue q = f (k.queue q) := by
  simp [Core.modQueue, Core.queue]
theorem queue_modQueue_other (k : Core) {q r : QueueId} (f : Queue → Queue) (h : r ≠ q) : (k.modQueue q f).queue r = k.queue r := by
  simp [Core.modQueue, Core.queue, vmod_get_other _ _ _ _ h]
@[simp] theorem core_modQueue_same (s : State) (c : CoreId) (q : QueueId) (f : Queue → Queue) :
    (s.modQueue c q f).core c = (s.core c).modQueue q f := by simp [State.modQueue]
@[simp] theorem slice_modQueue (s : State) (c : CoreId) (q : QueueId) (f : Queue → Queue) (d : DieId) :
    (s.modQueue c q f).slice d = s.slice d := rfl
@[simp] theorem modQueue_cyc (k : Core) (q : QueueId) (f : Queue → Queue) : (k.modQueue q f).cyc = k.cyc := rfl
@[simp] theorem modQueue_plates (k : Core) (q : QueueId) (f : Queue → Queue) : (k.modQueue q f).plates = k.plates := rfl
@[simp] theorem modQueue_plate (k : Core) (q : QueueId) (f : Queue → Queue) : (k.modQueue q f).plate = k.plate := rfl
@[simp] theorem modQueue_ports (k : Core) (q : QueueId) (f : Queue → Queue) : (k.modQueue q f).ports = k.ports := rfl
@[simp] theorem modQueue_cur (k : Core) (q : QueueId) (f : Queue → Queue) : (k.modQueue q f).cur = k.cur := rfl
@[simp] theorem modQueue_ctr (k : Core) (q : QueueId) (f : Queue → Queue) : (k.modQueue q f).ctr = k.ctr := rfl

/-! ## What stays -/

theorem OnlyCore.same (s : State) (c : CoreId) : OnlyCore s s c := ⟨rfl, fun _ _ => rfl, fun _ => rfl⟩
theorem OnlyDie.same (s : State) (c : CoreId) : OnlyDie s s c := ⟨rfl, fun _ _ => rfl, fun _ _ => rfl⟩
theorem OnlyCore.die {s t : State} {c : CoreId} (h : OnlyCore s t c) : OnlyDie s t c := ⟨h.rest, h.others, fun d _ => h.pads d⟩

theorem OnlyCore.trans {s t u : State} {c : CoreId} (a : OnlyCore s t c) (b : OnlyCore t u c) : OnlyCore s u c := by
  refine ⟨?_, fun k hk => (b.others k hk).trans (a.others k hk), fun d => (b.pads d).trans (a.pads d)⟩
  have h1 := a.rest
  have h2 := b.rest
  rw [h1] at h2
  exact h2

theorem OnlyDie.trans {s t u : State} {c : CoreId} (a : OnlyDie s t c) (b : OnlyDie t u c) : OnlyDie s u c := by
  refine ⟨?_, fun k hk => (b.others k hk).trans (a.others k hk), fun d hd => (b.pads d hd).trans (a.pads d hd)⟩
  have h1 := a.rest
  have h2 := b.rest
  rw [h1] at h2
  exact h2

theorem OnlyCore.modCore (s : State) (c : CoreId) (f : Core → Core) : OnlyCore s (s.modCore c f) c :=
  ⟨rfl, fun _ h => core_modCore_other s f h, fun _ => rfl⟩
theorem OnlyCore.modQueue (s : State) (c : CoreId) (q : QueueId) (f : Queue → Queue) : OnlyCore s (s.modQueue c q f) c := OnlyCore.modCore _ _ _
theorem OnlyCore.setRun (s : State) (c : CoreId) (q : QueueId) (r : Run) : OnlyCore s (s.setRun c q r) c := OnlyCore.modCore _ _ _
theorem OnlyCore.endOp (s : State) (c : CoreId) (q : QueueId) (t : Nat) : OnlyCore s (s.endOp c q t) c := OnlyCore.modCore _ _ _
theorem OnlyCore.busyTo (s : State) (c : CoreId) (t : Nat) : OnlyCore s (s.busyTo c t) c := OnlyCore.modCore _ _ _
theorem OnlyCore.stallTo (s : State) (c : CoreId) (k : Fin 16) (t : Nat) : OnlyCore s (s.stallTo c k t) c := OnlyCore.modCore _ _ _

/-- A change of the marks of one slice. -/
theorem OnlyCore.marks (s : State) (c : CoreId) (d : DieId) (f : Slice → Slice) (h : ∀ k, (f k).mem = k.mem) : OnlyCore s (s.modSlice d f) c := by
  refine ⟨rfl, fun _ _ => rfl, fun g => ?_⟩
  by_cases hg : g = d
  · subst hg; simp [h]
  · simp [slice_modSlice_other _ _ hg]

theorem OnlyCore.markWet (s : State) (c k : CoreId) (d : DieId) (q : QueueId) (op : Nat) (tag : Word32) (t : Nat) (ls : List (Nat × Option Nat)) :
    OnlyCore s (s.markWet d k q op tag t ls) c := OnlyCore.marks _ _ _ _ fun _ => rfl
theorem OnlyCore.pruneMarks (s : State) (c : CoreId) (t : Nat) : OnlyCore s (s.pruneMarks c t) c := OnlyCore.marks _ _ _ _ fun _ => rfl
theorem OnlyCore.clearMarks (s : State) (c k : CoreId) (q : QueueId) (op : Nat) : OnlyCore s (s.clearMarks k q op) c := by
  refine ⟨rfl, fun _ _ => rfl, fun g => ?_⟩
  simp [State.clearMarks, State.slice, Vector.get]
  rfl
theorem OnlyCore.moveMarks (s : State) (c : CoreId) (q : QueueId) (op base : Nat) (f : Nat → Option Nat) : OnlyCore s (s.moveMarks c q op base f) c :=
  OnlyCore.marks _ _ _ _ fun _ => rfl
theorem OnlyCore.delayMarks (s : State) (c : CoreId) (q : QueueId) (op base d : Nat) : OnlyCore s (s.delayMarks c q op base d) c := by
  unfold State.delayMarks
  split
  · exact OnlyCore.same _ _
  · exact OnlyCore.moveMarks _ _ _ _ _ _

/-- The check and the marks of an issue leave cores and bytes alone. -/
theorem OnlyCore.openWriter {s t : State} {c : CoreId} {u : Cur} {units : List (List Nat × Nat)} {e : Nat} (h : s.openWriter c u units e = .ok t) :
    OnlyCore s t c ∧ t.cores = s.cores := by
  unfold State.openWriter at h
  split at h
  · cases h; exact ⟨OnlyCore.same _ _, rfl⟩
  · simp only [] at h
    split at h
    · cases h
    · cases h
      exact ⟨(OnlyCore.clearMarks _ _ _ _ _).trans (OnlyCore.markWet _ _ _ _ _ _ _ _ _), rfl⟩

theorem OnlyDie.putAll (s : State) (c : CoreId) (ps : List Put) : OnlyDie s (s.putAll c ps) c :=
  ⟨rfl, fun _ _ => rfl, fun _ h => by simp [State.putAll, slice_modSlice_other _ _ h]⟩

/-! ## The wet-ink check on dry lines -/

/-- Lines that only the operation's own marks cover meet no wet line. -/
theorem State.dry.wetHit {s : State} {c : CoreId} {u : Cur} {ls : List Nat} (h : s.dry c u ls) (t : Nat) : s.wetHit c u.q u.run.op t ls = none := by
  unfold State.wetHit
  rw [List.find?_eq_none]
  intro m hm
  simp only [Bool.and_eq_true, decide_eq_true_eq, Bool.not_eq_true', not_and, Bool.not_eq_true]
  rintro ⟨h1, h2⟩
  rw [h m hm h1] at h2
  cases h2

/-- Marks of the operation's own and fewer others keep lines dry. -/
theorem State.dry.mono {s t : State} {c : CoreId} {u : Cur} {ls : List Nat} (h : s.dry c u ls)
    (hs : ∀ m ∈ (t.slice c.die).wet, m ∈ (s.slice c.die).wet ∨ m.own c u.q u.run.op = true) : t.dry c u ls := by
  intro m hm hl
  rcases hs m hm with h1 | h1
  · exact h m h1 hl
  · exact h1

theorem WetMark.own_markWet {c : CoreId} {q : QueueId} {op : Nat} {tag : Word32} {t l : Nat} {e : Option Nat} :
    (⟨l, c, q, op, tag, t, e⟩ : WetMark).own c q op = true := by simp [WetMark.own]

/-- After an issue the marks are the old ones or the operation's own. -/
theorem State.openWriter_wet {s t : State} {c : CoreId} {u : Cur} {units : List (List Nat × Nat)} {e : Nat} (h : s.openWriter c u units e = .ok t) :
    ∀ m ∈ (t.slice c.die).wet, m ∈ (s.slice c.die).wet ∨ m.own c u.q u.run.op = true := by
  unfold State.openWriter at h
  split at h
  · cases h; exact fun m hm => .inl hm
  · simp only [] at h
    split at h
    · cases h
    · cases h
      intro m hm
      simp only [State.markWet, slice_modSlice_same, List.mem_append] at hm
      rcases hm with hm | hm
      · refine .inl ?_
        simp [State.clearMarks, State.slice, Vector.get] at hm ⊢
        exact hm.1
      · obtain ⟨x, hx, rfl⟩ := List.mem_map.mp hm
        exact .inr WetMark.own_markWet

/-- The lines that a writer marks are those that its units write. -/
theorem landings_line {tail t l : Nat} {units : List (List Nat × Nat)} (h : l ∈ (landings tail t units).map fun e => e.1) :
    ∃ b ∈ units, l ∈ linesOf b.1 := by
  induction units generalizing t with
  | nil => simp [landings] at h
  | cons b us ih =>
    simp only [landings, List.map_append, List.map_map, List.mem_append] at h
    rcases h with h | h
    · exact ⟨b, by simp, by simpa using h⟩
    · obtain ⟨x, hx, hl⟩ := ih h
      exact ⟨x, by simp [hx], hl⟩

/-- An issue whose destination is dry marks it. -/
theorem State.openWriter_dry {s : State} {c : CoreId} {u : Cur} {units : List (List Nat × Nat)} (e : Nat) (h : ∀ b ∈ units, s.dry c u (linesOf b.1)) :
    ∃ t, s.openWriter c u units e = .ok t := by
  unfold State.openWriter
  split
  · exact ⟨_, rfl⟩
  · have hd : (s.clearMarks c u.q u.run.op).dry c u ((landings (AkiOp.tail u.desc.op) e units).map fun l => l.1) := by
      intro m hm hl
      obtain ⟨b, hb, hl⟩ := landings_line hl
      refine h b hb m ?_ hl
      simp [State.clearMarks, State.slice, Vector.get] at hm ⊢
      exact hm.1
    simp only [hd.wetHit]
    exact ⟨_, rfl⟩

/-- What is current stays so through operations that leave cores, contexts and clocks alone. -/
theorem State.current_of_currentIs {s : State} {c : CoreId} {op : AkiOp} {u : Cur} (h : s.currentIs c op = some u) :
    s.current c = some u ∧ u.desc.op = op := by
  unfold State.currentIs at h
  cases hc : s.current c with
  | none => simp [hc] at h
  | some v =>
    simp only [hc] at h
    obtain ⟨h1, h2⟩ := Option.ite_none_right_eq_some.mp h
    cases h2
    simp only [Bool.and_eq_true, decide_eq_true_eq] at h1
    exact ⟨rfl, h1.1.1.1⟩

/-- The operation in hand is the head of its queue, with its run. -/
theorem State.current_run {s : State} {c : CoreId} {u : Cur} (h : s.current c = some u) :
    ((s.core c).queue u.q).run = some u.run ∧ (s.core c).cur = some u.q := by
  unfold State.current at h
  split at h
  · cases h
  · split at h
    · split at h
      · split at h
        · cases h; exact ⟨‹_›, ‹_›⟩
        · cases h
      · cases h
    · cases h

end Sys2Proof.Machine
end

