-- ==== Sys2Proof/Laws/Host.lean ====
section
/-! SUPPORT. What starting and completing a host command can do: the gate opens where a command starts, and a completion touches only the
host interface, its ring, the messages sent, device time and the draws. -/

namespace Sys2Proof.Machine

open Sys2Proof

/-! ## The gate -/

/-- A command that starts runs its body. -/
theorem State.host1_starts {s : State} {h : CmdHdr} {c : HostCmd} {body : State → State} (hs : s.starts h c) : s.host1 h c body = body s := by
  obtain ⟨h1, h2, h3, h4⟩ := hs
  cases hu : s.host.updating <;> cases hd : s.dbg.debugMode <;> simp_all [State.host1, State.gate]

/-- A command that starts anew runs its body as one that has not begun. -/
theorem State.hostLong_starts {s : State} {h : CmdHdr} {c : HostCmd} {body : Bool → State → State} (hs : s.startsAnew h c) :
    s.hostLong h c body = body false s := by
  obtain ⟨⟨h1, h2, h3, h4⟩, h5⟩ := hs
  cases hu : s.host.updating <;> cases hd : s.dbg.debugMode <;> simp_all [State.hostLong, State.gate]

/-- A command that starts anew and has nothing to wait for runs its body. -/
theorem State.host2_starts {s : State} {h : CmdHdr} {c : HostCmd} {wait : State → Bool} {body : State → State} (hs : s.startsAnew h c)
    (hw : wait s = false) : s.host2 h c wait body = body s := by
  obtain ⟨⟨h1, h2, h3, h4⟩, h5⟩ := hs
  cases hu : s.host.updating <;> cases hd : s.dbg.debugMode <;> simp_all [State.host2, State.gate]

/-- A command of a context that exists acts on it. -/
theorem State.onCtx_names {s : State} {h : CmdHdr} {k : Nat} {x : Ctx} {f : CtxId → Ctx → State} (hx : s.names k x) :
    s.onCtx h k f = f (ctxOf k) x := by
  unfold State.names at hx
  simp [State.onCtx, hx]

/-- A device that does not serve the host runs no host command. -/
theorem State.host1_dead {s : State} {h : CmdHdr} {c : HostCmd} {body : State → State} (hs : s.live = false) : s.host1 h c body = s := by
  simp [State.host1, hs]

theorem State.hostLong_dead {s : State} {h : CmdHdr} {c : HostCmd} {body : Bool → State → State} (hs : s.live = false) :
    s.hostLong h c body = s := by simp [State.hostLong, hs]

theorem State.host2_dead {s : State} {h : CmdHdr} {c : HostCmd} {wait : State → Bool} {body : State → State} (hs : s.live = false) :
    s.host2 h c wait body = s := by simp [State.host2, hs]

/-! ## What a completion leaves alone -/

theorem SameBlock.rfl {s : State} : SameBlock s s := by constructor <;> rfl

theorem SameBlock.trans {s t u : State} (a : SameBlock s t) (b : SameBlock t u) : SameBlock s u := by
  obtain ⟨a1, a2, a3, a4, a5, a6, a7, a8, a9, a10, a11, a12, a13, a14, a15, a16, a17⟩ := a
  obtain ⟨b1, b2, b3, b4, b5, b6, b7, b8, b9, b10, b11, b12, b13, b14, b15, b16, b17⟩ := b
  constructor <;> simp [*]

theorem SameBlock.modHost {s : State} (f : HostIf → HostIf) : SameBlock s (s.modHost f) := by constructor <;> rfl
theorem SameBlock.modHbm {s : State} (f : Hbm → Hbm) : SameBlock s (s.modHbm f) := by constructor <;> rfl
theorem SameBlock.send {s : State} (m : OutMsg) : SameBlock s (s.send m) := by constructor <;> rfl
theorem SameBlock.stamp {s : State} : SameBlock s s.stamp := by constructor <;> rfl
theorem SameBlock.draw {s : State} : SameBlock s s.draw.2 := by constructor <;> rfl
theorem SameBlock.putRing {s : State} (c : CtxId) (r : Fin 64) (x : Ring) : SameBlock s (s.putRing c r x) := SameBlock.modHost _

theorem SameBlock.sendMsix {s : State} (f v : Nat) : SameBlock s (s.sendMsix f v) := by
  unfold State.sendMsix
  split
  · exact SameBlock.modHost _
  · exact SameBlock.send _

/-- A write into HBM changes HBM alone. -/
theorem hbmWrite_frame {s t : State} {b o : Nat} {bs : List Byte} {whole : Bool} (h : s.hbmWrite b o bs whole = some t) :
    ∃ f, t = s.modHbm f := by
  unfold State.hbmWrite at h
  split at h
  · cases h
  · split at h
    · cases h
    · exact ⟨_, by simpa using h.symm⟩

theorem SameBlock.vwrite {c : CtxId} : ∀ {bs : List Byte} {s t : State} {v : Nat}, s.vwrite c v bs = .ok t → SameBlock s t
  | [], s, t, v, h => by
    simp only [State.vwrite] at h
    cases h; exact SameBlock.rfl
  | x :: xs, s, t, v, h => by
    unfold State.vwrite at h
    split at h
    · cases h
    · exact (SameBlock.send _).trans (SameBlock.vwrite h)
    · split at h
      · cases h
      · rename_i s' e
        obtain ⟨f, rfl⟩ := hbmWrite_frame e
        exact (SameBlock.modHbm f).trans (SameBlock.vwrite h)

theorem SameBlock.ringWrite {s : State} (c : CtxId) (hbm : Bool) (a : Nat) (bs : List Byte) : SameBlock s (s.ringWrite c hbm a bs) := by
  unfold State.ringWrite
  split
  · split
    · exact SameBlock.vwrite ‹_›
    · exact SameBlock.rfl
  · exact SameBlock.send _

theorem SameBlock.writeRecord {s : State} (h : CmdHdr) (st : Status) (progress fid : Nat) : SameBlock s (s.writeRecord h st progress fid) := by
  unfold State.writeRecord
  simp only []
  refine SameBlock.trans (t := s.stamp.modHost fun i => { i with fetched := eraseFetched h i.fetched }) (SameBlock.stamp.trans (SameBlock.modHost _)) ?_
  split
  · exact SameBlock.rfl
  · split
    · exact (SameBlock.ringWrite _ _ _ _).trans ((SameBlock.putRing _ _ _).trans (SameBlock.sendMsix _ _))
    · exact (SameBlock.ringWrite _ _ _ _).trans (SameBlock.putRing _ _ _)

theorem SameBlock.closeRing {s : State} (c : CtxId) (r : Fin 64) : SameBlock s (s.closeRing c r) := by
  unfold State.closeRing
  split
  · exact SameBlock.rfl
  · simp only []
    split
    · split
      · exact (SameBlock.writeRecord _ _ _ _).trans (SameBlock.modHost _)
      · exact SameBlock.rfl
    · split
      · exact SameBlock.modHost _
      · exact SameBlock.rfl

/-- A completion touches only the host interface, HBM, the messages sent, device time and the draws. -/
theorem State.complete_frame (s : State) (h : CmdHdr) (st : Status) (progress fid : Nat) : SameBlock s (s.complete h st progress fid) := by
  unfold State.complete
  exact (SameBlock.writeRecord _ _ _ _).trans (SameBlock.closeRing _ _)

/-- A report and its completion touch no more. -/
theorem State.report_frame (s : State) (h : CmdHdr) (buffer length : Nat) (bs : List Byte) : SameBlock s (s.report h buffer length bs) := by
  unfold State.report
  simp only []
  split
  · exact State.complete_frame _ _ _ _ _
  · exact (SameBlock.send _).trans (State.complete_frame _ _ _ _ _)

end Sys2Proof.Machine
end

