-- ==== Sys2Proof/Laws/Mem.lean ====
section
/-! SUPPORT. Laws of sparse memories: every operation keeps the canonical form, a read after a write gives what was written, and
every other cell keeps its value. -/

namespace Sys2Proof.Machine

open Sys2Proof

section sparse
variable {α : Type} [DecidableEq α] {d : α}

omit [DecidableEq α] in
theorem sabove_iff {k : Nat} {m : Sparse α} : sabove k m = true ↔ ∀ c ∈ m, k < c.1 := by
  simp [sabove]

theorem swf_cons {k : Nat} {v : α} {m : Sparse α} :
    swf d ((k, v) :: m) = true ↔ v ≠ d ∧ (∀ c ∈ m, k < c.1) ∧ swf d m = true := by
  simp [swf, sabove_iff, and_assoc]

omit [DecidableEq α] in
/-- A cell below every listed one reads as the default. -/
theorem sget_below {k : Nat} {m : Sparse α} (h : ∀ c ∈ m, k < c.1) : sget d m k = d := by
  induction m with
  | nil => rfl
  | cons c m ih =>
    have h1 := h c (by simp)
    have : c.1 ≠ k := by omega
    simp [sget, this, ih fun e he => h e (by simp [he])]

/-- The keys of a memory after a write: the old ones and the one written. -/
theorem sset_mem {k : Nat} {v : α} {m : Sparse α} : ∀ c ∈ sset d m k v, c.1 = k ∨ c ∈ m := by
  induction m with
  | nil =>
    intro c hc
    by_cases hv : v = d <;> simp [sset, hv] at hc
    simp [hc]
  | cons e m ih =>
    obtain ⟨k', v'⟩ := e
    intro c hc
    unfold sset at hc
    split at hc
    · split at hc
      · exact .inr hc
      · rcases List.mem_cons.mp hc with rfl | h
        · exact .inl rfl
        · exact .inr h
    · split at hc
      · split at hc
        · exact .inr (List.mem_cons_of_mem _ hc)
        · rcases List.mem_cons.mp hc with rfl | h
          · exact .inl rfl
          · exact .inr (List.mem_cons_of_mem _ h)
      · rcases List.mem_cons.mp hc with rfl | h
        · exact .inr (by simp)
        · rcases ih c h with h | h
          · exact .inl h
          · exact .inr (List.mem_cons_of_mem _ h)

/-- A write keeps the canonical form. -/
theorem sset_swf {k : Nat} {v : α} {m : Sparse α} (h : swf d m = true) : swf d (sset d m k v) = true := by
  induction m with
  | nil =>
    by_cases hv : v = d
    · simp [sset, hv, swf]
    · simp [sset, hv, swf, sabove]
  | cons e m ih =>
    obtain ⟨k', v'⟩ := e
    obtain ⟨hv', hk', hm⟩ := swf_cons.mp h
    unfold sset
    split
    · rename_i hlt
      split
      · exact h
      · rename_i hv
        refine swf_cons.mpr ⟨hv, ?_, h⟩
        intro c hc
        rcases List.mem_cons.mp hc with rfl | hc
        · exact hlt
        · exact lt_trans hlt (hk' c hc)
    · split
      · rename_i hlt heq
        subst heq
        split
        · exact hm
        · rename_i hv
          exact swf_cons.mpr ⟨hv, hk', hm⟩
      · rename_i hlt hne
        refine swf_cons.mpr ⟨hv', ?_, ih hm⟩
        intro c hc
        rcases sset_mem c hc with h | h
        · omega
        · exact hk' c h

/-- A read of the cell that was written gives what was written. -/
theorem sget_sset_same {k : Nat} {v : α} {m : Sparse α} (h : swf d m = true) : sget d (sset d m k v) k = v := by
  induction m with
  | nil => by_cases hv : v = d <;> simp [sset, hv, sget]
  | cons e m ih =>
    obtain ⟨k', v'⟩ := e
    obtain ⟨hv', hk', hm⟩ := swf_cons.mp h
    unfold sset
    split
    · rename_i hlt
      split
      · rename_i hv
        rw [hv]
        refine sget_below fun c hc => ?_
        rcases List.mem_cons.mp hc with rfl | hc
        · exact hlt
        · exact lt_trans hlt (hk' c hc)
      · simp [sget]
    · split
      · rename_i hlt heq
        subst heq
        split
        · rename_i hv
          rw [hv]
          exact sget_below hk'
        · simp [sget]
      · rename_i hlt hne
        simp [sget, ih hm, show k' ≠ k from fun e => hne e.symm]

/-- A read of any other cell gives what it gave before. -/
theorem sget_sset_other {k j : Nat} {v : α} {m : Sparse α} (h : swf d m = true) (hj : j ≠ k) :
    sget d (sset d m k v) j = sget d m j := by
  induction m with
  | nil => by_cases hv : v = d <;> simp [sset, hv, sget, Ne.symm hj]
  | cons e m ih =>
    obtain ⟨k', v'⟩ := e
    obtain ⟨hv', hk', hm⟩ := swf_cons.mp h
    unfold sset
    split
    · split
      · rfl
      · simp [sget, Ne.symm hj]
    · split
      · rename_i hlt heq
        subst heq
        split <;> simp [sget, Ne.symm hj]
      · by_cases hk : k' = j
        · simp [sget, hk]
        · simp [sget, hk, ih hm]

/-- A filtered memory keeps the canonical form. -/
theorem filter_swf {p : Nat × α → Bool} {m : Sparse α} (h : swf d m = true) : swf d (m.filter p) = true := by
  induction m with
  | nil => rfl
  | cons e m ih =>
    obtain ⟨k, v⟩ := e
    obtain ⟨hv, hk, hm⟩ := swf_cons.mp h
    by_cases hp : p (k, v) = true
    · rw [List.filter_cons_of_pos hp]
      exact swf_cons.mpr ⟨hv, fun c hc => hk c (List.mem_filter.mp hc).1, ih hm⟩
    · rw [List.filter_cons_of_neg hp]
      exact ih hm

/-- Clearing a range keeps the canonical form. -/
theorem sclear_swf {m : Sparse α} {lo n : Nat} (h : swf d m = true) : swf d (sclear m lo n) = true := filter_swf h

omit [DecidableEq α] in
/-- A cell outside a cleared range keeps its value, and one inside reads as the default. -/
theorem sget_sclear {m : Sparse α} {lo n j : Nat} :
    sget d (sclear m lo n) j = if lo ≤ j ∧ j < lo + n then d else sget d m j := by
  induction m with
  | nil => simp [sclear, sget]
  | cons e m ih =>
    obtain ⟨k, v⟩ := e
    unfold sclear at ih ⊢
    by_cases hp : k < lo ∨ lo + n ≤ k
    · rw [List.filter_cons_of_pos (by simpa using hp)]
      by_cases hk : k = j
      · subst hk
        simp only [sget, if_true]
        rw [if_neg (by omega)]
      · simp only [sget, hk, if_false, ih]
    · rw [List.filter_cons_of_neg (by simpa using hp), ih]
      by_cases hk : k = j
      · subst hk
        rw [if_pos (by omega), if_pos (by omega)]
      · simp [sget, hk]

/-- Several writes keep the canonical form. -/
theorem sputs_swf {l : List (Nat × α)} : ∀ {m : Sparse α}, swf d m = true → swf d (sputs d m l) = true := by
  induction l with
  | nil => intro m h; exact h
  | cons e l ih => intro m h; exact ih (sset_swf h)

/-- A copy of a range keeps the canonical form. -/
theorem scopy_swf {src dst : Sparse α} {lo n to_ : Nat} (h : swf d dst = true) : swf d (scopy d src dst lo n to_) = true :=
  sputs_swf (sclear_swf h)

end sparse

/-! ## Bytes -/

/-- Storing bytes keeps the canonical form. -/
theorem writeBytes_wf {bs : List Byte} : ∀ {m : Sparse Byte} {a : Nat}, Memory.wf m = true → Memory.wf (writeBytes m a bs) = true := by
  induction bs with
  | nil => intro m a h; exact h
  | cons b bs ih => intro m a h; exact ih (sset_swf h)

/-- Every byte outside the stored ones reads as before. -/
theorem sget_writeBytes_other {bs : List Byte} : ∀ {m : Sparse Byte} {a j : Nat}, Memory.wf m = true → (j < a ∨ a + bs.length ≤ j) →
    sget 0 (writeBytes m a bs) j = sget 0 m j := by
  induction bs with
  | nil => intro m a j _ _; rfl
  | cons b bs ih =>
    intro m a j h hj
    simp only [List.length_cons] at hj
    unfold writeBytes
    rw [ih (sset_swf h) (by omega), sget_sset_other h (by omega)]

/-- Byte `i` of the stored ones reads back. -/
theorem sget_writeBytes {bs : List Byte} : ∀ {m : Sparse Byte} {a i : Nat} (hi : i < bs.length), Memory.wf m = true →
    sget 0 (writeBytes m a bs) (a + i) = bs[i] := by
  induction bs with
  | nil => intro m a i hi; simp at hi
  | cons b bs ih =>
    intro m a i hi h
    unfold writeBytes
    cases i with
    | zero => rw [sget_writeBytes_other (sset_swf h) (by omega)]; exact sget_sset_same h
    | succ i =>
      have := ih (m := sset 0 m a b) (a := a + 1) (i := i) (by simpa using hi) (sset_swf h)
      rw [show a + (i + 1) = a + 1 + i by omega]
      simpa using this

/-- What was stored reads back. -/
theorem readBytes_writeBytes {bs : List Byte} {m : Sparse Byte} {a : Nat} (h : Memory.wf m = true) :
    readBytes (writeBytes m a bs) a bs.length = bs := by
  apply List.ext_getElem
  · simp [readBytes]
  · intro i h1 h2
    simp only [readBytes, List.getElem_map, List.getElem_range]
    exact sget_writeBytes h2 h

@[simp] theorem leBytes_length (n v : Nat) : (leBytes n v).length = n := by
  induction n generalizing v with
  | zero => rfl
  | succ n ih => simp [leBytes, ih]

/-- The little-endian bytes of a number spell it modulo their range (R8). -/
theorem leNat_leBytes (n v : Nat) : leNat (leBytes n v) = v % 256 ^ n := by
  induction n generalizing v with
  | zero => simp [leBytes, leNat, Nat.mod_one]
  | succ n ih => simp [leBytes, leNat, ih, Nat.pow_succ', Nat.mod_mul]

/-! ## Lists by key -/

section assoc
variable {κ β : Type} [DecidableEq κ]

@[simp] theorem assoc?_assocSet_same (k : κ) (v : β) (l : List (κ × β)) : assoc? k (assocSet k v l) = some v := by
  induction l with
  | nil => simp [assocSet, assoc?]
  | cons e l ih =>
    obtain ⟨k', v'⟩ := e
    by_cases h : k' = k <;> simp [assocSet, assoc?, h, ih]

theorem assoc?_assocSet_other {k j : κ} (h : j ≠ k) (v : β) (l : List (κ × β)) : assoc? j (assocSet k v l) = assoc? j l := by
  induction l with
  | nil => simp [assocSet, assoc?, Ne.symm h]
  | cons e l ih =>
    obtain ⟨k', v'⟩ := e
    by_cases hk : k' = k
    · subst hk
      simp [assocSet, assoc?, Ne.symm h]
    · by_cases hj : k' = j
      · subst hj
        simp [assocSet, assoc?, h]
      · simp [assocSet, assoc?, hk, hj, ih]

end assoc

end Sys2Proof.Machine
end

