-- ==== Sys2Proof/WellFormed.lean ====
section
/-! DEFINITION. Which terms of the syntax can reach the device: a host command's fields fit the bits that its packet gives them (R349,
R362 to R366, R264, R266, R284, R291, R293, R320, R327, R336), and an access or an event has operands that exist. -/

namespace Sys2Proof

/-- Whether a number fits `w` bits. -/
def fits (w n : Nat) : Bool := decide (n < 2 ^ w)

/-- The fields of a host command fit its packet. -/
def HostCmd.wf : HostCmd → Bool
  | .nop | .fence _ | .timestamp | .fwActivate => true
  | .query p => decide (p.item ≤ 2) && fits 12 p.ctx && fits 6 p.ring && fits 64 p.buffer && fits 32 p.length
  | .ctxCreate p => fits 12 p.ctx && fits 6 p.func && fits 6 p.vfSlot && fits 20 p.pasid && fits 64 p.srKey && fits 48 p.stackBase &&
      fits 14 p.stackSize && fits 16 p.stackMask && fits 14 p.saveOff && fits 14 p.saveSize
  | .ctxDestroy c | .ctxRun c | .ctxPreempt c _ | .ctxResume c | .sealClose c => fits 12 c
  | .ringConfig p => fits 12 p.ctx && fits 6 p.ring && fits 4 p.sqLog && fits 4 p.cqLog && fits 11 p.vector && fits 64 p.sqBase && fits 64 p.cqBase
  | .map p => fits 12 p.ctx && fits 48 p.vaddr && fits (if p.far then 64 else 41) p.target && fits 21 p.count
  | .unmap p => fits 12 p.ctx && fits 48 p.vaddr && fits 48 p.length
  | .copy p => fits 12 p.ctx && fits 64 p.src && fits 64 p.dst && fits 40 p.length
  | .fill p => fits 12 p.ctx && fits 32 p.pattern && fits 48 p.dst && fits 40 p.length
  | .ageScan p => fits 12 p.ctx && fits 8 p.threshold && fits 64 p.buffer && fits 32 p.size
  | .evict p => fits 12 p.ctx && fits 48 p.vaddr && fits 48 p.length && fits 64 p.target
  | .resumeFault p => fits 12 p.ctx && fits 16 p.faultId
  | .exec p => fits 12 p.ctx && fits 48 p.container
  | .stopAt p => fits 12 p.ctx && fits 32 p.count
  | .barrierConfig p => fits 12 p.ctx && fits 7 p.count && fits 68 p.mask
  | .ringMap p => fits 12 p.ctx && fits 5 p.replicas && p.dies.length == 16 && p.dies.all (fits 4)
  | .counterSet p => fits 12 p.ctx
  | .gradConfig p => fits 12 p.ctx && decide (p.sizeCode < 7) && (p.fmt == 1 || p.fmt == 2) && fits 16 p.bucketCount && fits 8 p.accum &&
      fits 26 p.recBase && p.flows.length == 4 && p.flows.all (fits 16)
  | .cascadeConfig p => fits 12 p.ctx && fits 3 p.index && fits 3 p.master && fits 4 p.devices && fits 48 p.inbox && p.counts.length == 8 &&
      p.counts.all (fits 4) && p.peers.length == 8 && p.peers.all (fits 64)
  | .ingestOpen p => fits 12 p.ctx && fits 6 p.stream && fits 2 p.input && fits 3 p.esCodec && fits 4 p.mediaMask && fits 7 p.jobs && fits 5 p.programs &&
      fits 16 p.maxWidth && fits 16 p.maxHeight && fits 8 p.tileFormat && p.sel.length == 16 && p.sel.all (fits 16) && fits 48 p.workBase && fits 32 p.workSize
  | .ingestFeed p => fits 12 p.ctx && fits 6 p.stream && fits 32 p.length && fits 48 p.source && fits 64 p.seqBase && fits 32 p.clipStride &&
      fits 13 p.maxFrames && fits 48 p.auxBase && fits 32 p.auxSize && fits 48 p.report
  | .ingestClose p => fits 12 p.ctx && fits 6 p.stream
  | .tileFormat p => fits 12 p.ctx && fits 8 p.handle && fits 8 p.fmt && fits 9 p.frames && fits 6 p.stride && fits 2 p.matrix && fits 2 p.range &&
      fits 13 p.hop && fits 13 p.scaleW && fits 13 p.scaleH && fits 13 p.cropW && fits 13 p.cropH && p.mean.length == 3 && p.mean.all (fits 32) &&
      p.invStd.length == 3 && p.invStd.all (fits 32)
  | .shuffleConfig p => fits 12 p.ctx && fits 8 p.size && fits 7 p.lanes && fits 32 p.slotBytes && fits 48 p.base && fits 128 p.seed &&
      p.lane.length == 64 && p.lane.all (fits 8)
  | .shuffleSeek p => fits 12 p.ctx && fits 64 p.a && fits 64 p.b && (p.voidRange || p.b == 0)
  | .impressionTake p | .impressionRestore p => fits 12 p.ctx && fits 48 p.area && fits 48 p.farAddr && (p.far || p.farAddr == 0)
  | .dieReset d | .selfTest d => match d with
    | .b _ => false
    | _ => true
  | .dieFence _ => true
  | .faultLogRead p => fits 16 p.faultId && fits 64 p.buffer && fits 32 p.length
  | .partnerSet p => fits 12 p.ctx
  | .sealOpen p => fits 12 p.ctx && fits 64 p.buffer && fits 32 p.length
  | .sealLoad p => fits 12 p.ctx && fits 64 p.src && fits 48 p.dst && fits 40 p.length
  | .fwStage p => fits 64 p.image && fits 32 p.length
  | .debugUnlock p => fits 64 p.buffer && fits 32 p.length
  | .powerPolicy p => fits 12 p.limit
  | .telemetryRead p => fits 64 p.buffer && fits 32 p.length

/-- The host command that a row of the table is, with its header. -/
def Instr.host? : Instr → Option (CmdHdr × HostCmd)
  | .nop h => some (h, .nop)
  | .fence h a => some (h, .fence a)
  | .query h p => some (h, .query p)
  | .timestamp h => some (h, .timestamp)
  | .ctxCreate h p => some (h, .ctxCreate p)
  | .ctxDestroy h c => some (h, .ctxDestroy c)
  | .ctxRun h c => some (h, .ctxRun c)
  | .ctxPreempt h c b => some (h, .ctxPreempt c b)
  | .ctxResume h c => some (h, .ctxResume c)
  | .ringConfig h p => some (h, .ringConfig p)
  | .map h p => some (h, .map p)
  | .unmap h p => some (h, .unmap p)
  | .copy h p _ => some (h, .copy p)
  | .fill h p _ => some (h, .fill p)
  | .ageScan h p => some (h, .ageScan p)
  | .evict h p _ => some (h, .evict p)
  | .resumeFault h p => some (h, .resumeFault p)
  | .execProgram h p _ => some (h, .exec p)
  | .stopAt h p => some (h, .stopAt p)
  | .barrierConfig h p => some (h, .barrierConfig p)
  | .ringMap h p => some (h, .ringMap p)
  | .counterSet h p => some (h, .counterSet p)
  | .gradConfig h p => some (h, .gradConfig p)
  | .cascadeConfig h p => some (h, .cascadeConfig p)
  | .ingestOpen h p => some (h, .ingestOpen p)
  | .ingestFeed h p => some (h, .ingestFeed p)
  | .ingestClose h p => some (h, .ingestClose p)
  | .tileFormat h p => some (h, .tileFormat p)
  | .shuffleConfig h p => some (h, .shuffleConfig p)
  | .shuffleSeek h p => some (h, .shuffleSeek p)
  | .impressionTake h p _ => some (h, .impressionTake p)
  | .impressionRestore h p _ => some (h, .impressionRestore p)
  | .dieFence h d => some (h, .dieFence d)
  | .dieReset h d _ => some (h, .dieReset d)
  | .faultLogRead h p => some (h, .faultLogRead p)
  | .partnerSet h p => some (h, .partnerSet p)
  | .sealOpen h p => some (h, .sealOpen p)
  | .sealLoad h p _ => some (h, .sealLoad p)
  | .sealClose h c => some (h, .sealClose c)
  | .fwStage h p _ => some (h, .fwStage p)
  | .fwActivate h _ _ => some (h, .fwActivate)
  | .debugUnlock h p _ => some (h, .debugUnlock p)
  | .powerPolicy h p => some (h, .powerPolicy p)
  | .telemetryRead h p => some (h, .telemetryRead p)
  | .selfTest h d _ => some (h, .selfTest d)
  | _ => none

/-- Whether a term can reach the device. -/
def Instr.wf (i : Instr) : Bool :=
  match i.host? with
  | some (_, c) => c.wf
  | none => match i with
    | .doorbellSqTail w | .doorbellCqHead w | .doorbellEventHead w =>
      decide (w.func < 64) && decide (w.page < 4096) && decide (w.bell < 64) && decide (w.off < 64) && fits (8 * w.width) w.value
    | .ifaceNegotiate _ r => fits 8 r
    | .registerWrite f off width v => decide (off < if f = 0 then 2 ^ 26 else 2 ^ 16) && fits (8 * width) v
    | .bar4Read _ off len => fits 40 off && decide (1 ≤ len) && decide (len ≤ 4096)
    | .bar4Write _ off bs => fits 40 off && decide (1 ≤ bs.length) && decide (bs.length ≤ 512)
    | .readout r off len => decide (off + len ≤ 2 ^ 26) && decide (1 ≤ len) && (match r with
      | .header => decide (off + len ≤ 4096)
      | _ => true)
    | .i3cTelemetryRead off len => decide (off + len ≤ 1024)
    | .configRequest f req => match req with
      | .read r => fits 12 r
      | .write r v => fits 12 r && fits 32 v
      | .setVfs _ _ => f == 0
      | .setBar4 log => f == 0 && decide (30 ≤ log) && decide (log ≤ 40)
    | .flr vf => vf != 0
    | .faultSelfTest d _ => match d with
      | .b _ => false
      | _ => true
    | .patrolScrub _ line _ => decide (line < 524288)
    | .operationEnd _ f => match f with
      | some (.stylus g) | some (.row g) | some (.vec g) => fits 16 g
      | _ => true
    | .adderTileArrival _ _ r => (r.map (fits 16)).getD true
    | .powerMeasure t => t.feedMv.length == 17 && t.feedDa.length == 17 && t.dieTemp.length == 24 && t.hbmTemp.length == 12
    | .getCertificate slot _ _ => decide (slot < 8)
    | .challenge slot nonce => decide (slot < 8) && fits 256 nonce
    | .getMeasurements index _ nonce => fits 8 index && fits 256 nonce
    | .keyExchange slot x y => decide (slot < 8) && fits 528 x && fits 528 y
    | .cascMapArrival _ counts => counts.length == 8 && counts.all (fits 4)
    | _ => true

end Sys2Proof
end

