-- ==== Sys2Proof/Tests/Slice0.lean ====
section
/-! SUPPORT. The package's own tests: a witness for every obligation that has hypotheses, a smoke test with an ill-formed command for each check of WellFormed, and results of single commands worked out by hand from the spec. -/

namespace Sys2Proof.Tests
open Sys2Proof Sys2Proof.Machine

-- One theorem at a time: checked side by side, the closed evaluations below reserve more memory than a check may use.
set_option Elab.async false

/-! ## Small states -/

/-- A header of a command of ring 0 of context 1. -/
def hdr : CmdHdr := ⟨1, 0, 0, false, false⟩

/-- An operational device with contexts 0 and `x` as 1, on which one command has been fetched. -/
def up (x : Ctx) (c : HostCmd) : State :=
  { State.reset with
    clk := { Clock.reset with inReset := false, booted := true, linkUp := true }
    host := { HostIf.reset with configReady := true, operational := true, fetched := [⟨hdr, c, false⟩] }
    hbm := { Hbm.reset with ready := true }
    dies := Vector.replicate 24 { DieSt.reset with loaded := true }
    ctxs := [(0, Ctx.fresh), (1, x)] }

/-- A fetched command of that device starts, and has not begun. -/
theorem up_anew (x : Ctx) (c : HostCmd) : (up x c).startsAnew hdr c := by
  refine ⟨⟨rfl, ?_, by simp [up, HostIf.reset], by simp [up, State.reset, Debug.reset]⟩, ?_⟩
  · simp only [up, HostIf.ready, before, hdr]
    cases c <;> simp
  · simp [up, HostIf.inProgress]

theorem up_starts (x : Ctx) (c : HostCmd) : (up x c).starts hdr c := (up_anew x c).1

theorem up_names (x : Ctx) (c : HostCmd) : (up x c).names 1 x := rfl

theorem up_idle (x : Ctx) (c : HostCmd) : (up x c).namesIdle 1 x := ⟨rfl, by simp [up, State.reset]⟩

/-- A ring pair of host memory with one packet waiting, and that device with it. -/
def ring : Ring := ⟨0, 0, false, false, 3, true, 0x10000, 0x20000, 0, 1, 0, 0, 0, true, false, none, false, []⟩
def ringed : State :=
  let s := up Ctx.fresh .nop
  { s with host := { s.host with rings := [((1, 0), ring)], agreed := Vector.replicate 64 1 } }

/-- A 64 KiB page at virtual address 0 in bed B0, and a context that maps it. -/
def page : Page := ⟨0, false, false, true, false, false, 0x40000000⟩
def paged : Ctx := { Ctx.fresh with pages := [page], saveSize := 1000 }

theorem some_of {α : Type} {o : Option α} (h : o.isSome = true) : ∃ a, o = some a := Option.isSome_iff_exists.mp h

theorem ok_of {ε α : Type} {r : Except ε α} (h : r.isOk = true) : ∃ a, r = .ok a := by
  cases r with
  | ok a => exact ⟨a, rfl⟩
  | error e => cases h

theorem triple_of {α β γ : Type} {r : α × β × Option γ} (h : r.2.2.isNone = true) : ∃ u d, r = (u, d, none) := by
  obtain ⟨a, b, c⟩ := r
  cases c with
  | none => exact ⟨a, b, rfl⟩
  | some c => cases h

/-! ## Witnesses: the hypotheses of every obligation can be met, each clause at a boundary of its range -/

theorem witness_StepRunsTheFrontCommand :
    ({ State.reset with pending := [.latch] } : State).pending = .latch :: [] ∧ State.reset.pending = [] := ⟨rfl, rfl⟩

theorem witness_NothingRefusesAndOnlyWindowsStop :
    exec (.doorbellSqTail ⟨5, 0, 0, 0, 4, 0⟩) State.reset = .fault .noSuchAddress ∧
    exec (.ifaceNegotiate 5 1) State.reset = .fault .noSuchAddress ∧
    exec (.registerWrite 0 (2 ^ 26) 4 0) State.reset = .fault .noSuchAddress ∧
    exec (.bar4Read 0 (2 ^ 30) 1) State.reset = .fault .noSuchAddress ∧
    exec (.bar4Write 0 (2 ^ 30 - 1) [0, 0]) State.reset = .fault .noSuchAddress := ⟨rfl, rfl, rfl, rfl, rfl⟩

theorem witness_HeldInResetStaysHeld :
    ({ State.reset with pending := [.latch] } : State).heldInReset ∧ ∃ t, step { State.reset with pending := [.latch] } = .next t :=
  ⟨⟨rfl, by simp⟩, _, rfl⟩

theorem witness_TrippedDeviceStaysStopped :
    let s : State := { up Ctx.fresh .nop with clk := { Clock.reset with inReset := false, booted := true, tripped := true }, pending := [.latch] }
    s.stopped ∧ ∃ t, step s = .next t := ⟨⟨rfl, rfl, by simp, by simp⟩, _, rfl⟩

theorem witness_FrozenDeviceKeepsItsState :
    let s : State := { up Ctx.fresh .nop with dbg := { Debug.reset with frozen := true }, pending := [.nop hdr] }
    s.heldFrozen ∧ ∃ t, step s = .next t := ⟨⟨rfl, rfl, by simp [Instr.actsFrozen]⟩, _, rfl⟩

theorem witness_SimpleCommandsComplete :
    (up Ctx.fresh .nop).starts hdr .nop ∧ (up Ctx.fresh (.fence true)).starts hdr (.fence true) ∧
    (up Ctx.fresh (.fence false)).starts hdr (.fence false) ∧ (up Ctx.fresh .timestamp).starts hdr .timestamp :=
  ⟨up_starts _ _, up_starts _ _, up_starts _ _, up_starts _ _⟩

theorem witness_CompletionRecordIsLaidOut :
    ringed.host.ring? hdr.ctx hdr.ring = some ring ∧ ring.closing = none ∧ ring.closingAdmin = false ∧ (hdr.irq && ring.irqEn) = false :=
  ⟨rfl, rfl, rfl, rfl⟩

theorem witness_MessageFollowsTheRecord :
    let s := ringed.modHost fun i => { i with msix := [((0, 3), ⟨0, 0, 0, 0⟩)] }
    ringed.host.ring? hdr.ctx hdr.ring = some ring ∧ ring.irqEn = true ∧ ({ hdr with irq := true } : CmdHdr).irq = true ∧
    (ringed.host.msixEntry (ringed.funcOf 1) ring.vector).ctl.getLsbD 0 = true ∧
    s.host.ring? hdr.ctx hdr.ring = some ring ∧ (s.host.msixEntry (s.funcOf 1) ring.vector).ctl.getLsbD 0 = false :=
  ⟨rfl, rfl, rfl, by decide +kernel, rfl, by decide +kernel⟩

theorem witness_QueryReports :
    let q : Nat → HostCmd := fun i => .query ⟨i, 1, 0, 0x1000, 64⟩
    (up Ctx.fresh (q 0)).starts hdr (q 0) ∧ (up Ctx.fresh (q 1)).starts hdr (q 1) ∧ (up Ctx.fresh (q 2)).starts hdr (q 2) ∧
    (up Ctx.fresh (q 2)).host.ring? 1 0 = none ∧
    ∃ s : State, s.starts hdr (q 2) ∧ s.host.ring? 1 (Fin.ofNat 64 0) = some ring := by
  refine ⟨up_starts _ _, up_starts _ _, up_starts _ _, rfl,
    (up Ctx.fresh (.query ⟨2, 1, 0, 0x1000, 64⟩)).modHost fun i => { i with rings := [((1, 0), ring)] }, ?_, rfl⟩
  exact up_starts Ctx.fresh (.query ⟨2, 1, 0, 0x1000, 64⟩)

/-- A record of the fault log that has not been read, and a device that holds it after one that has. -/
def fault : FaultRec := ⟨2, zeros 64, [], false⟩
def logged (c : HostCmd) : State :=
  { up Ctx.fresh c with log := { FaultLog.reset with recs := [⟨1, zeros 64, [], true⟩, fault], nextId := 3, lastId := 2 } }

theorem witness_FaultLogReadCopiesOneRecord :
    let p : Nat → FaultLogReadP := fun i => ⟨i, 0x1000, 64⟩
    (up Ctx.fresh (.faultLogRead (p 0))).starts hdr (.faultLogRead (p 0)) ∧ (∀ r ∈ (up Ctx.fresh (.faultLogRead (p 0))).log.recs, r.read = true) ∧
    (logged (.faultLogRead (p 7))).starts hdr (.faultLogRead (p 7)) ∧ (∀ r ∈ (logged (.faultLogRead (p 7))).log.recs, r.id ≠ 7) ∧
    (logged (.faultLogRead (p 0))).starts hdr (.faultLogRead (p 0)) ∧ (logged (.faultLogRead (p 2))).starts hdr (.faultLogRead (p 2)) ∧
    (logged (.faultLogRead (p 0))).log.recs = [⟨1, zeros 64, [], true⟩] ++ fault :: [] ∧
    fault.read = false ∧ (∀ e ∈ [(⟨1, zeros 64, [], true⟩ : FaultRec)], e.read = true) ∧
    fault.id = 2 ∧ (∀ e ∈ [(⟨1, zeros 64, [], true⟩ : FaultRec)], e.id ≠ 2) :=
  ⟨up_starts _ _, by simp [up, State.reset, FaultLog.reset], up_starts Ctx.fresh _, by simp [logged, fault], up_starts Ctx.fresh _, up_starts Ctx.fresh _, rfl, rfl, by simp, rfl, by simp⟩

/-- CTX_CREATE of context 4,095 with the smallest stack and a save area at the end of the device region. -/
def creation : CtxCreateP := ⟨4095, 0, 0, false, 0, 0, 0, 1, 0xFFFF, 511, 1⟩

theorem witness_ContextsAreCreatedAndCleared :
    let s := up Ctx.fresh (.ctxCreate creation)
    s.starts hdr (.ctxCreate creation) ∧ s.ctx? (ctxOf creation.ctx) = none ∧ s.funcEnabled creation.func = true ∧
    (∀ e ∈ s.ctxs, creation.func ≠ 0 → ¬ (e.2.func = creation.func ∧ e.2.vfSlot = creation.vfSlot)) ∧
    (creation.stackBase % 2097152 = 0 ∧ 1 ≤ creation.stackSize ∧ creation.stackSize ≤ 8192 ∧
      creation.stackBase + 16 * (creation.stackSize * 2 ^ 23) ≤ 2 ^ 48) ∧ s.saveAreaOk creation = true ∧
    (up paged (.ctxResume 1)).starts hdr (.ctxResume 1) ∧ ctxOf 1 ≠ 0 ∧ (up paged (.ctxResume 1)).namesIdle 1 paged ∧
    (up paged (.ctxDestroy 1)).starts hdr (.ctxDestroy 1) ∧ (up paged (.ctxDestroy 1)).namesIdle 1 paged :=
  ⟨up_starts _ _, rfl, rfl, by simp [creation], by decide, by decide +kernel, up_starts _ _, by decide, up_idle _ _, up_starts _ _, up_idle _ _⟩

theorem witness_SwitchingContexts :
    let s : State := { up paged (.ctxRun 1) with running := some 1 }
    let t : State := { up paged (.ctxPreempt 1 true) with running := some 1 }
    (up paged (.ctxRun 1)).startsAnew hdr (.ctxRun 1) ∧ (up paged (.ctxRun 1)).switchBusy hdr = false ∧ (up paged (.ctxRun 1)).names 1 paged ∧
    (up paged (.ctxRun 1)).running = none ∧ s.startsAnew hdr (.ctxRun 1) ∧ s.switchBusy hdr = false ∧ s.names 1 paged ∧ s.running = some (ctxOf 1) ∧
    t.startsAnew hdr (.ctxPreempt 1 true) ∧ t.switchBusy hdr = false ∧ t.names 1 paged ∧ paged.exec = none ∧ saveNeed false true ≤ paged.saveSize :=
  ⟨up_anew _ _, rfl, rfl, rfl, up_anew paged _, rfl, rfl, rfl, up_anew paged _, rfl, rfl, rfl, by decide⟩


/-- A program in progress on every core, a context that runs it, and the descriptor of an operation. -/
def program : Exec := ⟨hdr, 2 ^ 64 - 1, 0, 2 ^ 26, 0, 0, none, false, false, [], [], none, 3, false, 0, false⟩
def busy : Ctx := { Ctx.fresh with exec := some program }
def desc (o : AkiOp) : Desc := ⟨false, 0, 0, false, 0, 0, 0, 0, o⟩
def holding (o : AkiOp) (r : Option Run) : Queue := { Queue.empty with ops := [desc o], run := r }

/-- Context 1 runs; core 0 has `q` as its queue 0, which occupies it where `cur` says so. -/
def running (x : Ctx) (q : Queue) (cur : Option QueueId) : State :=
  { up x .nop with running := some 1, cores := vmod State.reset.cores 0 fun k => { k with cur := cur, queues := k.queues.set 0 q } }

/-- A container of no operation, with its digest, as the far tier supplies it. -/
def container0 : List Byte := leBytes 60 0x9000000000000000000000000000000000000000000000000000000010000000000000000000001010043494B41 ++ zeros 2244
def container : List Byte := container0.take 60 ++ (leBytes 64 (sha512 container0) ++ zeros 2180)
def farPaged : Ctx := { Ctx.fresh with pages := [⟨0, false, true, false, false, false, 0⟩] }
def toExec : State := { up farPaged (.exec ⟨1, false, 0⟩) with running := some 1 }

/-- What reading it gives. -/
def read0 : Except Halt (List Byte × State) := toExec.readContainer 1 ⟨container, none, none⟩ 0
@[irreducible] def readBs : List Byte := match read0 with
  | .ok (bs, _) => bs
  | .error _ => []
@[irreducible] def readSt : State := match read0 with
  | .ok (_, u) => u
  | .error _ => toExec

theorem container_read : read0 = .ok (readBs, readSt) := by
  obtain ⟨⟨bs, u⟩, h⟩ := ok_of (show read0.isOk = true by decide +kernel)
  simp [readBs, readSt, h]

theorem leNat_lt (l : List Byte) : leNat l < 256 ^ l.length := by
  induction l with
  | nil => simp [leNat]
  | cons b l ih =>
    have := b.isLt
    rw [leNat, List.length_cons, Nat.pow_succ]
    omega

theorem shaBlocks_length (n : Nat) (bs : List Byte) (h : List Nat) : (shaBlocks n bs h).length ≤ h.length := by
  induction n generalizing bs h with
  | zero => exact Nat.le_refl _
  | succ n ih => exact (ih _ _).trans (by simp [List.length_zip])

/-- A SHA-512 value has at most 64 bytes. -/
theorem sha512_lt (bs : List Byte) : sha512 bs < 256 ^ 64 := by
  refine (leNat_lt _).trans_le (Nat.pow_le_pow_right (by decide) ?_)
  have h : ∀ l : List Nat, (l.flatMap (beBytes 8)).length = 8 * l.length := fun l => by
    induction l with
    | nil => rfl
    | cons a l ih => simp [List.flatMap_cons, ih, beBytes, leBytes_length]; omega
  rw [sha512Bytes, h]
  exact Nat.mul_le_mul_left 8 (shaBlocks_length _ _ _)

/-- The digest field of the container reads as its digest. -/
theorem container_field : fieldAt readBs 60 64 = sha512 container0 := by
  have e : (readBs.drop 60).take 64 = leBytes 64 (sha512 container0) := by unfold readBs; rfl
  rw [fieldAt, e, leNat_leBytes]
  exact Nat.mod_eq_of_lt (sha512_lt _)

/-- A queue table of zeros holds no descriptor. -/
theorem splitAll_empty {bs : List Byte} {h : Header} (n i : Nat) (z : ∀ j, j < i + n → queueEntry bs h j = (0, 0)) : splitAll bs h n i = .ok [] := by
  induction n generalizing i with
  | zero => rfl
  | succ n ih =>
    rw [splitAll, z i (by omega)]
    exact ih (i + 1) fun j hj => z j (by omega)

theorem leNat_zeros (n : Nat) : leNat (zeros n) = 0 := by
  induction n with
  | zero => rfl
  | succ n ih => simpa [zeros, List.replicate_succ, leNat] using ih

theorem container_queues {j : Nat} (hj : j < 256) : queueEntry readBs (Header.of readBs) j = (0, 0) := by
  have off : (Header.of readBs).queueOff = 256 := by decide +kernel
  have tail : readBs.drop 256 = zeros 2048 := by decide +kernel
  have at_ : ∀ k, k + 4 ≤ 2048 → fieldAt readBs (256 + k) 4 = 0 := fun k hk => by
    rw [fieldAt, ← List.drop_drop, tail, zeros, List.drop_replicate, List.take_replicate, Nat.min_eq_left (by omega)]
    exact leNat_zeros 4
  rw [queueEntry, off, at_ (8 * j) (by omega), Nat.add_assoc, at_ (8 * j + 4) (by omega)]

/-- A container of no channel, raster or descriptor that passes every check loads. -/
theorem load_ok (s : State) (x : Ctx) (bs : List Byte) (h1 : versionBad bs = none) (h2 : sizesBad bs 0 (Header.of bs) = none)
    (raw : splitAll bs (Header.of bs) 256 0 = .ok []) (d : digestOk bs (Header.of bs) = true) (sg : signatureOk x bs (Header.of bs) = true)
    (h3 : (allDies.any fun d => (dieInMap (Header.of bs).coreMap d || decide (d.val ∈ (x.grad.ring.map fun r => r.dies.take r.replicas).getD [])) &&
      s.fenced (.c d)) = false)
    (h4 : (allDies.any fun d => dieInMap (Header.of bs).coreMap d && !(s.die (.c d)).loaded) = false)
    (h5 : headerBad bs (Header.of bs) = none) (h6 : (Header.of bs).chanCount = 0) (h7 : parseRaster bs (Header.of bs) = [])
    (h8 : rasterClash s [] = none) (h9 : queueBad bs (Header.of bs) = none) (h10 : rasterBad s bs (Header.of bs) [] = none) :
    s.loadProgram x 0 bs = .ok ⟨Header.of bs, [], [], []⟩ := by
  unfold State.loadProgram
  simp only [h1, h2, raw, d, sg, h3, h4, h5, h6, h7, h8, h9, h10, chansBad, checkDescs, List.range_zero, List.map_nil, Option.orElse_none, Bool.not_true,
    Bool.false_eq_true, if_false]

theorem container_digest : digestOk readBs (Header.of readBs) = true := by
  have z : putAt (readBs.take (Header.of readBs).size) 60 (zeros 196) = container0 := by decide +kernel
  simp only [digestOk, digestOf, z, container_field, beq_self_eq_true]
theorem container_version : versionBad readBs = none := by decide +kernel
theorem container_sizes : sizesBad readBs 0 (Header.of readBs) = none := by decide +kernel
theorem container_dies : (allDies.any fun d => (dieInMap (Header.of readBs).coreMap d || decide (d.val ∈ (farPaged.grad.ring.map fun r => r.dies.take r.replicas).getD [])) &&
    readSt.fenced (.c d)) = false := by decide +kernel
theorem container_loaded : (allDies.any fun d => dieInMap (Header.of readBs).coreMap d && !(readSt.die (.c d)).loaded) = false := by decide +kernel
theorem container_header : headerBad readBs (Header.of readBs) = none := by decide +kernel
theorem container_channels : (Header.of readBs).chanCount = 0 := by decide +kernel
theorem container_raster : parseRaster readBs (Header.of readBs) = [] := by decide +kernel
theorem container_clash : rasterClash readSt [] = none := by decide +kernel
theorem container_table : queueBad readBs (Header.of readBs) = none := by
  have h : ∀ i ∈ List.range 256, (bit (Header.of readBs).coreMap (i / 4) || queueEntry readBs (Header.of readBs) i == (0, 0)) = true := fun i hi => by
    rw [container_queues (List.mem_range.mp hi)]
    simp
  simp only [queueBad, firstBad, Option.map_eq_none_iff, List.find?_eq_none, List.mem_map]
  rintro _ ⟨i, hi, rfl⟩
  simp [h i hi]
theorem container_flows : rasterBad readSt readBs (Header.of readBs) [] = none := by decide +kernel
theorem container_passes : ∃ prog, readSt.loadProgram farPaged 0 readBs = .ok prog :=
  ⟨_, load_ok readSt farPaged readBs container_version container_sizes (splitAll_empty 256 0 fun j hj => container_queues (by omega)) container_digest
    (by simp [signatureOk, farPaged, Ctx.fresh]) container_dies container_loaded container_header container_channels container_raster container_clash
    container_table container_flows⟩

theorem witness_ProgramCommandsComplete :
    let c : CounterSetP := ⟨1, 63, 63, 0xFFFFFFFF⟩
    let b : BarrierConfigP := ⟨1, 0, 2, 1 + 2 ^ 67⟩
    let a : StopAtP := ⟨1, 63, 3, false, 0xFFFFFFFF⟩
    let held : Ctx := { Ctx.fresh with held := [⟨9, .op 3 2 7, .pageFault, 0, none⟩] }
    let r : ResumeFaultP := ⟨1, 9, true⟩
    ((up paged (.counterSet c)).starts hdr (.counterSet c) ∧ (up paged (.counterSet c)).namesIdle 1 paged) ∧
    ((up paged (.barrierConfig b)).starts hdr (.barrierConfig b) ∧ (up paged (.barrierConfig b)).namesIdle 1 paged ∧ popcount b.mask 68 = b.count ∧
      (∀ d : DieId, field b.mask (4 * d.val) 4 ≠ 0 → (up paged (.barrierConfig b)).fenced (.c d) = false) ∧
      ∀ m : BedId, bit b.mask (64 + m.val) = true → (up paged (.barrierConfig b)).fenced (.m m) = false) ∧
    ((up paged (.stopAt a)).starts hdr (.stopAt a) ∧ (up paged (.stopAt a)).names 1 paged ∧ paged.exec = none ∧ paged.saved = none ∧
      (a.clear = false ∨ a.count = 0)) ∧
    ((∃ h bs u prog, toExec.starts hdr (.exec ⟨1, false, 0⟩) ∧ toExec.names 1 farPaged ∧ farPaged.exec = none ∧ farPaged.faulted = false ∧
      toExec.running = some 1 ∧ toExec.firstExec h 1 = true ∧ toExec.preempting 1 = false ∧
      toExec.readContainer 1 ⟨container, none, none⟩ 0 = .ok (bs, u) ∧ u.loadProgram farPaged 0 bs = .ok prog)) ∧
    (up held (.resumeFault r)).starts hdr (.resumeFault r) ∧ (up held (.resumeFault r)).namesIdle 1 held ∧
      held.held.find? (fun f => f.id == r.faultId) = some ⟨9, .op 3 2 7, .pageFault, 0, none⟩ := by
  obtain ⟨prog, l⟩ := container_passes
  exact ⟨⟨up_starts _ _, up_idle _ _⟩, ⟨up_starts _ _, up_idle _ _, by decide +kernel, by decide +kernel, by decide +kernel⟩,
    ⟨up_starts _ _, up_names _ _, rfl, rfl, Or.inl rfl⟩,
    ⟨hdr, readBs, readSt, prog, up_starts farPaged _, rfl, rfl, rfl, rfl, by decide +kernel, by decide +kernel, container_read, l⟩, up_starts _ _, up_idle _ _, rfl⟩

theorem witness_HostCommandsKeepTheCores :
    (∃ t, exec (.nop hdr) (up paged .nop) = .next t) ∧
    (∃ t, exec (.barrierConfig hdr ⟨1, 0, 1, 1⟩) (up paged (.barrierConfig ⟨1, 0, 1, 1⟩)) = .next t) ∧
    ∃ t, exec (.faultLogRead hdr ⟨0, 0, 64⟩) (logged (.faultLogRead ⟨0, 0, 64⟩)) = .next t := ⟨⟨_, rfl⟩, ⟨_, rfl⟩, _, rfl⟩


theorem witness_BedMapIsABijection :
    bedBytes - 1 < bedBytes ∧ 2 < 3 ∧ 63 < 64 ∧ 2 ^ 18 - 1 < 2 ^ 18 ∧ 4095 < 4096 ∧ (bedBytes / 4096 - 192) % 64 = 0 ∧
    (bedBytes / 4096 - 192 + 192) * 4096 ≤ bedBytes := by decide +kernel

theorem witness_DeviceWideRunsCoverEveryChannel :
    2 ^ 40 - 1 < 2 ^ 40 ∧ 255 ≤ 255 ∧ (768 * 261119 + 768) * 4096 ≤ 255 * (3 * 2 ^ 30) ∧
    populated 255 (2 ^ 40) = true ∧ populated 255 0 = true ∧ populated 0 (bedBytes - 1) = true ∧ placeOf 255 (2 ^ 40) = placeOf 255 (2 ^ 40) := by
  decide +kernel

theorem witness_HbmReadsWhatWasWritten :
    Memory.wf (up paged .nop).hbm.mem = true ∧ (∃ t, (up paged .nop).hbmWrite 0 0 [1, 0, 2] false = some t) ∧
    ∃ t, (up paged .nop).hbmWrite 3 (bedBytes - 1) [7] true = some t :=
  ⟨rfl, some_of (by decide +kernel), some_of (by decide +kernel)⟩

theorem witness_MapAndUnmapComplete :
    let p : MapP := ⟨1, 2 ^ 48 - 2097152, true, false, true, true, false, false, 0x40000000, 1⟩
    let f : MapP := ⟨1, 0, false, true, true, true, true, true, 2 ^ 64 - 65536, 1⟩
    let s := up Ctx.fresh (.map p)
    let t := up Ctx.fresh (.map f)
    let r : RangeP := ⟨1, 0, 65536⟩
    let u := up paged (.unmap r)
    (s.starts hdr (.map p) ∧ s.names 1 Ctx.fresh ∧ p.rd = true ∧ (p.far = false → p.ns = false ∧ p.at_ = false) ∧ 1 ≤ p.count ∧ p.count ≤ 2 ^ 20 ∧
      p.vaddr % MapP.size p = 0 ∧ p.target % MapP.size p = 0 ∧ p.vaddr + p.count * MapP.size p ≤ 2 ^ 48 ∧
      (s.modHbm fun m => { m with locked := true }).mapReason 1 Ctx.fresh p = none) ∧
    (t.starts hdr (.map f) ∧ t.names 1 Ctx.fresh ∧ f.rd = true ∧ f.vaddr % MapP.size f = 0 ∧ f.target % MapP.size f = 0 ∧
      f.target + f.count * MapP.size f ≤ 2 ^ 64 ∧ (t.modHbm fun m => { m with locked := true }).mapReason 1 Ctx.fresh f = none) ∧
    u.startsAnew hdr (.unmap r) ∧ u.names 1 paged ∧ r.vaddr % 65536 = 0 ∧ r.length % 65536 = 0 ∧ r.vaddr + r.length ≤ 2 ^ 48 ∧
      paged.pagesIn r.vaddr r.length = [page] ∧ (r.vaddr ≤ page.vaddr ∧ page.vaddr + page.size ≤ r.vaddr + r.length) ∧
      u.pinned 1 page = false ∧ u.translating 1 page = false ∧ ∃ t, exec (.unmap hdr r) u = .next t :=
  ⟨⟨up_starts _ _, rfl, rfl, by simp, by decide, by decide, by decide, by decide, by decide, by decide +kernel⟩,
   ⟨up_starts _ _, rfl, rfl, by decide, by decide, by decide, by decide +kernel⟩,
   up_anew _ _, rfl, by decide, by decide, by decide, by decide +kernel, by decide, by decide +kernel, by decide +kernel, _, rfl⟩

/-- Transfer 7 of a command of context 1 whose 64 bytes have been issued: one piece at its target in bed B0, whose acknowledgement is on
its way, and that device with the tag that the piece holds there. -/
def fillPiece : Piece := ⟨0, 0, 64, .front, .hbm 0 (0x40000000 + 65472), .writing, patternBytes 0xDEADBEEF 64, [], 0, 0⟩
def cmdXfer (k : XferKind) : Xfer := ⟨7, 1, 0, 0, 0, 0, k, .fp32, none, 64, 64, 1, [fillPiece], [], [], 0, [], 0, false, false, none, 0, (0, 0), [], []⟩
def withXfer (s : State) (k : XferKind) : State :=
  { s with fabric := { Fabric.reset with nextId := 8, xfers := [cmdXfer k], vc4 := [.ack 7 1 fillPiece.dst.station] } }

theorem witness_TransfersOfCommandsComplete :
    let c : CopyP := ⟨1, true, false, 2 ^ 64 - 64, 0, 64⟩
    let d : CopyP := ⟨1, false, true, 65472, 0, 64⟩
    let f : FillP := ⟨1, 0xDEADBEEF, 65472, 64⟩
    let e : EvictP := ⟨1, 0, 2097152, 0⟩
    let n : EvictP := ⟨1, 2097152, 2097152, 0⟩
    ((up paged (.copy c)).starts hdr (.copy c) ∧ (up paged (.copy c)).names 1 paged ∧ (c.src % 64 = 0 ∧ c.dst % 64 = 0 ∧ c.length % 64 = 0 ∧ 1 ≤ c.length ∧
      c.length ≤ 2 ^ 40 - 64 ∧ c.src + c.length ≤ 2 ^ 64 ∧ c.dst + c.length ≤ 2 ^ 48) ∧ paged.ideRequired = false) ∧
    ((up paged (.copy d)).starts hdr (.copy d) ∧ (up paged (.copy d)).anySealed paged d.src d.length = false) ∧
    ((up paged (.fill f)).starts hdr (.fill f) ∧ (f.dst % 64 = 0 ∧ f.length % 64 = 0 ∧ 1 ≤ f.length ∧ f.length ≤ 2 ^ 40 - 64 ∧ f.dst + f.length ≤ 2 ^ 48)) ∧
    ((up paged (.evict e)).starts hdr (.evict e) ∧ (up paged (.evict e)).namesIdle 1 paged ∧ (e.vaddr % 2097152 = 0 ∧ e.length % 2097152 = 0 ∧
      e.vaddr + e.length ≤ 2 ^ 48 ∧ e.target + e.length ≤ 2 ^ 64) ∧ (up paged (.evict e)).hasJob 1 = false ∧
      (up paged (.evict e)).anySealed paged e.vaddr e.length = false ∧ (∀ q ∈ paged.pagesIn e.vaddr e.length, (up paged (.evict e)).pinned 1 q = false) ∧
      paged.pages.find? (fun q => !q.far && decide (e.vaddr ≤ q.vaddr) && decide (q.vaddr < e.vaddr + e.length)) = some page) ∧
    ((up paged (.evict n)).starts hdr (.evict n) ∧ ∀ q ∈ paged.pages, q.far = false → n.vaddr ≤ q.vaddr → n.vaddr + n.length ≤ q.vaddr) ∧
    (∀ k : XferKind, let s := withXfer (up paged .nop) k
      s.clocked = true ∧ s.fabric.vc4[0]? = some (.ack 7 1 fillPiece.dst.station) ∧ s.xfer? 7 = some (cmdXfer k) ∧
      ∀ e ∈ (cmdXfer k).stations, e = fillPiece.dst.station ∨ e ∈ (cmdXfer k).got) ∧
    (cmdXfer (.copy hdr c)).kind = .copy hdr c ∧ (cmdXfer (.fill hdr f)).kind = .fill hdr f ∧ (cmdXfer (.evict hdr e 0 0 0)).kind = .evict hdr e 0 0 0 :=
  ⟨⟨up_starts _ _, rfl, by decide, rfl⟩, ⟨up_starts _ _, by decide +kernel⟩, ⟨up_starts _ _, by decide⟩,
   ⟨up_starts _ _, up_idle _ _, by decide, by decide +kernel, by decide +kernel, by decide +kernel, by decide +kernel⟩,
   ⟨up_starts _ _, by decide +kernel⟩, fun _ => ⟨rfl, rfl, rfl, by simp [cmdXfer, Xfer.stations]⟩, rfl, rfl, rfl⟩

theorem witness_FillStoresThePattern :
    let p : FillP := ⟨1, 0xDEADBEEF, 65472, 64⟩
    let s : State := { up paged .nop with beds := Vector.replicate 4 { Bed.reset with tlb := [(1, 0)] } }
    let t : Tag := ⟨Fin.ofNat 3 (stackPc (0x40000000 + 65472)).1, Fin.ofNat 64 (stackPc (0x40000000 + 65472)).2, none, false, 7, 0, true, 0⟩
    let u : State := { withXfer (up paged .nop) (.fill hdr p) with beds := Vector.replicate 4 { Bed.reset with tags := [t] } }
    s.newXfer 1 (.fill hdr p) .fp32 none 64 0 = s.newXfer 1 (.fill hdr p) .fp32 none 64 0 ∧ (s.ctxD 1).pageAt p.dst = some page ∧
    p.dst + 64 ≤ page.vaddr + page.size ∧ (1, page.vaddr) ∈ (s.bed s.regionBed).tlb ∧ s.xlate 1 p.dst .write = .ok (.hbm 0 (0x40000000 + 65472)) ∧
    u.clocked = true ∧ Memory.wf u.hbm.mem = true ∧
    (u.bed 0).tags.find? (fun e => e.stack == t.stack && e.pc == t.pc && u.atController e) = some t ∧ t.wr = true ∧
    u.xfer? t.xfer = some (cmdXfer (.fill hdr p)) ∧ (cmdXfer (.fill hdr p)).cmd?.isSome = true ∧ (cmdXfer (.fill hdr p)).next = (cmdXfer (.fill hdr p)).total ∧
    (cmdXfer (.fill hdr p)).fault = none ∧ (cmdXfer (.fill hdr p)).piece? t.seq = some fillPiece ∧ fillPiece.dst = .hbm 0 (0x40000000 + 65472) ∧
    fillPiece.st = .writing ∧ (0x40000000 + 65472) % 4096 + fillPiece.data.length ≤ 4096 ∧ u.hbmReadable 0 (0x40000000 + 65472) = true ∧
    u.hbm.groupLost 0 (0x40000000 + 65472) = false := by
  refine ⟨rfl, rfl, by decide, ?_, rfl, rfl, rfl, ?_, rfl, rfl, rfl, rfl, rfl, rfl, rfl, rfl, ?_, ?_, ?_⟩ <;> decide +kernel

theorem witness_AgeScanAgesEveryFrame :
    let p : AgeScanP := ⟨0, true, 255, 0, 8⟩
    let q : AgeScanP := ⟨1, false, 0, 0, 0⟩
    (up paged (.ageScan p)).starts hdr (.ageScan p) ∧ p.size % 8 = 0 ∧ p.all = true ∧
    (up paged (.ageScan q)).starts hdr (.ageScan q) ∧ ((up paged (.ageScan q)).ctxs.any fun e => decide (e.1 = ctxOf q.ctx)) = true ∧
    (∀ r, (up paged (.ageScan q)).host.ring? hdr.ctx hdr.ring = some r → r.cqHbm = false) ∧
    sget 0 (up paged (.ageScan q)).hbm.touched 5 ≤ (up paged (.ageScan q)).hbm.scans :=
  ⟨up_starts _ _, rfl, rfl, up_starts _ _, rfl, by simp [up, HostIf.reset, HostIf.ring?, assoc?], by decide⟩

theorem witness_MemoryConfigurationLocks :
    let s := up paged .nop
    let t := s.modHbm fun m => { m with locked := true }
    s.regsOpen = true ∧ s.hbm.locked = false ∧ devRegionOk (field (254#32).toNat 0 9) s.hbm.devBase s.hbm.devSize = true ∧ field (254#32).toNat 0 9 < 256 ∧
    devRegionOk s.hbm.dwi (field (8#32).toNat 0 19) s.hbm.devSize = true ∧ devRegionOk s.hbm.dwi s.hbm.devBase (field (512#32).toNat 0 14) = true ∧
    t.regsOpen = true ∧ t.hbm.locked = true ∧ t.hbm.dwLost = false :=
  ⟨rfl, rfl, by decide +kernel, by decide, by decide +kernel, by decide +kernel, rfl, rfl, rfl⟩

theorem witness_FrameScrubZeroes :
    let s := (up paged .nop).modHbm fun m => { m with scrubbing := [130, 129, 5], sealedFrames := [(129, 1)] }
    s.clk.booted = true ∧ s.clk.inReset = false ∧ s.clk.tripped = false ∧ s.dbg.frozen = false ∧ Memory.wf s.hbm.mem = true ∧
    s.hbm.scrubbing = 130 :: [129, 5] := ⟨rfl, rfl, rfl, rfl, rfl, rfl⟩


/-- `ringed` with an event ring of context 1, and with no agreed interface. -/
def evented : State := { ringed with host := { ringed.host with events := [(1, ⟨0, false, 0, false, 0, 0, 0, true, false, []⟩)] } }
def unagreed : State := { ringed with host := { ringed.host with agreed := Vector.replicate 64 0 } }

theorem witness_DoorbellsMoveTheirIndices :
    let w : Nat → DoorbellWrite := fun off => ⟨0, 1, 0, off, 4, 63⟩
    evented.bellExists (w 0) = true ∧ evented.bellExists (w 8) = true ∧ evented.bellExists (w 16) = true ∧ evented.host.configReady = true ∧
    evented.clk.inReset = false ∧ evented.clk.tripped = false ∧ evented.dbg.frozen = false ∧ evented.host.operational = true ∧
    evented.host.agreed.get (Fin.ofNat 64 0) ≠ 0 ∧ evented.pageCtx 0 1 = some 1 ∧ evented.host.ring? 1 (Fin.ofNat 64 0) = some ring ∧ ring.err = false ∧
    63 % 2 ^ 16 < ringEntries ring.sqLog ∧ 63 % 2 ^ 16 < ringEntries ring.cqLog ∧
    evented.events? 1 = some ⟨0, false, 0, false, 0, 0, 0, true, false, []⟩ ∧ 63 % 2 ^ 16 < ringEntries 0 ∧
    unagreed.bellExists (w 0) = true ∧ unagreed.host.agreed.get (Fin.ofNat 64 0) = 0 := by
  refine ⟨?_, ?_, ?_, rfl, rfl, rfl, rfl, rfl, ?_, ?_, rfl, rfl, ?_, ?_, rfl, ?_, ?_, ?_⟩ <;> decide +kernel

/-- A packet that spells NOP, as the host's memory holds it. -/
def packet : List Byte := leBytes 64 (0x001 + 2 ^ 16)

theorem witness_RingEventsComplete :
    let p : RingConfigP := ⟨1, 63, false, false, 4, 15, true, false, 2047, true, 0, 8192⟩
    let e : RingConfigP := ⟨1, 0, true, false, 0, 4, false, true, 2047, true, 0, 0⟩
    let d : Bool → RingConfigP := fun v => ⟨1, 0, v, true, 0, 0, false, false, 0, false, 0, 0⟩
    let s := up paged (.ringConfig p)
    let u := s.modHbm fun m => { m with locked := true }
    let r : State := { up paged (.ringConfig (d false)) with host := { (up paged (.ringConfig (d false))).host with rings := [((1, 0), ring)] } }
    let ok : Env := ⟨packet, none, none⟩
    let bad : Env := ⟨packet, some (0, .timeout), none⟩
    let v : State := { evented with ctxs := [(0, Ctx.fresh), (1, { Ctx.fresh with backlog := [[1], [2]], lost := 3 })] }
    (s.startsAnew hdr (.ringConfig p) ∧ s.names 1 paged ∧ p.ring < 64 ∧ (ctxOf p.ctx ≠ 0 ∨ p.ring ≠ 0 ∨ p.event = true)) ∧
    (p.vector < (if s.funcOf (ctxOf p.ctx) = 0 then 2048 else 32) ∧ p.sqBase % 4096 = 0 ∧ p.cqBase % 4096 = 0 ∧
      s.host.ring? (ctxOf p.ctx) (Fin.ofNat 64 p.ring) = none ∧ ∃ a, u.ringPages (ctxOf p.ctx) p.sqBase (2 ^ (12 + p.sqLog)) .hbmRead = .ok a) ∧
    ((up paged (.ringConfig e)).startsAnew hdr (.ringConfig e) ∧ e.vector < (if s.funcOf (ctxOf e.ctx) = 0 then 2048 else 32) ∧ e.cqBase % 4096 = 0 ∧
      s.events? (ctxOf e.ctx) = none ∧ ∃ b, u.ringPages (ctxOf e.ctx) e.cqBase (2 ^ (12 + e.cqLog)) .write = .ok b) ∧
    ((up paged (.ringConfig (d true))).startsAnew hdr (.ringConfig (d true)) ∧ (up paged (.ringConfig (d false))).startsAnew hdr (.ringConfig (d false)) ∧
      s.host.ring? 1 0 = none ∧ r.startsAnew hdr (.ringConfig (d false)) ∧ r.names 1 paged ∧ r.host.ring? 1 0 = some ring ∧ ring.closing = none ∧
      ring.closingAdmin = false ∧ ∀ f ∈ r.host.fetched, f.on 1 0 = true → f.hdr = hdr) ∧
    (ringed.live = true ∧ ringed.host.ring? 1 0 = some ring ∧ ring.err = false ∧ 1 ≤ ring.waiting ∧ ring.canReserve = true ∧
      (∃ first, ringed.readEntries 1 ring ok 1 0 = .ok first ∧ fieldAt first 2 1 % 32 = 1) ∧ ringed.readEntries 1 ring bad 1 0 = .error (0x10000, .farTierTimeout)) ∧
    (evented.live = true ∧ evented.host.ring? 1 0 = some ring ∧ (evented.events? 1).isSome = true) ∧
    ∃ x g, v.live = true ∧ v.ctx? 1 = some x ∧ v.events? 1 = some g ∧ g.err = false ∧ x.backlog.length ≤ 64 ∧ g.tail < ringEntries g.log ∧
      g.head < ringEntries g.log := by
  refine ⟨⟨up_anew _ _, rfl, by decide, by decide⟩, ⟨by decide +kernel, by decide, by decide, rfl, _, rfl⟩,
    ⟨up_anew _ _, by decide +kernel, by decide, rfl, _, rfl⟩, ⟨up_anew _ _, up_anew _ _, rfl, up_anew paged (.ringConfig ⟨1, 0, false, true, 0, 0, false, false, 0, false, 0, 0⟩), rfl, rfl, rfl, rfl, ?_⟩,
    ⟨rfl, rfl, rfl, by decide +kernel, by decide +kernel, ⟨_, rfl, by decide +kernel⟩, rfl⟩, ⟨rfl, rfl, rfl⟩, _, _, rfl, rfl, rfl, rfl, ?_, ?_, ?_⟩
  · simp [up]
  all_goals decide +kernel

theorem witness_InterfaceIsNegotiated :
    (up paged .nop).funcEnabled (0 : Fin 64).val = true ∧ (up paged .nop).regsOpen = true ∧ (up paged .nop).funcHasRing 0 = false ∧
    ringed.funcEnabled (0 : Fin 64).val = true ∧ ringed.regsOpen = true ∧ ringed.funcHasRing 0 = true := by decide +kernel

/-- That device with interrupt 5 raised and vector 0 unmasked. -/
def alerted : State := (up paged .nop).modHost fun i => { i with intStatus := 32, msix := [((0, 0), ⟨0, 0, 0, 0⟩)] }

theorem witness_DeviceInterruptsSendOneMessage :
    alerted.host.intStatus < 64 ∧ bit alerted.host.intStatus 5 = true ∧ bit alerted.host.intStatus 0 = false ∧
    (alerted.host.msixEntry 0 alerted.host.intVector).ctl.getLsbD 0 = false ∧ alerted.regsOpen = true ∧
    (∀ b, b < 6 → bit (0#32).toNat b = true → bit alerted.host.intStatus b = true → bit alerted.host.intEnable b = true) ∧
    (∃ b, b < 6 ∧ bit (63#32).toNat b = true ∧ bit alerted.host.intStatus b = true ∧ bit alerted.host.intEnable b = false) := by
  refine ⟨?_, ?_, ?_, ?_, ?_, ?_, 5, ?_⟩ <;> decide +kernel

theorem witness_RegisterWritesTakeEffect :
    let s := (up paged .nop).modHost fun i => { i with winSel := 511, winHi := 2 ^ 16 }
    let t := ringed.modHost fun i => { i with adminCfg := 2 ^ 31, fetched := [], rings := [((0, 0), ring)] }
    s.regsOpen = true ∧ field s.host.winSel 0 19 * 2097152 < s.bar4Size (field s.host.winSel 19 6) ∧
    (∃ x, s.ctx? (ctxOf (field s.host.winHi 16 12)) = some x ∧ x.func = field s.host.winSel 19 6) ∧
    bit s.host.adminCfg 31 = false ∧ bit (0x80000000#32).toNat 31 = true ∧ s.host.ring? 0 0 = none ∧
    t.regsOpen = true ∧ bit t.host.adminCfg 31 = true ∧ bit (1#32).toNat 31 = false ∧ t.host.ring? 0 0 = some ring ∧ ring.closing = none ∧
    (∀ f ∈ t.host.fetched, f.on 0 0 = false) ∧ bit (1#32).toNat 0 = true ∧ s.dbg.copyBusy = false ∧
    s.funcEnabled (0 : Fin 64).val = true ∧ 2 ^ 26 - 4 < 2 ^ 26 ∧ ¬ (4 = 4 ∧ 6 % 4 = 0) ∧ ¬ (4 = 8 ∧ 6 % 8 = 0) := by
  refine ⟨?_, ?_, ⟨paged, rfl, rfl⟩, ?_⟩ <;> decide +kernel

theorem witness_FreezeAndThaw :
    let s := up paged .nop
    s.host.configReady = true ∧ s.clk.inReset = false ∧ s.clk.tripped = false ∧ s.dbg.frozen = false ∧ s.dbg.debugMode = false ∧ s.regsOpen = true ∧
    State.reset.host.configReady = false := ⟨rfl, rfl, rfl, rfl, rfl, rfl, rfl⟩

/-- A seal of a context, and a frozen device whose running context 1 is sealed. -/
def seal0 : Seal := ⟨.sealing, 0, 0, none, 0, 0, 0, 0, 0, 0, false, none⟩
def sealedCtx : Ctx := { paged with sealing := some seal0 }
def frozen : State := { up sealedCtx .nop with running := some 1, dbg := { Debug.reset with frozen := true, copyBusy := true } }

theorem witness_ThawEntersDebugMode :
    FreezeSrc.jtag ≠ .pin ∧ FreezeSrc.register ≠ .pin ∧ frozen.dbg.frozen = true ∧ (∃ e ∈ frozen.ctxs, e.2.sealing.isSome = true) ∧
    ∃ s : State, s.dbg.frozen = true ∧ ∃ t, exec (.thaw .jtag) s = .next t ∧ t.running = some 1 ∧ ∃ x, t.ctx? 1 = some x := by
  exact ⟨by decide, by decide, rfl, ⟨(1, sealedCtx), by simp [frozen, up], rfl⟩, { frozen with ctxs := [(0, Ctx.fresh), (1, paged)] }, rfl, _, rfl,
    by decide +kernel, some_of (by decide +kernel)⟩

theorem witness_ReadPortsAnswer :
    frozen.dbg.frozen = true ∧ frozen.runSealed = true ∧ frozen.clk.inReset = false ∧ frozen.clk.inert = false ∧ frozen.clk.tripped = false ∧
    (up paged .nop).host.configReady = true ∧ (up paged .nop).clk.warming = false ∧ (up paged .nop).dbg.frozen = false ∧
    ({ up paged .nop with dbg := { Debug.reset with copyBusy := true } } : State).dbg.copyBusy = true := ⟨rfl, rfl, rfl, rfl, rfl, rfl, rfl, rfl, rfl⟩

/-- A device whose window 0 shows the page of context 1. -/
def windowed : State := (up paged .nop).modHost fun i => { i with windows := [((0, 0), ⟨true, true, 0, 1⟩)] }

theorem witness_Bar4ReachesContextMemory :
    windowed.host.configReady = true ∧ windowed.clk.inReset = false ∧ windowed.clk.tripped = false ∧ windowed.bar4Open = true ∧
    (65535 % 64 + 1 ≤ 64 ∧ windowed.bar4Exists 0 65535 1 = true ∧ windowed.bar4At 0 65535 false = .ok (0, 0x4000FFFF) ∧ windowed.hbmReadable 0 0x4000FFFF = true) ∧
    (windowed.bar4At 0 65535 true = .ok (0, 0x4000FFFF) ∧ ∃ u, windowed.hbmWrite 0 0x4000FFFF [9] false = some u) ∧
    windowed.bar4Exists 0 65536 64 = true ∧ windowed.bar4At 0 65536 false = .error .pageFault ∧ windowed.bar4At 0 65536 true = .error .pageFault :=
  ⟨rfl, rfl, rfl, rfl, ⟨by decide, by decide +kernel, rfl, by decide +kernel⟩, ⟨rfl, some_of (by decide +kernel)⟩, by decide +kernel, rfl, rfl⟩

theorem witness_ConfigurationAndFunctionReset :
    let s := (up paged .nop).modHost fun i => { i with configReady := false }
    let t := (up paged .nop).modHost fun i => { i with vfEnable := true, numVfs := 63 }
    s.clk.inReset = false ∧ s.clk.inert = false ∧ s.clk.tripped = false ∧ s.clk.linkUp = true ∧ s.host.configReady = false ∧
    t.clk.linkUp = true ∧ t.host.configReady = true ∧ t.funcEnabled (63 : Fin 64).val = true ∧ (63 : Fin 64) ≠ 0 ∧ t.regsOpen = true ∧ t.dbg.frozen = false := by
  decide +kernel

/-- A device with negotiated SPDM algorithms, one session open and one established. -/
def sessioned : State :=
  { up paged .nop with sec := { Security.reset Fuses.presumed with
      spdmVersion := true, spdmCaps := true, spdmAlgs := ⟨true, true, true, true⟩, nextSession := 2, sessions := [⟨0, false, 5, 0⟩, ⟨1, true, 6, 0⟩] } }

/-- The base point of P-521. -/
def baseX : Nat := 0x00C6858E06B70404E9CD9E3ECB662395B4429C648139053FB521F828AF606B4D3DBAA14B5E77EFE75928FE1DC127A2FFA8DE3348B3C1856A429BF97E7E31C2E5BD66
def baseY : Nat := 0x011839296A789A3BC0045C8A5FB42C7D1BD998F54449579B446817AFBD17273E662C97EE72995EF42640C550B9013FAD0761353C7086A272C24088BE94769FD16650

theorem witness_SpdmAnswersWithItsCommand :
    let busy := sessioned.modHost fun i => { i with updating := true }
    sessioned.spdmOpen = true ∧ sessioned.host.updating = false ∧ sessioned.sec.spdmVersion = true ∧ sessioned.sec.spdmCaps = true ∧
    ((⟨false, false, false, true⟩ : SpdmAlgs).ecdsaP521 || false || false || (⟨false, false, false, true⟩ : SpdmAlgs).aesGcm256) = true ∧
    sessioned.sec.negotiated = true ∧ 0 < sessioned.certChain.length ∧ sessioned.sec.canSign = true ∧ (∃ v, sessioned.measurement 48 = some v) ∧
    (∃ v, sessioned.measurement 16 = some v) ∧ sessioned.sec.spdmAlgs.dheSecp521 = true ∧ sessioned.sec.spdmAlgs.aesGcm256 = true ∧ onP521 baseX baseY = true ∧
    busy.spdmOpen = true ∧ busy.host.updating = true := by
  refine ⟨rfl, rfl, rfl, rfl, rfl, rfl, ?_, rfl, ⟨_, rfl⟩, ⟨_, rfl⟩, rfl, rfl, by decide +kernel, rfl, rfl⟩
  simp [State.certChain]

theorem witness_SpdmSessionsOpenAndClose :
    let k : IdeStream := ⟨3, [(false, false, 1), (false, true, 2)], 0, 0, 0, 0, none⟩
    sessioned.spdmOpen = true ∧ sessioned.host.updating = false ∧ sessioned.sec.negotiated = true ∧
    sessioned.sec.session? 0 = some ⟨0, false, 5, 0⟩ ∧ sessioned.sec.session? 1 = some ⟨1, true, 6, 0⟩ ∧
    k ∈ [k] ∧ k.id = 3 ∧ k.complete false = true ∧ k.complete true = false ∧ [k].length ≤ 8 := by decide +kernel

theorem witness_ResetsLeaveWhatTheyMust :
    let s := up paged .nop
    s.regsOpen = true ∧ field (0x574D0001#32).toNat 16 16 = 0x574D ∧ bit (0x574D0001#32).toNat 0 = true ∧ s.host.updating = false ∧
    s.host.operational = true ∧ s.clk.halted = false := by decide +kernel

theorem witness_StartUpReachesOperation :
    let k : ImageInfo := ⟨0, 0, 1, 2, 3, 4⟩
    let e : BootEnv := ⟨[], 1, none, some k, []⟩
    let s : State := { State.reset with clk := { Clock.reset with inReset := false, booted := true, linkUp := true } }
    let t : State := { s with host := { HostIf.reset with configReady := true }, hbm := { Hbm.reset with ready := true } }
    State.reset.clk.inReset = true ∧ Feed.eas ∈ [Feed.eas] ∧ e.pgLow = [] ∧ e.avsFail = [] ∧ (if e.selector = 0 then e.bank0 else e.bank1) = some k ∧
    State.reset.fuses.svn ≤ k.svn ∧ s.clk.inReset = false ∧ s.clk.inert = false ∧ s.clk.linkUp = true ∧ s.host.configReady = false ∧
    s.clk.booted = true ∧ s.clk.tripped = false ∧ s.hbm.ready = false ∧ s.dbg.frozen = false ∧ (⟨[], [], []⟩ : TestEnv).badStacks = [] ∧
    t.clk.booted = true ∧ t.clk.halted = false ∧ t.host.configReady = true ∧ t.hbm.ready = true ∧ t.host.operational = false := by decide +kernel

theorem witness_ThermalEventsAct :
    let s := up paged .nop
    s.sensing = true ∧ s.clk.booted = true ∧ s.dbg.frozen = false ∧ s.pw.tempLimit < 101 ∧ (110 ≤ 110) ∧ (105 ≤ 105 ∧ 104 < 105) ∧ (115 ≤ 115 ∧ 114 < 115) := by
  decide +kernel

theorem witness_PowerManagementActs :
    let p : Nat → Bool → PowerPolicyP := fun w l => ⟨w, l⟩
    let t : TelemetryReadP := ⟨false, 0x1000, 1024⟩
    let idle := running busy Queue.empty none
    let lending := (running busy (holding .signal none) none).modCore 0 fun k => { k with pw := { k.pw with lending := true } }
    (up paged (.powerPolicy (p 500 true))).starts hdr (.powerPolicy (p 500 true)) ∧ (up paged (.powerPolicy (p 2000 false))).starts hdr (.powerPolicy (p 2000 false)) ∧
    (up paged (.telemetryRead t)).starts hdr (.telemetryRead t) ∧ t.latch = false ∧ (up paged .nop).managing = true ∧
    (∃ n x e, idle.acting 0 = some (n, x, e) ∧ idle.pw.lend = true ∧ (idle.core 0).pw.lending = false ∧ idle.idleFor 0 x = true) ∧
    ∃ n x e, lending.acting 0 = some (n, x, e) ∧ (lending.core 0).pw.lending = true ∧ ((lending.core 0).pick x 0).isSome = true := by
  refine ⟨up_starts _ _, up_starts _ _, up_starts _ _, rfl, rfl, ⟨1, busy, program, ?_⟩, 1, busy, program, ?_⟩ <;> decide +kernel

theorem witness_BudgetIsSharedEvenly :
    let s := running busy Queue.empty none
    s.managing = true ∧ 0 < 600 ∧ (s.pw.limitW * 1000 - 2000000) * 16 / 600 < (allCores.filter s.computing).length ∧ s.computing 63 = true := by decide +kernel

theorem witness_AllowancesStayInRange : 0 < 64 ∧ 64 ≤ 64 ∧ 64 ≤ 16 * 64 ∧ 1024 ≤ 16 * 64 ∧ 63 < 64 := by decide

theorem witness_DiesAreFencedAndTested :
    let p : PartnerSetP := ⟨1, 0, 15⟩
    let s := up paged .nop
    let t := s.modDie (.c 3) fun k => { k with testFor := some 9 }
    (up paged (.dieFence (.c 15))).starts hdr (.dieFence (.c 15)) ∧ DieCode.c 15 ≠ .b (up paged .nop).regionBed ∧ s.fenced (.c 15) = false ∧
    ((up paged (.dieFence (.b 3))).starts hdr (.dieFence (.b 3)) ∧ DieCode.b 3 ≠ .b s.regionBed ∧ s.fenced (.b 3) = false) ∧
    ((up paged (.selfTest (.m 3))).starts hdr (.selfTest (.m 3)) ∧ s.fenced (.m 3) = false ∧ s.inUse (.m 3) = false) ∧
    ((up paged (.dieReset (.c 0))).startsAnew hdr (.dieReset (.c 0)) ∧ (∀ b, DieCode.c 0 ≠ .b b) ∧ s.fenced (.c 0) = false) ∧
    (t.powered = true ∧ t.fenced (.c 3) = false ∧ (t.die (.c 3)).testFor = some 9) ∧
    (s.ticking = true ∧ 524287 < 524288 ∧ ∀ m ∈ (s.slice 0).wet, m.line ≠ 524287) ∧ (s.powered = true ∧ s.clk.halted = false) ∧
    (up paged (.partnerSet p)).starts hdr (.partnerSet p) ∧ (up paged (.partnerSet p)).names 1 paged ∧
      (up paged (.partnerSet p)).fenced (.c p.die) = false ∧ (up paged (.partnerSet p)).fenced (.c p.partner) = false ∧ p.die.bed ≠ p.partner.bed := by
  refine ⟨up_starts _ _, by decide, by decide +kernel, ⟨up_starts _ _, by decide +kernel, by decide +kernel⟩,
    ⟨up_starts _ _, by decide +kernel, by decide +kernel⟩, ⟨up_anew _ _, by simp, by decide +kernel⟩, by decide +kernel, by decide +kernel, by decide +kernel,
    up_starts _ _, rfl, by decide +kernel, by decide +kernel, by decide⟩

/-- A manifest image's header for that owner, and a firmware image's first bytes. -/
def sealHead : List Byte :=
  putAt (putAt (putAt (putAt (zeros 256) 0 (leBytes 6 (0x4D49534B + 2 ^ 32))) 16 (leBytes 66 baseX)) 82 (leBytes 66 baseY)) 156 (leBytes 8 256)

theorem witness_SecurityCommandsComplete :
    let o : SealP := ⟨1, 0x1000, 512⟩
    let l : SealLoadP := ⟨1, 0, 0, 256 + copyBytes 256⟩
    let f : FwStageP := ⟨0, 1024⟩
    let e : Env := ⟨zeros 8 ++ leBytes 4 1024, none, none⟩
    let staged : State := { up paged .fwActivate with sec := { Security.reset Fuses.presumed with staged := some ⟨0, 0, 1, 2, 3, 4⟩ } }
    let d : DebugUnlockP := ⟨false, 0x1000, 192⟩
    ((up paged (.sealOpen o)).starts hdr (.sealOpen o) ∧ ctxOf o.ctx ≠ 0 ∧ (up paged (.sealOpen o)).namesIdle 1 paged ∧ paged.sealing = none ∧
      (up paged (.sealOpen o)).sec.locked = true ∧ paged.grad.casc = none ∧ (∀ q ∈ paged.pages, q.far = false ∨ q.wr = false) ∧
      (up paged (.sealOpen o)).sharesFrame 1 paged = false ∧ (up paged (.sealOpen o)).unmeasured = false) ∧
    ((up sealedCtx (.sealLoad l)).starts hdr (.sealLoad l) ∧ (up sealedCtx (.sealLoad l)).names 1 sealedCtx ∧ sealedCtx.sealing = some seal0 ∧
      256 ≤ l.length ∧ ∃ hd g, (⟨sealHead, none, none⟩ : Env).read 0 256 = .ok hd ∧ sealHdr hd l.length = .ok g ∧
      ((seal0.st == .sealing) = (g.kind == 0)) ∧ seal0.owner = none ∧ onP521 g.qx g.qy = true) ∧
    ((up sealedCtx (.sealClose 1)).starts hdr (.sealClose 1) ∧ (up sealedCtx (.sealClose 1)).namesIdle 1 sealedCtx ∧ sealedCtx.sealing.isSome = true) ∧
    ((up paged (.fwStage f)).starts hdr (.fwStage f) ∧ f.length ≤ 2 ^ 25 ∧ e.rdFail = none ∧ (∃ bs, e.read 0 f.length = .ok bs) ∧
      fieldAt (padTo (min f.length 12) e.bytes) 8 4 = f.length) ∧
    (staged.startsAnew hdr .fwActivate ∧ staged.sec.staged.isSome = true ∧ staged.anySealing = false ∧ staged.running = none ∧
      ∀ j ∈ staged.media.jobs, j.st = .queued) ∧
    (up paged (.debugUnlock d)).starts hdr (.debugUnlock d) ∧ (up paged (.debugUnlock d)).anySealing = false ∧ d.present = false ∧ 192 ≤ d.length := by
  refine ⟨⟨up_starts _ _, by decide, up_idle _ _, rfl, rfl, rfl, by decide, by decide +kernel, by decide +kernel⟩,
    ⟨up_starts _ _, rfl, rfl, by decide, sealHead, ⟨0, baseX, baseY, zeros 8, 256⟩, by decide +kernel, by decide +kernel, rfl, rfl, by decide +kernel⟩,
    ⟨up_starts _ _, up_idle _ _, rfl⟩, ⟨up_starts _ _, by decide, rfl, ⟨_, rfl⟩, by decide +kernel⟩, ⟨up_anew paged _, rfl, rfl, rfl, by simp [up, State.reset, Media.reset]⟩,
    up_starts _ _, rfl, rfl, by decide⟩


/-! ### Operations -/

theorem running_current (x : Ctx) (q : Queue) (ex : Exec) (d : Desc) (ds : List Desc) (r : Run) (h1 : x.exec = some ex) (h2 : q.ops = d :: ds)
    (h3 : q.run = some r) (h4 : r.outcome = none) : (running x q (some 0)).current 0 = some ⟨1, x, ex, 0, d, r⟩ := by
  have a : ((running x q (some 0)).core 0).cur = some 0 := rfl
  have b : (running x q (some 0)).runCtx = some (1, x) := rfl
  have e : ((running x q (some 0)).core 0).queue 0 = q := rfl
  have f : (!(running x q (some 0)).ticking || (running x q (some 0)).fenced (.c (0 : CoreId).die) || ((running x q (some 0)).core 0).pw.reclaiming) = false := rfl
  simp [State.current, f, a, b, e, h1, h2, h3, h4]

theorem running_is (x : Ctx) (q : Queue) (ex : Exec) (d : Desc) (ds : List Desc) (r : Run) (h1 : x.exec = some ex) (h2 : q.ops = d :: ds)
    (h3 : q.run = some r) (h4 : r.outcome = none) (h5 : ex.stopSt = none) (h6 : q.wait = .none) :
    (running x q (some 0)).currentIs 0 d.op = some ⟨1, x, ex, 0, d, r⟩ ∧ (running x q (some 0)).currentRun 0 d.op = some ⟨1, x, ex, 0, d, r⟩ := by
  have e : ((running x q (some 0)).core 0).queue 0 = q := rfl
  have f : ((running x q (some 0)).core 0).stopping = false := rfl
  simp [State.currentIs, State.currentRun, running_current x q ex d ds r h1 h2 h3 h4, e, f, h5, h6]

/-- Core 0 with an operation in hand. -/
def hand (o : AkiOp) (r : Run) : State := running busy (holding o (some r)) (some 0)
def cur (o : AkiOp) (r : Run) : Cur := ⟨1, busy, program, 0, desc o, r⟩

theorem hand_is (o : AkiOp) (r : Run) (h : r.outcome = none) : (hand o r).currentIs 0 o = some (cur o r) :=
  (running_is busy (holding o (some r)) program (desc o) [] r rfl rfl rfl h rfl rfl).1

theorem hand_run (o : AkiOp) (r : Run) (h : r.outcome = none) : (hand o r).currentRun 0 o = some (cur o r) :=
  (running_is busy (holding o (some r)) program (desc o) [] r rfl rfl rfl h rfl rfl).2

theorem hand_dry (o : AkiOp) (r : Run) (c : CoreId) (u : Cur) (lines : List Nat) : (hand o r).dry c u lines := by
  intro m h
  have e : ((hand o r).slice c.die).wet = [] := by
    have : (hand o r).slices = Vector.replicate 16 Slice.reset := rfl
    simp [State.slice, this, Vector.get, Slice.reset]
  simp [e] at h

def run0 : Run := Run.fresh 0 0 0
def run1 : Run := { run0 with first := false, unit := 1, lastEnd := 100 }

/-- One word at byte 64, one column of 64 vectors of one element at 4096, and one row of 32. -/
def cell : OperandRec := ⟨64, 0, 0, false, .fp32, 0, [], [], []⟩
def column : OperandRec := ⟨4096, 0, 1, true, .bf16, 2, [1, 64], [2, 2], [0, 0]⟩
def record0 : OperandRec := ⟨8192, 0, 0, false, .fp32, 0, [], [], []⟩

/-- A pull of plate 7 that writes nothing, and the two operands of an update of 64 steps into one word. -/
def pull0 : PullP := ⟨7, false, false, false, false, .none, .relu, false, false, false, false, false, false, false, false, .absent, .absent, .none, 0, false,
  .fp32, none, 0, 0, 0, none, none, none, none, none, none, none, none⟩
def outer0 : OuterP := ⟨0, false, false, 0, 2, column, column, none, ⟨false, 0, 0, 0, 0⟩⟩
def row0 : OperandRec := ⟨4096, 0, 0, false, .bf16, 2, [32, 3], [2, 64], [0, 0]⟩
def stylus0 : StylusP := ⟨1, row0, row0, pull0, ⟨false, 0, 0, 0, 0⟩⟩

/-- Sixteen words at byte 64, and sixteen at byte 8192. -/
def words : OperandRec := ⟨64, 0, 0, false, .fp32, 1, [16], [4], [0]⟩
def there : OperandRec := ⟨8192, 0, 0, false, .fp32, 1, [16], [4], [0]⟩

theorem witness_ControlOperationsComplete :
    let s := running busy (holding .wait none) none
    let e := hand .signal { run0 with outcome := some .ok, endAt := some 1 }
    let t := (running busy Queue.empty none).modCore 0 fun k => { k with trailing := [⟨0, 0, desc .signal, none, some 5⟩] }
    let v := (running busy Queue.empty none).modFabric fun f => { f with vc4 := [.signal 1 63 63 5 none none] }
    let h : Channel := ⟨0, 0, 63, 63, 8, 5⟩
    let back : Run := { run1 with suspended := true }
    let f := running busy (holding (.outer outer0) (some back)) none
    let g := running busy { holding (.barrier 2) none with wait := .released } none
    let stops : Ctx := { busy with stops := [(0, 1)] }
    (s.acting 0 = some (1, busy, program) ∧ s.current 0 = none ∧ (s.core 0).cur = none ∧ (s.core 0).pick busy 0 = some 0 ∧
      (s.core 0).pw.lending = false ∧ ((s.core 0).queue 0).run = none ∧ ((s.core 0).queue 0).ops = desc .wait :: [] ∧ (desc .wait).sigEn = false ∧
      (∀ k, ((s.core 0).queue k).lostTo busy 0 program.lost = false) ∧ findChan (fun h => h.full == 0 && h.consumer == 0) [h] 0 = some (0, h) ∧ h.occ + 3 ≤ h.depth) ∧
    (f.acting 0 = some (1, busy, program) ∧ f.current 0 = none ∧ (f.core 0).cur = none ∧ (f.core 0).pick busy 0 = some 0 ∧ (f.core 0).pw.lending = false ∧
      (∀ k, ((f.core 0).queue k).lostTo busy 0 program.lost = false) ∧ ((f.core 0).queue 0).run = some back) ∧
    (g.acting 0 = some (1, busy, program) ∧ g.current 0 = none ∧ (g.core 0).cur = none ∧ (g.core 0).pick busy 0 = some 0 ∧ ((g.core 0).queue 0).run = none ∧
      ∀ k, ((g.core 0).queue k).lostTo busy 0 program.lost = false) ∧
    run0.endAt = none ∧
    ((hand .signal run0).currentIs 0 .signal = some (cur .signal run0) ∧ (hand .wait run0).currentIs 0 .wait = some (cur .wait run0) ∧
      (hand (.stopMark ⟨7, true⟩) run0).currentIs 0 (.stopMark ⟨7, true⟩) = some (cur (.stopMark ⟨7, true⟩) run0)) ∧
    (e.ticking = true ∧ (e.core 0).pw.reclaiming = false ∧ (e.core 0).cur = some 0 ∧ e.runCtx = some (1, busy) ∧ ((e.core 0).queue 0).ops = desc .signal :: [] ∧
      ((e.core 0).queue 0).run = some { run0 with outcome := some .ok, endAt := some 1 } ∧ stopCause e busy 0 0 1 .signal = none ∧ stopCause e stops 0 0 1 .signal = some 0) ∧
    ((hand .signal run0).current 0 = some (cur .signal run0) ∧ CoreFault.meets .control (cur .signal run0).desc.op = true) ∧
    (t.ticking = true ∧ (t.core 0).pw.reclaiming = false ∧ (t.core 0).trailing[0]? = some ⟨0, 0, desc .signal, none, some 5⟩ ∧ t.runCtx = some (1, busy) ∧
      (t.core 0).cur = none) ∧
    (v.ticking = true ∧ v.fabric.vc4[0]? = some (.signal 1 63 63 5 none none) ∧ v.ctx? 1 = some busy ∧
      findChan (fun h => h.ack == 63 && h.producer == 63) busy.channels 0 = none ∧
      findChan (fun h => h.ack == 63 && h.producer == 63) ({ busy with channels := [h] } : Ctx).channels 0 = some (0, h) ∧ 5 ≤ h.occ) :=
  ⟨⟨rfl, rfl, rfl, by decide +kernel, rfl, rfl, rfl, rfl, by decide +kernel, rfl, by decide⟩,
   ⟨rfl, rfl, rfl, by decide +kernel, rfl, by decide +kernel, rfl⟩, ⟨rfl, rfl, rfl, by decide +kernel, rfl, by decide +kernel⟩, rfl, ⟨hand_is _ _ rfl, hand_is _ _ rfl, hand_is _ _ rfl⟩,
   ⟨rfl, rfl, rfl, rfl, rfl, rfl, rfl, by decide +kernel⟩, ⟨rfl, rfl⟩, ⟨rfl, rfl, rfl, rfl, rfl⟩, rfl, rfl, rfl, rfl, rfl, by decide⟩

/-- A context with line 2 of cores 0 and 1, on which `who` have arrived. -/
def lined (who : List Nat) : Ctx := { busy with lines := [(2, ⟨3, 2, false, who, [], false, []⟩)] }

theorem witness_BarriersAndWaitsComplete :
    let b : LineId := 2
    let s := running (lined []) (holding (.barrier b) none) none
    let t := running (lined [0]) (holding (.barrier b) none) none
    let r := running (lined [0, 1]) { holding (.barrier b) none with wait := .barrier } none
    let w := running busy { holding .signal (some run0) with wait := .wet 4 } (some 0)
    let wm := w.modSlice 0 fun k => { k with wet := [⟨4, 0, 1, 9, 0, 0, some 3⟩] }
    let late := running busy { holding .wait none with ops := [{ desc .wait with waitEn := true, waitTarget := 5 }], wait := .counter, waitLimit := 100 } none
    let stop : Exec := { program with stopSt := some (.done, 0) }
    let q := running { busy with exec := some stop } Queue.empty none
    let o := (running busy Queue.empty none).modCore 63 fun k => { k with stopping := true }
    let z := (running busy Queue.empty none).modHost fun i => { i with fetched := [⟨hdr, .ctxPreempt 1 false, true⟩] }
    let wetQ := running busy { holding .signal (some run0) with wait := .wet 4, waitLimit := 100 } (some 0)
    (s.acting 0 = some (1, lined [], program) ∧ ((s.core 0).queue 0).ops = desc (.barrier b) :: [] ∧ ((s.core 0).queue 0).run = none ∧
      ((s.core 0).queue 0).wait = .none ∧ (lined []).met 0 (desc (.barrier b)) = true ∧ (lined []).line? b = some ⟨3, 2, false, [], [], false, []⟩ ∧
      bit 3 (0 : CoreId).val = true ∧ t.acting 0 = some (1, lined [0], program) ∧ (lined [0]).line? b = some ⟨3, 2, false, [0], [], false, []⟩) ∧
    (r.ticking = true ∧ r.runCtx = some (1, lined [0, 1]) ∧ (lined [0, 1]).line? b = some ⟨3, 2, false, [0, 1], [], false, []⟩ ∧
      ∀ p ∈ participants 3, p ∈ [0, 1]) ∧
    ((∃ u, w.current 0 = some u ∧ u.q = 0) ∧ ((w.core 0).queue 0).wait = .wet 4 ∧ w.lineWet 0 ((w.core 0).cyc + 3) 4 = false ∧ w.clearsAt 0 4 = [] ∧
      wm.lineWet 0 ((wm.core 0).cyc + 3) 4 = false ∧ wm.clearsAt 0 4 = [3] ∧ (wm.core 0).cyc + 3 = (wm.clearsAt 0 4).foldl max (wm.core 0).cyc) ∧
    (late.acting 0 = some (1, busy, program) ∧ 100000 * ((late.core 0).queue 0).waitLimit < 10010000 ∧ 10010000 ≤ 100000 * ((late.core 0).queue 0).waitLimit + 10000 ∧
      late.current 0 = none ∧ ((late.core 0).queue 0).wait = .counter ∧
      min ((late.core 0).measured late.timeNs ((late.core 0).queue 0)) 10010000 ≤ 10010000 ∧
      (({ late with timeNs := (late.core 0).timeOf late.timeNs ((late.core 0).queue 0) 10010000 } : State).waitEntry busy 0 0).isSome = true) ∧
    (wetQ.acting 0 = some (1, busy, program) ∧ ((wetQ.core 0).queue 0).wait = .wet 4 ∧ (∃ u, wetQ.current 0 = some u ∧ u.q = 0) ∧
      (({ wetQ with timeNs := (wetQ.core 0).timeOf wetQ.timeNs ((wetQ.core 0).queue 0) 10010000 } : State).waitEntry busy 0 0).isSome = true) ∧
    (z.ticking = true ∧ z.runCtx = some (1, busy) ∧ program.stopSt = none ∧ z.preempting 1 = true ∧ busy.program = true ∧
      z.canQuiesce 1 (inMap program.coreMap) = true) ∧
    (q.runCtx = some (1, { busy with exec := some stop }) ∧ stop.stopSt.isSome = true ∧ q.canQuiesce 1 (inMap stop.coreMap) = true) ∧
    (o.runCtx = some (1, busy) ∧ program.stopSt = none ∧ o.preempting 1 = false ∧
      (allCores.any fun c => inMap program.coreMap c && (o.core c).stopping) = true ∧
      o.canQuiesce 1 (fun c => inMap program.coreMap c && (o.core c).stopping) = true) := by
  refine ⟨⟨rfl, rfl, rfl, rfl, rfl, rfl, by decide, rfl, rfl⟩, ⟨rfl, rfl, rfl, by decide⟩,
    ⟨⟨_, running_current busy _ program (desc .signal) [] run0 rfl rfl rfl rfl, rfl⟩, rfl, by decide +kernel, by decide +kernel, by decide +kernel, by decide +kernel, by decide +kernel⟩,
    ⟨rfl, by decide, by decide, rfl, rfl, by decide +kernel, by decide +kernel⟩,
    ⟨rfl, rfl, ⟨_, running_current busy _ program (desc .signal) [] run0 rfl rfl rfl rfl, rfl⟩, by decide +kernel⟩,
    ⟨rfl, rfl, rfl, rfl, rfl, by decide +kernel⟩, ⟨rfl, rfl, by decide +kernel⟩, rfl, rfl, by decide +kernel, by decide +kernel, by decide +kernel⟩

def vecOp (f : VecFunc) : VecP := ⟨f, false, false, true, 0, 0, 0, 128, 256, [cell, cell, cell, cell], [cell]⟩

theorem witness_UnitsOfVectorsAndRowsComplete :
    let a := vecOp .add
    let c := vecOp .scaleCommit
    let o := vecOp .lion
    let s := (hand (.vec o) run0).modSlice 0 fun k => { k with mem := [(128, 1)] }
    let g : GatherP := ⟨2, false, false, .fp32, 0, 64, 0, cell, cell⟩
    let r : RowP := ⟨.smFwd, .fp32, 1, 0, 0, 0, [cell], [cell]⟩
    let long : RowP := { r with n := 262144 }
    let last : Run := { run0 with unit := 2 * rowChunks long.n - 1 }
    ((hand (.vec a) run0).currentIs 0 (.vec a) = some (cur (.vec a) run0) ∧ run0.endAt = none ∧
      (VecFunc.isOpt a.func && a.skip && run0.unit == 0 && wordAt ((hand (.vec a) run0).slice 0).mem a.flagWord != 0) = false) ∧
    (∀ n ∈ unitElems c.elems c.unitSize 0, recordOk (readBytes ((hand (.vec c) run0).slice 0).mem ((c.inp 0).byteAt (c.index n)) 128) = true) ∧
    (s.currentIs 0 (.vec o) = some (cur (.vec o) run0) ∧ (VecFunc.isOpt o.func && o.skip && run0.unit == 0 && wordAt (s.slice 0).mem o.flagWord != 0) = true) ∧
    (hand (.gradGather g) run0).currentIs 0 (.gradGather g) = some (cur (.gradGather g) run0) ∧
    (hand (.row r) run0).currentIs 0 (.row r) = some (cur (.row r) run0) ∧ r.n ≤ 16384 ∧ run0.unit % (2 * rowChunks r.n) = 0 ∧
    (hand (.row long) run0).currentIs 0 (.row long) = some (cur (.row long) run0) ∧ 16384 < long.n ∧ run0.unit % (2 * rowChunks long.n) < rowChunks long.n ∧
    (hand (.row long) last).currentIs 0 (.row long) = some (cur (.row long) last) ∧ rowChunks long.n ≤ last.unit % (2 * rowChunks long.n) ∧
    ∀ (o : AkiOp) (u : Cur) (lines : List Nat), (hand o run0).dry 0 u lines :=
  ⟨⟨hand_is _ _ rfl, rfl, by decide +kernel⟩, by decide +kernel, ⟨hand_is (.vec (vecOp .lion)) run0 rfl, by decide +kernel⟩, hand_is _ _ rfl, hand_is _ _ rfl, by decide, rfl,
    hand_is _ _ rfl, by decide, by decide +kernel, hand_is _ _ rfl, by decide +kernel,
    fun _ _ _ => hand_dry _ _ _ _ _⟩


theorem mid_of {α β γ : Type} {r : α × Option β × γ} (h : r.2.1.isNone = true) : ∃ u e, r = (u, none, e) := by
  obtain ⟨a, b, c⟩ := r
  cases b with
  | none => exact ⟨a, c, rfl⟩
  | some b => cases h

/-- Whether a bite's vectors can be read and it is promoted. -/
def promotes (s : State) (u : Cur) (p : OuterP) : Bool :=
  match s.biteReads 0 u p with
  | .ok (v, _, as, bs) =>
    (match ((p.bite as bs).decide none ((v.core 0).info ((v.core 0).owner (p.plateOf (u.run.unit / p.bites)) p.dword)).pred).d with
     | .promote _ _ _ => true
     | _ => false) && decide ((((v.core 0).queue u.q).run.map fun r => r.unit) = some u.run.unit)
  | .error _ => false

theorem promoted {s : State} {u : Cur} {p : OuterP} (h : promotes s u p = true) :
    ∃ v e as bs w cells top, s.biteReads 0 u p = .ok (v, e, as, bs) ∧ (((v.core 0).queue u.q).run.map fun r => r.unit) = some u.run.unit ∧
      ((p.bite as bs).decide none ((v.core 0).info ((v.core 0).owner (p.plateOf (u.run.unit / p.bites)) p.dword)).pred).d = .promote w cells top := by
  unfold promotes at h
  rcases hr : s.biteReads 0 u p with e | ⟨v, t, as, bs⟩
  · simp [hr] at h
  · simp only [hr, Bool.and_eq_true, decide_eq_true_eq] at h
    obtain ⟨h1, h2⟩ := h
    split at h1
    · rename_i w cells top hd
      exact ⟨v, t, as, bs, w, cells, top, rfl, h2, hd⟩
    · cases h1

theorem witness_PlatesAreLoadedPulledAndAccumulated :
    let p : PreloadP := ⟨3, true, { words with levels := 2, counts := [256, 256] }⟩
    let l := hand (.preload p) run0
    let s := hand (.pull pull0) run0
    let o := hand (.outer outer0) run0
    let r : Run := { run0 with first := false, unit := 1, preds := [none] }
    let v := (hand (.stylus stylus0) r).modCore 0 fun k => { k with ports := { k.ports with vecReg := [stylus0.vec [] 0 0] } }
    (l.currentRun 0 (.preload p) = some (cur (.preload p) run0) ∧ swf 0 (l.core 0).plates = true ∧ ((l.core 0).info ((l.core 0).owner p.plate p.dword)).st = .free ∧
      p.src.count 0 ≤ 256 ∧ p.src.count 1 ≤ 256) ∧
    (s.currentRun 0 (.pull pull0) = some (cur (.pull pull0) run0) ∧
      (((s.core 0).settle (run0.leaveAt.getD run0.issued)).info
        (((s.core 0).settle (run0.leaveAt.getD run0.issued)).owner (PullP.plateAt pull0 run0.unit) pull0.dword)).st ≠ .shifting ∧
      (∃ v e, s.pullLoop 0 (cur (.pull pull0) run0) pull0 (PullP.walks pull0 - 0) 0 (run0.leaveAt.getD run0.issued) = (v, none, e)) ∧
      ∃ v, s.pullPlate 0 (cur (.pull pull0) run0) 0 pull0 7 false [] 0 0 0 = .ok v) ∧
    (o.currentIs 0 (.outer outer0) = some (cur (.outer outer0) run0) ∧ run0.unit < outer0.bites * outer0.tiles ∧ (run0.unit + 1) % outer0.bites ≠ 0 ∧
      ∃ v e as bs w cells top, o.biteReads 0 (cur (.outer outer0) run0) outer0 = .ok (v, e, as, bs) ∧
        (((v.core 0).queue 0).run.map fun r => r.unit) = some 0 ∧
        ((outer0.bite as bs).decide none ((v.core 0).info ((v.core 0).owner (outer0.plateOf 0) false)).pred).d = .promote w cells top) ∧
    (v.currentIs 0 (.stylus stylus0) = some (cur (.stylus stylus0) r) ∧ r.first = false ∧ r.leaveAt = none ∧ r.fetch = false ∧ stylus0.reloads r.unit = false ∧ r.unit % 256 ≠ 255 ∧
      r.unit + 1 ≠ stylus0.rows ∧
      ((((v.core 0).ports.vecReg.zip (List.range stylus0.vectors)).map fun e =>
        stylusDot stylus0.w.fmt stylus0.v.fmt (ceilDiv stylus0.k 32) (stylus0.mat (v.slice 0).mem r.unit) e.1 0 (r.preds.getD e.2 none) 0).any Option.isNone) = false) :=
  ⟨⟨hand_run _ _ rfl, rfl, by decide +kernel, by decide, by decide⟩,
   ⟨hand_run _ _ rfl, by decide +kernel, mid_of (by decide +kernel), ok_of (by decide +kernel)⟩,
   ⟨hand_is _ _ rfl, by decide +kernel, by decide +kernel, promoted (u := cur (.outer outer0) run0) (by decide +kernel)⟩,
   hand_is (.stylus stylus0) { run0 with first := false, unit := 1, preds := [none] } rfl, rfl, rfl, rfl, by decide +kernel, by decide, by decide +kernel, by decide +kernel⟩


/-- A context that runs, with a stack, a page, a reservoir of one filled slot, and a ring of one replica on die 0. -/
def shuffleCfg : ShuffleConfigP := ⟨1, 1, 1, 64, 0, 5, 0 :: List.replicate 63 0xFF⟩
def gradCfg : GradConfigP := ⟨1, 0, 1, 8, 1, 0, [0, 1, 2, 3]⟩
def replica : Replica := ⟨0, [], 0, 0, 0, [], 0, false⟩
def rich : Ctx :=
  { busy with
    stackSize := 2 ^ 23, stackMask := 0xFFFF, lanes := [(0, ⟨64, 1, 1, []⟩)], pages := [page], shuffle := some ⟨shuffleCfg, 1, [], [(0, .filled)], [0], [], [], []⟩
    grad := { Grad.empty with cfg := some gradCfg, ring := some ⟨1, 1, [0]⟩, replicas := [replica] } }
def hold (o : AkiOp) (r : Run) : State := running rich (holding o (some r)) (some 0)
def curR (o : AkiOp) (r : Run) : Cur := ⟨1, rich, program, 0, desc o, r⟩

theorem hold_is (o : AkiOp) (r : Run) (h : r.outcome = none) : (hold o r).currentIs 0 o = some (curR o r) :=
  (running_is rich (holding o (some r)) program (desc o) [] r rfl rfl rfl h rfl rfl).1

theorem witness_TransferOperationsOpen :
    let m : MoveP := ⟨false, false, true, 15, 64, 0, 0, none, some words, some there⟩
    let k : Nat → McastP := fun n => ⟨64, 0, none, n, 0, 0, there⟩
    let a : AtomicP := ⟨true, 64, 0, none, 3, 2, 1, words⟩
    let p : PushP := ⟨1, 64, words⟩
    let o : PopP := ⟨1, 64, false, some there⟩
    let d : ClipP := ⟨1, there⟩
    let b : BucketP := ⟨0, 65536, 0, .bf16⟩
    let r : Reservoir := ⟨shuffleCfg, 1, [], [(0, .filled)], [0], [], [], []⟩
    let e : Reservoir := ⟨shuffleCfg, 1, [], [], [0], [], [], []⟩
    let w : Reservoir := ⟨shuffleCfg, 1, [], [(0, .filled)], [0], [], [(0, 0)], []⟩
    let waiter : Ctx := { rich with shuffle := some w }
    let t := running waiter (holding (.clipDraw d) (some run0)) (some 0)
    let me : Exec := { program with mirrorSize := 8388608 }
    let deep : Ctx := { rich with exec := some me, lanes := [(0, ⟨4096, 1, 1, [⟨0, 64, 1, 0, 0⟩]⟩)] }
    let z := running deep (holding (.stashPop o) (some run0)) (some 0)
    let zu : Cur := ⟨1, deep, me, 0, desc (.stashPop o), run0⟩
    let full : Replica := { replica with queue := List.replicate 64 ⟨1, 0, 0, 0, 0, none, [], 0⟩, nextEnter := 1 }
    ((hold (.move m) run0).currentIs 0 (.move m) = some (curR (.move m) run0) ∧ run0.endAt = none ∧ run0.xfer = none ∧ (hold (.move m) run0).fenced (.c 15) = false) ∧
    (z.currentIs 0 (.stashPop o) = some zu ∧ z.unmirror 0 zu = (z, zu) ∧ (zu.x.lane 0).mirrored (zu.exec.mirrorAt 0) = some ⟨0, 64, 1, 0, 0⟩) ∧
    (full.takes 0 gradCfg.bucketCount = false ∧ replica.takes 0 gradCfg.bucketCount = true) ∧
    ((hold (.mcast (k 0xFFFF)) run0).currentIs 0 (.mcast (k 0xFFFF)) = some (curR (.mcast (k 0xFFFF)) run0) ∧
      (allDies.filter fun d => bit 0xFFFF d.val && !(hold (.mcast (k 0xFFFF)) run0).fenced (.c d) && !decide (d ∈ run0.acks)) ≠ [] ∧
      (hold (.mcast (k 0)) run0).currentIs 0 (.mcast (k 0)) = some (curR (.mcast (k 0)) run0)) ∧
    (hold (.stashPush p) run0).unmirror 0 (curR (.stashPush p) run0) = (hold (.stashPush p) run0, curR (.stashPush p) run0) ∧ (rich.lane 0).mirrored (program.mirrorAt 0) = none ∧
    (hold (.atomicAdd a) run0).currentIs 0 (.atomicAdd a) = some (curR (.atomicAdd a) run0) ∧
    ((hold (.stashPush p) run0).currentIs 0 (.stashPush p) = some (curR (.stashPush p) run0) ∧
      (rich.lane 0).pay + padded p.size + 64 * ((rich.lane 0).tags + 1) ≤ rich.laneSize 0) ∧
    ((hold (.stashPop o) run0).currentIs 0 (.stashPop o) = some (curR (.stashPop o) run0) ∧ (rich.lane 0).tags ≠ 0) ∧
    ((hold (.clipDraw d) run0).currentIs 0 (.clipDraw d) = some (curR (.clipDraw d) run0) ∧ rich.shuffle = some r ∧ r.lane? 0 = some 0) ∧
    ((hold (.bucketSend b) run0).currentIs 0 (.bucketSend b) = some (curR (.bucketSend b) run0) ∧ rich.grad.cfg = some gradCfg ∧
      (List.range rich.grad.replicas.length).find? (fun i => (rich.grad.replicas.map fun r => r.die)[i]? == some (0 : CoreId).die) = some 0 ∧
      rich.grad.replica? (rich.grad.base + 0) = some replica ∧
      (∃ ps, (hold (.bucketSend b) run0).pinBucket (curR (.bucketSend b) run0) 0 b = .ok ps)) ∧
    (∃ v, r.seek 0 seekFuel = (v, some 0) ∧ v.holds 0 = true ∧ assoc? 0 v.want = none) ∧ (∃ v, e.seek 0 seekFuel = (v, some 0) ∧ v.holds 0 = false) ∧
    t.currentIs 0 (.clipDraw d) = some ⟨1, waiter, program, 0, desc (.clipDraw d), run0⟩ ∧ w.lane? 0 = some 0 ∧ assoc? 0 w.want = some 0 ∧ w.holds 0 = true := by
  refine ⟨⟨hold_is _ _ rfl, rfl, rfl, rfl⟩,
    ⟨(running_is _ (holding _ (some run0)) _ (desc _) [] run0 rfl rfl rfl rfl rfl rfl).1, rfl, by decide +kernel⟩, ⟨by decide +kernel, by decide +kernel⟩,
    ⟨hold_is _ _ rfl, by decide +kernel, hold_is _ _ rfl⟩, rfl, rfl, hold_is _ _ rfl, ⟨hold_is _ _ rfl, by decide +kernel⟩,
    ⟨hold_is _ _ rfl, by decide⟩, ⟨hold_is _ _ rfl, rfl, rfl⟩, ⟨hold_is _ _ rfl, rfl, by decide +kernel, by decide +kernel, ok_of (by decide +kernel)⟩,
    ⟨⟨shuffleCfg, 1, [], [(0, .filled)], [0], [], [], []⟩, by decide +kernel, by decide +kernel, rfl⟩,
    ⟨⟨shuffleCfg, 1, [], [], [0], [], [], []⟩, by decide +kernel, by decide +kernel⟩, ?_, rfl, rfl, by decide +kernel⟩
  exact (running_is _ (holding (.clipDraw ⟨1, there⟩) (some run0)) program _ [] run0 rfl rfl rfl rfl rfl rfl).1

theorem witness_MoveWithinADieCopies :
    let m : MoveP := ⟨false, false, false, 0, 64, 0, 0, none, some words, some there⟩
    (hand (.move m) run0).currentIs 0 (.move m) = some (cur (.move m) run0) ∧ run0.endAt = none ∧ run0.xfer = none ∧ run0.doneBytes = 0 ∧ run0.suspended = false ∧
    ((hand (.move m) run0).die (.c (0 : CoreId).die)).resetting = false ∧ 1 ≤ m.len ∧ m.len ≤ 4096 ∧
    (∀ x ∈ (hand (.move m) run0).fabric.xfers, x.id < (hand (.move m) run0).fabric.nextId) ∧ (∀ lines, (hand (.move m) run0).dry 0 (cur (.move m) run0) lines) :=
  ⟨hand_is _ _ rfl, rfl, rfl, rfl, rfl, rfl, by decide, by decide, by simp [hand, running, up, State.reset, Fabric.reset], fun _ => hand_dry _ _ _ _ _⟩

/-- A transfer of one tile between HBM or the far tier and die 0, and the running context with it on the fabric. -/
def tile (src dst : Place) (st : PieceSt) : Piece := ⟨0, 0, 4, src, dst, st, [1, 2], [], 0, 0⟩
def moving (k : XferKind) (ms : List DieId) (p : Piece) : Xfer :=
  ⟨0, 1, 0, 0, 0, 0, k, .fp32, none, 4, 4, 1, [p], ms, [], 0, [4096], 0, false, false, none, 0, (0, 0), [], []⟩
def onFabric (x : Xfer) (pkts : List Pkt) (vc4 : List Vc4) : State :=
  (hand (.mcast ⟨4, 0, none, 3, 5, 3, there⟩) run0).modFabric fun f => { f with xfers := [x], pkts := pkts, vc4 := vc4, nextId := 1, aligned := true }
def pad : Place := .scratch 0 [0, 1, 2, 3]
def hbm : Place := .hbm 0 0x40000000
def far : Place := .far 0x1000 false false none
def holder (wr : Bool) : Tag := ⟨stackOf 0x40000000, pcOf 0x40000000, some 0, false, 0, 0, wr, 0⟩
def tagged (x : Xfer) (wr : Bool) : State := (onFabric x [] []).modBed 0 fun b => { b with tags := [holder wr] }

theorem pair_of {α : Type} {r : α × Bool} (h : r.2 = true) : ∃ u, r = (u, true) := ⟨r.1, by cases r; simp_all⟩

theorem witness_TransferEventsAct :
    let rd := moving .move [] (tile hbm pad .waitRead)
    let wr := moving .move [] (tile pad hbm .waitWrite)
    let put := moving .move [] (tile pad hbm .writing)
    let get := moving .move [] (tile hbm pad .reading)
    let fr := moving .move [] (tile far pad .farRead)
    let pkt : Pkt := ⟨0, 1, 0, 0, none, 0, .flying 0, 0, 0, 1, [], [], [1, 2, 3, 4]⟩
    let pass : Pkt := { pkt with dst := 3 }
    let copies : Pkt := { pass with drops := [1] }
    let mc := moving .mcast [0, 1] (tile hbm pad .moving)
    let lastMc := { mc with delivered := [1] }
    let fill := { put with kind := .fill hdr ⟨1, 0, 0, 4⟩ }
    let at_ : Bool → PieceSt → Xfer := fun o st => moving (.atomic o 3 2 1) [] { tile pad hbm st with data := [0, 0, 128, 63] }
    let on := fun (x : Xfer) => onFabric x [] [.ack 0 1 0, .member 0 1 0, .ack 0 1 16]
    (oldestWaiter ((onFabric rd [] []).tagTurn 0) = some (rd, tile hbm pad .waitRead, 0x40000000) ∧
      (∃ v, (((onFabric rd [] []).waitedFor rd).noteTurn 0 rd 0x40000000).tryTag rd 0 0 0x40000000 false false = (v, true))) ∧
    (oldestWaiter ((onFabric wr [] []).tagTurn 0) = some (wr, tile pad hbm .waitWrite, 0x40000000) ∧
      ∃ v, (((onFabric wr [] []).waitedFor wr).noteTurn 0 wr 0x40000000).tryTag wr 0 0 0x40000000 true false = (v, true)) ∧
    (((tagged put true).bed 0).tags.find? (fun t => t.stack == stackOf 0x40000000 && t.pc == pcOf 0x40000000 && (tagged put true).atController t) = some (holder true) ∧
      (tagged put true).xfer? 0 = some put ∧ put.piece? 0 = some (tile pad hbm .writing) ∧
      let w := (tagged put true).stamp.modBed 0 fun k => k.free 0 0 true (tagged put true).stamp.timeNs
      ∃ v, w.spanWrite 0 0x40000000 [1, 2] (w.covers put) = some v) ∧
    ((tagged put true).stamp.hbm.groupBad 0 0x40000000 ≤ 1 ∧ (tagged get false).stamp.hbm.groupBad 0 0x40000000 ≤ 1) ∧
    (((tagged get false).bed 0).tags.find? (fun t => t.stack == stackOf 0x40000000 && t.pc == pcOf 0x40000000 && (tagged get false).atController t) = some (holder false) ∧
      (tagged get false).xfer? 0 = some get ∧
      ∃ bs v, ((tagged get false).stamp.modBed 0 fun k => k.free 0 0 false (tagged get false).stamp.timeNs).pieceRead get 0 0x40000000 4 = (some bs, v)) ∧
    ((onFabric fr [] []).clocked = true ∧ (onFabric fr [] []).xfer? 0 = some fr ∧ fr.piece? 0 = some (tile far pad .farRead) ∧
      ((onFabric fr [] []).ctxD 1).ideRequired = false ∧ ([1, 2] ++ ([3] : List Byte)).length < 4 ∧ 4 ≤ ([1, 2] ++ ([3, 4] : List Byte)).length ∧
      (((onFabric fr [] []).putCtx 1 { busy with sealing := some { seal0 with ideRequired := true } }).ctxD 1).ideRequired = true ∧
      (onFabric fr [] []).ideCovers 0x1000 = false) ∧
    fr.flushing = 4096 :: [] ∧
    ((onFabric rd [pkt] []).fabric.pkts.find? (fun p => p.id == 0) = some pkt ∧ linkTo 0 = pkt.dst ∧ linkTo 0 ∉ pkt.drops ∧
      (onFabric rd [pass] []).fabric.pkts.find? (fun p => p.id == 0) = some pass ∧ linkTo 0 ≠ pass.dst ∧ linkTo 0 ∉ pass.drops ∧
      (onFabric rd [copies] []).fabric.pkts.find? (fun p => p.id == 0) = some copies ∧ linkTo 0 ≠ copies.dst ∧ linkTo 0 ∈ copies.drops) ∧
    ((onFabric rd [] []).fabric.aligned = true ∧ ((onFabric rd [] []).fabric.links.get 9).down = false ∧ (63 : Fin 64).val % 8 = 7 ∧
      ((onFabric rd [] []).noteDepth 9).raster.find? (fun e => bit (nthD 0 e.2 9) 0) = none) ∧
    ((on mc).fabric.vc4[0]? = some (.ack 0 1 0) ∧ (on mc).xfer? 0 = some mc ∧ (∀ d ∈ mc.stations, d ∈ mc.got ++ [0]) ∧ mc.cmd? = none ∧
      (on mc).fabric.vc4[2]? = some (.ack 0 1 16) ∧ (∃ d ∈ mc.stations, d ∉ mc.got ++ [16]) ∧ fill.cmd? = some hdr ∧ (∀ d ∈ fill.stations, d ∈ fill.got ++ [16]) ∧
      (on mc).fabric.vc4[1]? = some (.member 0 1 0) ∧ 0 ∈ mc.members ∧ (on mc).fenced (.c 0) = false ∧
      (∃ u, (on mc).opOf mc = some u ∧ u.desc.op = .mcast ⟨4, 0, none, 3, 5, 3, there⟩) ∧ (∃ e ∈ mc.members, e ∉ mc.delivered ++ [0]) ∧
      (on lastMc).xfer? 0 = some lastMc ∧ (∃ u, (on lastMc).opOf lastMc = some u ∧ u.desc.op = .mcast ⟨4, 0, none, 3, 5, 3, there⟩) ∧
      ∀ e ∈ lastMc.members, e ∈ lastMc.delivered ++ [0]) ∧
    (∃ v, (onFabric (at_ false .writing) [] []).stamp.adderApply 0 0x40000000 .fp32 [0, 0, 128, 63] = some v) ∧
    (at_ true .writing).kind = .atomic true 3 2 1 ∧ ((at_ true .refused).piece? 0).map (fun p => p.st) = some .refused := by
  refine ⟨⟨by decide +kernel, pair_of (by decide +kernel)⟩, ⟨by decide +kernel, pair_of (by decide +kernel)⟩,
    ⟨by decide +kernel, rfl, rfl, some_of (by decide +kernel)⟩, ⟨by decide +kernel, by decide +kernel⟩, ⟨by decide +kernel, rfl, ?_⟩,
    ⟨rfl, rfl, rfl, rfl, by decide, by decide, rfl, by decide +kernel⟩, rfl, by decide +kernel, by decide +kernel,
    ⟨rfl, rfl, by decide +kernel, rfl, rfl, ⟨0, by decide +kernel, by decide⟩, rfl, by decide +kernel, rfl, by decide, rfl, ?_, ⟨1, by decide, by decide⟩, rfl, ?_,
      by decide⟩, some_of (by decide +kernel), rfl, rfl⟩
  · have r : ((((tagged (moving .move [] (tile hbm pad .reading)) false).stamp.modBed 0 fun k =>
      k.free 0 0 false (tagged (moving .move [] (tile hbm pad .reading)) false).stamp.timeNs).pieceRead (moving .move [] (tile hbm pad .reading)) 0 0x40000000
        4).1).isSome = true := by decide +kernel
    obtain ⟨bs, e⟩ := some_of r
    exact ⟨bs, _, Prod.ext e rfl⟩
  · exact ⟨⟨1, busy, program, 0, desc (.mcast ⟨4, 0, none, 3, 5, 3, there⟩), run0⟩, rfl, rfl⟩
  · exact ⟨⟨1, busy, program, 0, desc (.mcast ⟨4, 0, none, 3, 5, 3, there⟩), run0⟩, rfl, rfl⟩

/-- The raster case: flow 7 owns slot 0 of link 9. -/
theorem witness_RasterSlotOfAFlow :
    let e : Exec := { program with raster := some [(7, [0, 0, 0, 0, 0, 0, 0, 0, 0, 1])], rasterOn := true }
    let s := (running { busy with exec := some e } Queue.empty none).modFabric fun f => { f with aligned := true }
    (0 : Fin 64).val % 8 ≠ 7 ∧ (s.noteDepth 9).raster.find? (fun e => bit (nthD 0 e.2 9) 0) = some (7, [0, 0, 0, 0, 0, 0, 0, 0, 0, 1]) := by decide +kernel

/-- R429: the second failed pseudo-channel of a group fails the stack; here it lies on the bed of the device region (R439). -/
theorem test_second_channel_fails_the_stack :
    let get := moving .move [] (tile hbm pad .reading)
    let s := (tagged get false).modHbm fun h => { h with deadPcs := [(stackOf 0x40000000, pcOf 0x40001000)] }
    (match exec (.tagRelease 0 (stackOf 0x40000000) (pcOf 0x40000000) .dead) s with
      | .next t => decide (t.hbm.failedStacks = [(stackOf 0x40000000).val]) && t.log.classF
      | _ => false) = true := by decide +kernel

/-- R428 and R431: a sequencer whose copies disagree ends its operation with INTERNAL_ERROR and stops its program. -/
theorem test_control_check :
    (match exec (.operationEnd 0 (some .control)) (hand (.move ⟨false, false, false, 0, 64, 0, 0, none, some words, some there⟩) run0) with
      | .next t => decide ((t.core 0).cur = none) && (t.ctxD 1).faulted && decide ((t.die (.c 0)).testFor = some 1)
      | _ => false) = true := by decide +kernel


/-! ### Data flow -/

def fmt0 : TileFormatP := ⟨1, 3, 0x02, 1, 1, false, false, 0, 0, false, 0, 16, 16, 16, 16, 1, 16, 16, [0, 0, 0], [0, 0, 0]⟩
def shuffle8 : ShuffleConfigP := ⟨1, 1, 1, 8192, 0, 5, 0 :: List.replicate 63 0xFF⟩
def open0 : IngestOpenP := ⟨1, 0, 2, 1, 15, 1, false, 1, 0, false, 16, 16, false, false, 0, false, false, 3, 0, 0, false, false, 0, List.replicate 16 0, 0, 100,
  64, 16, 0, 32, 0x100⟩
def flowing : Ctx := { Ctx.fresh with formats := [(3, fmt0)], shuffle := some (Reservoir.fresh shuffle8) }
def streaming (c : HostCmd) : State := (up flowing c).modMedia fun m => { m with streams := [⟨1, open0, none⟩] }

theorem witness_FlowConfigurationCompletes :
    let rm : RingMapP := ⟨1, 16, List.range 16⟩
    let gc : GradConfigP := ⟨1, 6, 2, 0xFFFF, 255, 2 ^ 26 - 128, [0, 0, 0, 0]⟩
    let cc : Nat → Nat → Nat → CascadeConfigP := fun i m d => ⟨1, i, m, d, [0, 0, 0, 0, 0, 0, 0, 0], 0, List.replicate 8 0⟩
    let ringed : Ctx := { Ctx.fresh with
      grad := { Grad.empty with ring := some ⟨1, 1, [0]⟩ }
      pages := (List.range 8).map fun i => ⟨i * 2 ^ 21, true, false, true, false, false, 2 ^ 30 + i * 2 ^ 21⟩ }
    let sk : ShuffleSeekP := ⟨1, true, 0, 1⟩
    let sp : ShuffleSeekP := ⟨1, false, 7, 0⟩
    let fd : IngestFeedP := ⟨1, 0, false, 2 ^ 30, 0, 0, 2 ^ 24, 4096, 64, 64, 128⟩
    let cl : IngestCloseP := ⟨1, 0⟩
    ((up paged (.ringMap rm)).starts hdr (.ringMap rm) ∧ (up paged (.ringMap rm)).namesIdle 1 paged ∧ 1 ≤ rm.replicas ∧ rm.replicas ≤ 16 ∧
      ((rm.dies.take rm.replicas).map fun d => (⟨d % 16, by omega⟩ : DieId)).Nodup ∧ ∀ d : DieId, (up paged (.ringMap rm)).fenced (.c d) = false) ∧
    ((up paged (.gradConfig gc)).starts hdr (.gradConfig gc) ∧ (up paged (.gradConfig gc)).namesIdle 1 paged ∧ gc.bucketCount ≠ 0 ∧ gc.recBase % 128 = 0) ∧
    ((up ringed (.cascadeConfig (cc 0 0 1))).starts hdr (.cascadeConfig (cc 0 0 1)) ∧ CascadeConfigP.inRange (cc 0 0 1) = true ∧
      (up ringed (.cascadeConfig (cc 0 0 1))).namesIdle 1 ringed ∧
      (((cc 0 0 1).counts.take 1).map fun k => k + 1).sum ≤ 128 ∧ nthD 0 (((cc 0 0 1).counts.take 1).map fun k => k + 1) 0 = (ringed.grad.ring.map fun r => r.replicas).getD 0 ∧
      (up ringed (.cascadeConfig (cc 7 0 8))).starts hdr (.cascadeConfig (cc 7 0 8)) ∧ (up ringed (.cascadeConfig (cc 7 0 8))).inboxOk 1 0 = true ∧ CascadeConfigP.inRange (cc 7 0 8) = true ∧
      (up ringed (.cascadeConfig (cc 7 7 8))).starts hdr (.cascadeConfig (cc 7 7 8)) ∧ (up ringed (.cascadeConfig (cc 7 7 8))).namesIdle 1 ringed ∧
      ringed.sealing = none ∧ CascadeConfigP.inRange (cc 7 7 8) = true ∧ (((cc 7 7 8).counts.take 8).map fun k => k + 1).sum ≤ 128 ∧
      nthD 0 (((cc 7 7 8).counts.take 8).map fun k => k + 1) 7 = (ringed.grad.ring.map fun r => r.replicas).getD 0) ∧
    ((up flowing (.tileFormat fmt0)).starts hdr (.tileFormat fmt0) ∧ (up flowing (.tileFormat fmt0)).names 1 flowing ∧ fmt0.inRange = true ∧
      flowing.shuffle = some (Reservoir.fresh shuffle8) ∧ fmt0.tiles * 4096 ≤ (Reservoir.fresh shuffle8).cfg.slotBytes ∧
      (up flowing (.tileFormat fmt0)).media.streams = []) ∧
    ((up flowing (.shuffleConfig shuffle8)).starts hdr (.shuffleConfig shuffle8) ∧ (up flowing (.shuffleConfig shuffle8)).namesIdle 1 flowing ∧
      shuffle8.base + shuffle8.size * 2 ^ 30 ≤ 2 ^ 48 ∧ (up flowing (.shuffleConfig shuffle8)).hasStream 1 = false ∧ shuffleInRange shuffle8 = true ∧
      (∀ f ∈ flowing.formats, f.2.tiles * 4096 ≤ shuffle8.slotBytes)) ∧
    ((up flowing (.shuffleSeek sk)).starts hdr (.shuffleSeek sk) ∧ sk.a < sk.b ∧ (addVoid sk.a sk.b (Reservoir.fresh shuffle8).voids).length ≤ 8192 ∧
      (up flowing (.shuffleSeek sp)).starts hdr (.shuffleSeek sp) ∧ (up flowing (.shuffleSeek sp)).running ≠ some 1) ∧
    ((up flowing (.ingestOpen open0)).starts hdr (.ingestOpen open0) ∧ (up flowing (.ingestOpen open0)).stream? 1 0 = none ∧
      (up flowing (.ingestOpen open0)).media.streams.length < 1024 ∧ ingestInRange open0 = true ∧ open0.jobs * workNeed open0 ≤ open0.workSize * 2097152 ∧
      open0.workBase + open0.workSize * 2097152 ≤ 2 ^ 48 ∧ (up flowing (.ingestOpen open0)).openDies open0.mediaMask ≠ [] ∧
      (assoc? open0.tileFormat flowing.formats).isSome = true) ∧
    ((streaming (.ingestFeed fd)).starts hdr (.ingestFeed fd) ∧ (streaming (.ingestFeed fd)).names 1 flowing ∧
      (streaming (.ingestFeed fd)).stream? 1 0 = some ⟨1, open0, none⟩ ∧ fd.auxBase % 64 = 0 ∧ fd.auxSize % 64 = 0 ∧ fd.source + fd.length ≤ 2 ^ 48 ∧
      fd.auxBase + fd.auxSize ≤ 2 ^ 48 ∧ fd.report + 64 * open0.programs ≤ 2 ^ 48 ∧ fd.arrive = false ∧
      (streaming (.ingestFeed fd)).media.queued + open0.programs ≤ 4096) ∧
    (streaming (.ingestClose cl)).starts hdr (.ingestClose cl) ∧ (streaming (.ingestClose cl)).stream? 1 0 = some ⟨1, open0, none⟩ :=
  ⟨⟨up_starts _ _, up_idle _ _, by decide, by decide, by decide, by decide +kernel⟩, ⟨up_starts _ _, up_idle _ _, by decide, by decide⟩,
   ⟨up_starts _ _, by decide, up_idle _ _, by decide, by decide, up_starts _ _, by decide +kernel, by decide, up_starts _ _, up_idle _ _, rfl, by decide, by decide, by decide⟩,
   ⟨up_starts _ _, rfl, by decide, rfl, by decide +kernel, rfl⟩, ⟨up_starts _ _, up_idle _ _, by decide, by decide +kernel, by decide +kernel, by decide +kernel⟩,
   ⟨up_starts _ _, by decide, by decide +kernel, up_starts _ _, by simp [up, State.reset]⟩,
   ⟨up_starts _ _, rfl, by decide, by decide +kernel, by decide +kernel, by decide, by decide +kernel, rfl⟩,
   ⟨up_starts flowing _, rfl, rfl, by decide, by decide, by decide, by decide, by decide, rfl, by decide +kernel⟩, up_starts flowing _, rfl⟩

/-- Context 1 with one replica, whose bucket 0 has entered, and gradient messages on their way. -/
def sent0 : SentBucket := ⟨0, 0, 0, 5, 0, none, List.replicate 16 0x40000000, 0⟩
def active0 (j : List (Nat × Word32 × Nat × Bool)) : ActiveBucket := ⟨sent0, 0, [], 0, false, j⟩
def gctx (rs : List Replica) (cs : List Chain) (ms : List ShardMsg) (k : Option Cascade) : Ctx :=
  { busy with grad := { Grad.empty with cfg := some { gradCfg with bucketCount := 2 }, ring := some ⟨1, 1, [0]⟩, replicas := rs, chains := cs, shardMsgs := ms, casc := k,
                                        pinReleased := [true, false, false, false], pinSampled := [true, false, false, false] } }
def exchanging (x : Ctx) : State := (running x Queue.empty none).modCore 0 fun k => { k with trailing := [⟨5, 0, desc .signal, none, none⟩] }
def cascade0 (m : Nat) : Cascade := ⟨⟨1, 0, m, 2, [0, 0], 0, [0, 0]⟩, [1, 1], true, false, 0, 0, [], []⟩
def entered (j : List (Nat × Word32 × Nat × Bool)) : Replica := { replica with active := [active0 j], nextEnter := 1 }

theorem witness_GradientEventsAct :
    let waiting : Replica := { replica with queue := [sent0] }
    let last : Chain := ⟨0, 0, 255, 0, true, 0, [], none⟩
    let mid : Chain := { last with last := false }
    let away : Chain := { last with to_ := 1 }
    let msg : ShardMsg := ⟨0, 0, 0, 0, 0, 0, false⟩
    let g : GradConfigP := { gradCfg with bucketCount := 2 }
    let x := gctx [entered []] [last, mid] [msg] none
    let y := gctx [entered [(0, 0, 0, false)]] [] [] none
    let z := gctx [entered []] [away] [] (some (cascade0 1))
    let s := exchanging x
    (s.ticking = true ∧ s.running = some 1 ∧ s.ctx? 1 = some x ∧ x.grad.cfg = some g ∧ program.stopSt = none) ∧
    ((gctx [waiting] [] [] none).grad.replica? 0 = some waiting ∧ waiting.queue.find? (fun b => b.id == waiting.nextEnter) = some sent0) ∧
    (x.grad.chains[0]? = some last ∧ x.grad.replica? 0 = some (entered []) ∧ (entered []).bucket? 0 0 = some (active0 []) ∧ x.grad.chains[1]? = some mid ∧
      ∃ ws, (s.modGrad 1 fun q => { q with chains := q.chains.eraseIdx 1 }).unitWords g sent0 255 = some ws) ∧
    (z.grad.chains[0]? = some away ∧ z.grad.replica? 1 = none ∧ z.grad.mayCross away = true) ∧
    (x.grad.shardMsgs[0]? = some msg ∧ ∀ e ∈ (active0 []).shards, e.1 ≠ 0) ∧
    (y.grad.replica? 0 = some (entered [(0, 0, 0, false)]) ∧ (entered [(0, 0, 0, false)]).bucket? 0 0 = some (active0 [(0, 0, 0, false)]) ∧ sent0.id + 1 ≠ g.bucketCount ∧
      (∀ j, j < y.grad.total → ∃ e ∈ (active0 [(0, 0, 0, false)]).shards, e.1 = j) ∧ (∃ t ∈ ((exchanging y).core 0).trailing, t.op = sent0.op)) ∧
    (((exchanging z).ctxD 1).grad.casc = some (cascade0 1) ∧ (cascade0 1).broken = false ∧ (exchanging z).inboxOpen = true ∧ assoc? 1 (cascade0 1).hbSeen ≠ some 4) ∧
    ((exchanging z).runCtx = some (1, z) ∧ z.grad.casc.isSome = true ∧ nthD false z.grad.pinReleased 0 = true) ∧
    (mid.to_ = 0 ∧ (2 : Fin 5) ≠ (s.ctxD 1).grad.stopOf mid.to_ ∧ (0 : Fin 5) = (s.ctxD 1).grad.stopOf mid.to_) ∧
    (exchanging z).cascades = [(1, cascade0 1)] ∧ 1 ∈ (cascade0 1).watchers ∧ (cascade0 1).cfg.index ≠ (cascade0 1).cfg.master := by
  refine ⟨⟨rfl, rfl, rfl, rfl, rfl⟩, ⟨by decide +kernel, by decide +kernel⟩, ⟨rfl, by decide +kernel, by decide +kernel, rfl, some_of (by decide +kernel)⟩,
    ⟨rfl, by decide +kernel, by decide +kernel⟩, ⟨rfl, by simp [active0]⟩, ⟨by decide +kernel, by decide +kernel, by decide, ?_, ?_⟩,
    ⟨rfl, rfl, rfl, by decide⟩, ⟨rfl, rfl, rfl⟩, by decide +kernel, by decide +kernel, by decide +kernel, by decide⟩
  · intro j hj
    exact ⟨(0, 0, 0, false), by simp [active0], by simp [gctx, Grad.total] at hj; omega⟩
  · exact ⟨⟨5, 0, desc .signal, none, none⟩, by decide +kernel, rfl⟩

/-- A feed, two pictures of 16 × 16 samples, and a running job of media die 2 with clips. -/
def feed0 : FeedRec := ⟨1, hdr, 1, ⟨1, 0, false, 1000, 0, 0, 1, 10, 0, 0, 0⟩, 1, [], 0⟩
def coded0 : CodedPicture := ⟨16, 16, 8, 2, List.replicate 256 16, [], [], [], [], none, 3003, false, true, false, 0, 1, none, 0, 0, 188⟩
def picture0 : Picture := ⟨16, 16, 8, 2, List.replicate 256 16, [], [], none, 3003, 0, 256, false, 0, 0, false, 0, false, 1, none, 0, 0⟩
def job0 (st : JobSt) (die : Option BedId) (clips : List Clip) : Job :=
  { Job.fresh 2 1 1 0 0 with st := st, die := die, clips := clips, demux := die.map fun _ => ⟨1, [], [], [], [], [], [], []⟩ }
def ingesting (r : Reservoir) (j : Job) : State :=
  (up { paged with formats := [(3, fmt0)], shuffle := some r } .nop).modMedia fun m => { m with streams := [⟨1, open0, none⟩], feeds := [feed0], jobs := [j], nextId := 3 }

theorem witness_IngestEventsAct :
    let r : Reservoir := ⟨{ shuffle8 with base := 0 }, 1, [], [], [0], [], [], []⟩
    let gone : Reservoir := { r with gens := [(0, 1)] }
    let q := job0 .queued none []
    let j := job0 .running (some 2) []
    let more := { j with todo := [coded0] }
    let late := { j with ready := [picture0, picture0] }
    let ready := job0 .running (some 2) [⟨0, [], true, none⟩]
    let filling := job0 .running (some 2) [⟨0, [], true, some 0⟩]
    let s := ingesting r q
    let t := ingesting r j
    (s.ticking = true ∧ s.clk.halted = false ∧ s.host.updating = false ∧ s.job? 2 = some q ∧ s.media.jobs.find? s.canStart = some q ∧
      s.stream? 1 0 = some ⟨1, open0, none⟩ ∧ 0 ∈ s.startDies open0.mediaMask ∧
      (∀ e ∈ s.startDies open0.mediaMask, (s.freeEngines e).length ≤ (s.freeEngines 0).length) ∧
      ∀ e ∈ s.startDies open0.mediaMask, (s.freeEngines e).length = (s.freeEngines 0).length → 0 ≤ e) ∧
    (t.job? 2 = some j ∧ j.st = .running ∧ t.feed? j.feed = some feed0 ∧ t.stream? j.ctx j.stream = some ⟨1, open0, none⟩ ∧ j.die = some 2 ∧
      j.demux.isSome = true ∧ assoc? open0.tileFormat (t.ctxD 1).formats = some fmt0 ∧ (∀ c ∈ j.clips, c.ready = true → c.slot.isSome = true)) ∧
    ((j.advance open0 feed0 j.todo.length).ready = [] ∧ (late.advance open0 feed0 late.todo.length).ready = [picture0, picture0] ∧
      (more.advance open0 feed0 more.todo.length).ready.length = 1) ∧
    (ready.readyClip = some ⟨0, [], true, none⟩ ∧ ((ingesting r ready).ctxD 1).shuffle = some r ∧ r.gen 0 = 0 / r.slots ∧ r.slot 0 = .empty ∧ r.voided 0 = false ∧
      0 / gone.slots < gone.gen (0 % gone.slots)) ∧
    (filling.fillingClip = some ⟨0, [], true, some 0⟩ ∧
      ∃ v, (ingesting r filling).writeSlot 1 0 (chunksOf 4096 2 (zeros 64)) = .ok v) ∧
    (j.naturalEnd open0 feed0 = some (.done, 0) ∧ ({ j with decoded := 10 } : Job).naturalEnd open0 feed0 = some (.done, 1)) ∧
    (up paged .nop).clk.booted = true ∧ (up paged .nop).dbg.frozen = false := by
  refine ⟨⟨rfl, rfl, rfl, rfl, by decide +kernel, rfl, by decide +kernel, by decide +kernel, by decide +kernel⟩,
    ⟨rfl, rfl, rfl, rfl, rfl, rfl, rfl, by decide⟩, ⟨by decide +kernel, by decide +kernel, by decide +kernel⟩,
    ⟨rfl, rfl, by decide, by decide, by decide, by decide⟩,
    ⟨rfl, ok_of (by decide +kernel)⟩, by decide +kernel, rfl, rfl⟩

/-- A plan of one scratchpad entry of die 0 with its mirror on bed 2, in far memory, and a complete record. -/
def plan0 : List Byte := leBytes 64 (0x4E4C5049 + 2 ^ 32) ++ leBytes 64 (1 + 2 ^ 128 * 64 + 2 ^ 256 * 0x10000)
def imaged : Ctx :=
  { paged with pages := [page, ⟨0x10000, false, false, true, false, false, 2 ^ 39⟩, ⟨0x200000, true, true, true, false, false, 0⟩], partner := [(0, 8)] }

def image : ImpressionP := ⟨1, false, 0x200000, 0⟩
def imageEnv : Env := ⟨plan0 ++ leBytes 4096 (0x44525049 + 2 ^ 80), none, none⟩
def counted : Ctx := { imaged with impCount := imaged.impCount + 1 }
def took (y : Ctx) (e : Env) (m : Moving) (es : List PlanEntry) : Taking :=
  es.zipIdx.foldl (fun (t : Taking) d => t.entry 1 y e d.1 d.2) ⟨{ m with s := m.s.putCtx 1 y }, 0, 0, [], [], none⟩

/-- Whether the plan is good, its copies and its record can be written, and the record can be read back from the environment. -/
def imageGood (s : State) (x y : Ctx) (e : Env) (area : Nat) : Bool :=
  match (⟨s, e.bytes, 0, 0, false⟩ : Moving).plan 1 e area with
  | .ok ((es, plan), m) => (m.s.planStatus x false es).isNone && (took y e m es).halt.isNone &&
      ((took y e m es).m.put 1 (area + plan.length) (impRecord 1 y y.impCount false (took y e m es).lost)).2.isNone &&
      (match ({ m with done := 0 } : Moving).readAll 1 e (area + plan.length) 4096 4097 [] with
       | .ok (bs, _) => bit (fieldAt bs.reverse.flatten 10 1) 0 && !bit (fieldAt bs.reverse.flatten 10 1) 1
       | .error _ => false)
  | .error _ => false

theorem image_of {s : State} {x y : Ctx} {e : Env} {area : Nat} (h : imageGood s x y e area = true) :
    ∃ es plan m, (⟨s, e.bytes, 0, 0, false⟩ : Moving).plan 1 e area = .ok ((es, plan), m) ∧ m.s.planStatus x false es = none ∧ (took y e m es).halt = none ∧
      (∃ v, (took y e m es).m.put 1 (area + plan.length) (impRecord 1 y y.impCount false (took y e m es).lost) = (v, none)) ∧
      ∃ bs v, ({ m with done := 0 } : Moving).readAll 1 e (area + plan.length) 4096 4097 [] = .ok (bs, v) ∧
        bit (fieldAt bs.reverse.flatten 10 1) 0 = true ∧ bit (fieldAt bs.reverse.flatten 10 1) 1 = false := by
  unfold imageGood at h
  split at h
  · rename_i es plan m hp
    simp only [Bool.and_eq_true, Option.isNone_iff_eq_none] at h
    obtain ⟨⟨⟨h1, h2⟩, h3⟩, h4⟩ := h
    split at h4
    · rename_i bs v hr
      simp only [Bool.and_eq_true, Bool.not_eq_true'] at h4
      exact ⟨es, plan, m, hp, h1, h2, ⟨_, Prod.ext rfl h3⟩, bs, v, hr, h4.1, h4.2⟩
    · cases h4
  · cases h

theorem witness_ImpressionsComplete :
    let s := up imaged (.impressionTake image)
    s.starts hdr (.impressionTake image) ∧ s.names 1 imaged ∧ imaged.program = false ∧ image.far = false ∧ imaged.sealing.isSome = false ∧
    (∃ es plan m, (⟨s, imageEnv.bytes, 0, 0, false⟩ : Moving).plan 1 imageEnv image.area = .ok ((es, plan), m) ∧
      m.s.planStatus imaged false es = none ∧ (took counted imageEnv m es).halt = none ∧
      (∃ v, (took counted imageEnv m es).m.put 1 (image.area + plan.length)
        (impRecord 1 counted counted.impCount false (took counted imageEnv m es).lost) = (v, none)) ∧
      ∃ bs v, ({ m with done := 0 } : Moving).readAll 1 imageEnv (image.area + plan.length) 4096 4097 [] = .ok (bs, v) ∧
        bit (fieldAt bs.reverse.flatten 10 1) 0 = true ∧ bit (fieldAt bs.reverse.flatten 10 1) 1 = false) ∧
    585 ≤ imaged.saveSize ∧ (up imaged (.impressionRestore image)).starts hdr (.impressionRestore image) :=
  ⟨up_starts _ _, rfl, rfl, rfl, rfl, image_of (by decide +kernel), by decide, up_starts _ _⟩

theorem witness_WaitsCountModulo :
    let d : Desc := { desc .wait with waitEn := true }
    let k : Core := { Core.reset with queues := Core.reset.queues.set 0 { holding .wait none with wait := .counter } }
    0 < 2 ^ 32 ∧ 2 ^ 32 - 1 < 2 ^ 32 ∧ 2 ^ 31 - 1 < 2 ^ 31 ∧ 1 ≤ 2 ^ 31 ∧ d.waitEn = true ∧ (k.queue 0).ops = desc .wait :: [] ∧ (k.queue 0).run = none ∧
    (k.queue 0).wait = .counter := ⟨by decide, by decide, by decide, by decide, rfl, rfl, rfl, rfl⟩

theorem witness_ShardsPartitionTheUnits :
    GradConfigP.elem gradCfg = .fp32 ∧ GradConfigP.elem { gradCfg with fmt := 2 } = .bf16 ∧ 1 ≤ 128 ∧ 255 < 256 ∧ 256 ≤ 256 ∧ 128 ≤ 128 ∧ 127 < 128 := by decide +kernel

theorem witness_DrawsPermuteTheReservoir : 1 ≤ 1 ∧ 0 < 1 ∧ 1 ≤ 2 ^ 20 ∧ 2 ^ 20 - 1 < 2 ^ 20 := by decide


theorem witness_FetchedPacketWaitsOrFails : (1 : CtxId) ≠ 0 ∧ (4095 : CtxId) ≠ 0 := by decide

/-! ## Ill-formed terms: one for each check of WellFormed, which the check refuses -/

def refuses (ok : HostCmd) (bad : List HostCmd) : Bool := ok.wf && bad.all fun c => !c.wf

theorem test_wf_contexts :
    let q : QueryP := ⟨2, 4095, 63, 0, 64⟩
    let c := creation
    (refuses (.query q) [.query { q with item := 3 }, .query { q with ctx := 4096 }, .query { q with ring := 64 }, .query { q with buffer := 2 ^ 64 },
      .query { q with length := 2 ^ 32 }] &&
     refuses (.ctxCreate c) [.ctxCreate { c with ctx := 4096 }, .ctxCreate { c with func := 64 }, .ctxCreate { c with vfSlot := 64 }, .ctxCreate { c with pasid := 2 ^ 20 },
      .ctxCreate { c with srKey := 2 ^ 64 }, .ctxCreate { c with stackBase := 2 ^ 48 }, .ctxCreate { c with stackSize := 2 ^ 14 }, .ctxCreate { c with stackMask := 2 ^ 16 },
      .ctxCreate { c with saveOff := 2 ^ 14 }, .ctxCreate { c with saveSize := 2 ^ 14 }] &&
     refuses (.ctxRun 4095) [.ctxDestroy 4096, .ctxRun 4096, .ctxPreempt 4096 true, .ctxResume 4096, .sealClose 4096]) = true := by decide +kernel

theorem test_wf_memory :
    let r : RingConfigP := ⟨1, 63, true, true, 15, 15, true, true, 2047, true, 0, 0⟩
    let m : MapP := ⟨1, 0, true, false, true, true, false, false, 0, 1⟩
    let g : RangeP := ⟨1, 0, 0⟩
    let c : CopyP := ⟨1, true, true, 0, 0, 0⟩
    let f : FillP := ⟨1, 0, 0, 0⟩
    let a : AgeScanP := ⟨1, true, 255, 0, 0⟩
    let e : EvictP := ⟨1, 0, 0, 0⟩
    (refuses (.ringConfig r) [.ringConfig { r with ctx := 4096 }, .ringConfig { r with ring := 64 }, .ringConfig { r with sqLog := 16 }, .ringConfig { r with cqLog := 16 },
      .ringConfig { r with vector := 2048 }, .ringConfig { r with sqBase := 2 ^ 64 }, .ringConfig { r with cqBase := 2 ^ 64 }] &&
     refuses (.map m) [.map { m with ctx := 4096 }, .map { m with vaddr := 2 ^ 48 }, .map { m with target := 2 ^ 41 }, .map { m with far := true, target := 2 ^ 64 },
      .map { m with count := 2 ^ 21 }] &&
     refuses (.unmap g) [.unmap { g with ctx := 4096 }, .unmap { g with vaddr := 2 ^ 48 }, .unmap { g with length := 2 ^ 48 }] &&
     refuses (.copy c) [.copy { c with ctx := 4096 }, .copy { c with src := 2 ^ 64 }, .copy { c with dst := 2 ^ 64 }, .copy { c with length := 2 ^ 40 }] &&
     refuses (.fill f) [.fill { f with ctx := 4096 }, .fill { f with pattern := 2 ^ 32 }, .fill { f with dst := 2 ^ 48 }, .fill { f with length := 2 ^ 40 }] &&
     refuses (.ageScan a) [.ageScan { a with ctx := 4096 }, .ageScan { a with threshold := 256 }, .ageScan { a with buffer := 2 ^ 64 }, .ageScan { a with size := 2 ^ 32 }] &&
     refuses (.evict e) [.evict { e with ctx := 4096 }, .evict { e with vaddr := 2 ^ 48 }, .evict { e with length := 2 ^ 48 }, .evict { e with target := 2 ^ 64 }]) = true := by
  decide +kernel

theorem test_wf_programs :
    let r : RingMapP := ⟨1, 16, List.replicate 16 15⟩
    let g := gradCfg
    let c : CascadeConfigP := ⟨1, 7, 7, 8, List.replicate 8 15, 0, List.replicate 8 0⟩
    (refuses (.resumeFault ⟨1, 65535, true⟩) [.resumeFault ⟨4096, 1, true⟩, .resumeFault ⟨1, 65536, true⟩] &&
     refuses (.exec ⟨1, true, 0⟩) [.exec ⟨4096, true, 0⟩, .exec ⟨1, true, 2 ^ 48⟩] &&
     refuses (.stopAt ⟨1, 0, 0, true, 0⟩) [.stopAt ⟨4096, 0, 0, true, 0⟩, .stopAt ⟨1, 0, 0, true, 2 ^ 32⟩] &&
     refuses (.barrierConfig ⟨1, 0, 68, 0⟩) [.barrierConfig ⟨4096, 0, 68, 0⟩, .barrierConfig ⟨1, 0, 128, 0⟩, .barrierConfig ⟨1, 0, 68, 2 ^ 68⟩] &&
     refuses (.ringMap r) [.ringMap { r with ctx := 4096 }, .ringMap { r with replicas := 32 }, .ringMap { r with dies := [0] }, .ringMap { r with dies := List.replicate 16 16 }] &&
     refuses (.counterSet ⟨1, 0, 0, 0⟩) [.counterSet ⟨4096, 0, 0, 0⟩] &&
     refuses (.gradConfig g) [.gradConfig { g with ctx := 4096 }, .gradConfig { g with sizeCode := 7 }, .gradConfig { g with fmt := 0 }, .gradConfig { g with bucketCount := 65536 },
      .gradConfig { g with accum := 256 }, .gradConfig { g with recBase := 2 ^ 26 }, .gradConfig { g with flows := [0] }, .gradConfig { g with flows := List.replicate 4 65536 }] &&
     refuses (.cascadeConfig c) [.cascadeConfig { c with ctx := 4096 }, .cascadeConfig { c with index := 8 }, .cascadeConfig { c with master := 8 },
      .cascadeConfig { c with devices := 16 }, .cascadeConfig { c with inbox := 2 ^ 48 }, .cascadeConfig { c with counts := [0] },
      .cascadeConfig { c with counts := List.replicate 8 16 }, .cascadeConfig { c with peers := [0] }, .cascadeConfig { c with peers := List.replicate 8 (2 ^ 64) }]) = true := by
  decide +kernel

theorem test_wf_flow :
    let o := open0
    let f := feed0.p
    let t := fmt0
    let s := shuffle8
    (refuses (.ingestOpen o) [.ingestOpen { o with ctx := 4096 }, .ingestOpen { o with stream := 64 }, .ingestOpen { o with input := 4 }, .ingestOpen { o with esCodec := 8 },
      .ingestOpen { o with mediaMask := 16 }, .ingestOpen { o with jobs := 128 }, .ingestOpen { o with programs := 32 }, .ingestOpen { o with maxWidth := 65536 },
      .ingestOpen { o with maxHeight := 65536 }, .ingestOpen { o with tileFormat := 256 }, .ingestOpen { o with sel := [0] }, .ingestOpen { o with sel := List.replicate 16 65536 },
      .ingestOpen { o with workBase := 2 ^ 48 }, .ingestOpen { o with workSize := 2 ^ 32 }] &&
     refuses (.ingestFeed f) [.ingestFeed { f with ctx := 4096 }, .ingestFeed { f with stream := 64 }, .ingestFeed { f with length := 2 ^ 32 }, .ingestFeed { f with source := 2 ^ 48 },
      .ingestFeed { f with seqBase := 2 ^ 64 }, .ingestFeed { f with clipStride := 2 ^ 32 }, .ingestFeed { f with maxFrames := 8192 }, .ingestFeed { f with auxBase := 2 ^ 48 },
      .ingestFeed { f with auxSize := 2 ^ 32 }, .ingestFeed { f with report := 2 ^ 48 }] &&
     refuses (.ingestClose ⟨1, 0⟩) [.ingestClose ⟨4096, 0⟩, .ingestClose ⟨1, 64⟩] &&
     refuses (.tileFormat t) [.tileFormat { t with ctx := 4096 }, .tileFormat { t with handle := 256 }, .tileFormat { t with fmt := 256 }, .tileFormat { t with frames := 512 },
      .tileFormat { t with stride := 64 }, .tileFormat { t with matrix := 4 }, .tileFormat { t with range := 4 }, .tileFormat { t with hop := 8192 },
      .tileFormat { t with scaleW := 8192 }, .tileFormat { t with scaleH := 8192 }, .tileFormat { t with cropW := 8192 }, .tileFormat { t with cropH := 8192 },
      .tileFormat { t with mean := [0] }, .tileFormat { t with mean := [2 ^ 32, 0, 0] }, .tileFormat { t with invStd := [0] }, .tileFormat { t with invStd := [2 ^ 32, 0, 0] }] &&
     refuses (.shuffleConfig s) [.shuffleConfig { s with ctx := 4096 }, .shuffleConfig { s with size := 256 }, .shuffleConfig { s with lanes := 128 },
      .shuffleConfig { s with slotBytes := 2 ^ 32 }, .shuffleConfig { s with base := 2 ^ 48 }, .shuffleConfig { s with seed := 2 ^ 128 }, .shuffleConfig { s with lane := [0] },
      .shuffleConfig { s with lane := List.replicate 64 256 }] &&
     refuses (.shuffleSeek ⟨1, true, 0, 1⟩) [.shuffleSeek ⟨4096, true, 0, 1⟩, .shuffleSeek ⟨1, true, 2 ^ 64, 1⟩, .shuffleSeek ⟨1, true, 0, 2 ^ 64⟩, .shuffleSeek ⟨1, false, 0, 1⟩]) = true := by
  decide +kernel

theorem test_wf_system :
    (refuses (.impressionTake ⟨1, true, 0, 0⟩) [.impressionTake ⟨4096, true, 0, 0⟩, .impressionTake ⟨1, true, 2 ^ 48, 0⟩, .impressionRestore ⟨1, true, 0, 2 ^ 48⟩,
      .impressionRestore ⟨1, false, 0, 1⟩] &&
     refuses (.dieReset (.c 0)) [.dieReset (.b 0), .selfTest (.b 0)] &&
     refuses (.faultLogRead ⟨1, 0, 64⟩) [.faultLogRead ⟨65536, 0, 64⟩, .faultLogRead ⟨1, 2 ^ 64, 64⟩, .faultLogRead ⟨1, 0, 2 ^ 32⟩] &&
     refuses (.partnerSet ⟨1, 0, 1⟩) [.partnerSet ⟨4096, 0, 1⟩] &&
     refuses (.sealOpen ⟨1, 0, 512⟩) [.sealOpen ⟨4096, 0, 512⟩, .sealOpen ⟨1, 2 ^ 64, 512⟩, .sealOpen ⟨1, 0, 2 ^ 32⟩] &&
     refuses (.sealLoad ⟨1, 0, 0, 256⟩) [.sealLoad ⟨4096, 0, 0, 256⟩, .sealLoad ⟨1, 2 ^ 64, 0, 256⟩, .sealLoad ⟨1, 0, 2 ^ 48, 256⟩, .sealLoad ⟨1, 0, 0, 2 ^ 40⟩] &&
     refuses (.fwStage ⟨0, 1024⟩) [.fwStage ⟨2 ^ 64, 1024⟩, .fwStage ⟨0, 2 ^ 32⟩] &&
     refuses (.debugUnlock ⟨true, 0, 192⟩) [.debugUnlock ⟨true, 2 ^ 64, 192⟩, .debugUnlock ⟨true, 0, 2 ^ 32⟩] &&
     refuses (.powerPolicy ⟨2000, true⟩) [.powerPolicy ⟨4096, true⟩] &&
     refuses (.telemetryRead ⟨true, 0, 1024⟩) [.telemetryRead ⟨true, 2 ^ 64, 1024⟩, .telemetryRead ⟨true, 0, 2 ^ 32⟩]) = true := by decide +kernel

theorem test_wf_events :
    let w : DoorbellWrite := ⟨63, 4095, 63, 63, 4, 2 ^ 32 - 1⟩
    let t : Telemetry := ⟨0, List.replicate 17 0, List.replicate 17 0, List.replicate 24 0, 0, List.replicate 12 0⟩
    let good : List Instr := [.nop hdr, .doorbellSqTail w, .ifaceNegotiate 0 255, .registerWrite 1 65532 4 0, .bar4Read 0 0 4096, .bar4Write 0 0 [0], .readout .header 0 4096,
      .i3cTelemetryRead 0 1024, .configRequest 0 (.setBar4 40), .flr 63, .faultSelfTest (.m 0) .pass, .patrolScrub 0 524287 .clean, .powerMeasure t, .getCertificate 7 0 1,
      .challenge 7 0, .getMeasurements 255 true 0, .keyExchange 0 baseX baseY, .cascMapArrival 1 (List.replicate 8 15), .latch]
    let bad : List Instr := [.query hdr ⟨3, 0, 0, 0, 0⟩, .doorbellSqTail { w with func := 64 }, .doorbellCqHead { w with page := 4096 }, .doorbellEventHead { w with bell := 64 },
      .doorbellSqTail { w with off := 64 }, .doorbellSqTail { w with value := 2 ^ 32 }, .ifaceNegotiate 0 256, .registerWrite 1 65536 4 0, .registerWrite 0 0 4 (2 ^ 32),
      .bar4Read 0 (2 ^ 40) 1, .bar4Read 0 0 0, .bar4Read 0 0 4097, .bar4Write 0 (2 ^ 40) [0], .bar4Write 0 0 [], .bar4Write 0 0 (zeros 513), .readout .easel (2 ^ 26) 1,
      .readout .easel 0 0, .readout .header 4096 1, .i3cTelemetryRead 1 1024, .configRequest 0 (.read 4096), .configRequest 0 (.write 4096 0), .configRequest 0 (.write 0 (2 ^ 32)),
      .configRequest 1 (.setVfs true 1), .configRequest 1 (.setBar4 30), .configRequest 0 (.setBar4 29), .configRequest 0 (.setBar4 41), .flr 0, .faultSelfTest (.b 0) .pass,
      .patrolScrub 0 524288 .clean, .powerMeasure { t with feedMv := [] }, .powerMeasure { t with feedDa := [] }, .powerMeasure { t with dieTemp := [] },
      .powerMeasure { t with hbmTemp := [] }, .getCertificate 8 0 1, .challenge 8 0, .challenge 0 (2 ^ 256), .getMeasurements 256 true 0, .getMeasurements 0 true (2 ^ 256),
      .keyExchange 8 0 0, .keyExchange 0 (2 ^ 528) 0, .keyExchange 0 0 (2 ^ 528), .cascMapArrival 1 [0], .cascMapArrival 1 (List.replicate 8 16)]
    (good.all Instr.wf && bad.all fun c => !c.wf) = true := by decide +kernel

/-! ## The specification's own examples -/

/-- R43 and the example after it: 463.9 and 464.0 to F8E4; the ties of the example of R44, and R47's stochastic one. -/
theorem test_roundings :
    encodeTo .f8e4 .rne false (f32 0x43E7F333) = 0x7E ∧ encodeTo .f8e4 .rne false (f32 0x43E80000) = 0x7E ∧ encodeTo .f8e4 .rne true (f32 0x43E80000) = 0x7F ∧
    encodeTo .bf16 .rne true (f32 0x3F808000) = 0x3F80 ∧ encodeTo .bf16 .rne true (f32 0x3F818000) = 0x3F82 ∧ encodeTo .bf16 .rne true (f32 0x3F808001) = 0x3F81 ∧
    encodeTo .bf16 (.sr 45874) true (f32 0x3F804CCD) = 0x3F80 ∧ encodeTo .bf16 (.sr 45875) true (f32 0x3F804CCD) = 0x3F81 := by decide +kernel

/-- The example of R45: a block with A = 10.3. -/
theorem test_mxf4_block :
    mxBlock .mxf4 false [] [f32 0x4124CCCD, f32 0x40400000, f32 0xBF333333, f32 0x3E4CCCCD] = (0x80, [7, 3, 9, 0]) := by decide +kernel

/-- The example of R185: counter 0xFFFFFFF0 and target 5. -/
theorem test_wait_wraps : waitMet 0xFFFFFFF0 5 = false ∧ waitMet 4 5 = false ∧ waitMet 5 5 = true := by decide +kernel

/-- The example of R212: region offset 0x01234000 with 34 units. -/
theorem test_device_wide_place :
    (placeOf 34 (2 ^ 40 + 0x01234000)).1 = 2 ∧ (placeOf 34 (2 ^ 40 + 0x01234000)).2 / 4096 = 43648141 ∧
    stackPc (placeOf 34 (2 ^ 40 + 0x01234000)).2 = (0, 25) ∧ field (placeOf 34 (2 ^ 40 + 0x01234000)).2 18 18 = 157714 := by decide +kernel

/-- The example after R292: the work space of a job of 1,920 × 1,088, 10 bit, 4:2:2. -/
theorem test_work_need : workNeed { open0 with maxWidth := 1920, maxHeight := 1088, bit10 := true, c422 := true } = 146243584 := by decide +kernel

/-- The example after R306: the metadata word of a concealed top field. -/
theorem test_meta_word :
    metaWord { picture0 with concealedLuma := 240, codedLuma := 8160, structure_ := 2, deint := 3, coding := 1 } 3600000 false = 0x001B774001390788 := by decide +kernel

/-- The example after R320: 16 × 192 × 192 in MXF8E4 takes 447 tiles. -/
theorem test_clip_tiles : TileFormatP.tiles { fmt0 with fmt := 0x20, frames := 16, stride := 4, scaleW := 342, scaleH := 192, cropW := 192, cropH := 192, tp := 2 } = 447 := by
  decide +kernel

/-- The example after R368: the EXEC of context 17 that entry 12 holds. -/
theorem test_exec_packet :
    let s : State := { up Ctx.fresh .nop with ctxs := [(0, Ctx.fresh), (17, Ctx.fresh)] }
    let bytes : List Byte := [0x00, 0x02, 0x01, 0x01, 0x2A, 0, 0, 0] ++ zeros 8 ++ [0x11, 0] ++ zeros 6 ++ [0, 0, 0, 0, 0x40, 0, 0, 0] ++ zeros 32
    (s.takePacket 17 5 { ring with sqHead := 12, sqTail := 13 } 1 bytes).host.fetched.getLast? =
      some ⟨⟨17, 5, 0x2A, true, false⟩, .exec ⟨17, false, 0x4000000000⟩, false⟩ ∧
    ((s.takePacket 17 5 { ring with sqHead := 12, sqTail := 13 } 1 bytes).host.ring? 17 5).map (fun r => r.sqHead) = some 13 := by decide +kernel

/-- R344: the doorbell of that example stores tail 13. -/
theorem test_doorbell : (match exec (.doorbellSqTail ⟨0, 1, 0, 0, 4, 13⟩) ringed with
    | .next t => (t.host.ring? 1 0).map fun r => r.sqTail
    | _ => none) = some 13 := by decide +kernel

/-- FIPS 180-4's example for SHA-512: the digest of "abc", first byte lowest. -/
theorem test_sha512 : sha512 [0x61, 0x62, 0x63] = 0x9fa44ca54fc99a2a0ee83c6423444d45bdebfea3233cba36a8c14f272a9992219ad3554be6ee9e0aa27ea9894efae612314120ae497341ccba7a6193a135afdd := by decide +kernel

end Sys2Proof.Tests
end

section
/-! PROOFS. Writes of single registers of BAR 0 (R10, R343, R371, R373, R422, R457, R459, R467, R468, R489). -/

namespace Sys2Proof.Machine

open Sys2Proof

/-! ### Bits and fields -/

theorem field_lt (w lo n : Nat) : field w lo n < 2 ^ n := Nat.mod_lt _ (Nat.two_pow_pos n)

/-- The low `i` bits of a number leave bit `i` clear. -/
theorem bit_mod_two_pow (w i : Nat) : bit (w % 2 ^ i) i = false := by
  simp [bit, Nat.div_eq_of_lt (Nat.mod_lt w (Nat.two_pow_pos i))]

/-- A number below `2 ^ i` with `2 ^ i` added has bit `i` set. -/
theorem bit_add_two_pow {w i : Nat} (hw : w < 2 ^ i) : bit (w + 2 ^ i) i = true := by
  simp [bit, Nat.add_div_right w (Nat.two_pow_pos i), Nat.div_eq_of_lt hw]

/-! ### Lists by key -/

theorem assoc?_filter_key_ne {κ β : Type} [DecidableEq κ] (k : κ) (l : List (κ × β)) : assoc? k (l.filter fun p => p.1 ≠ k) = none := by
  induction l with
  | nil => rfl
  | cons e l ih => by_cases h : e.1 = k <;> simp_all [assoc?]

/-! ### Rings of the host interface -/

@[simp] theorem State.putRing_ring?_same (s : State) (c : CtxId) (r : Fin 64) (x : Ring) : (s.putRing c r x).host.ring? c r = some x :=
  assoc?_assocSet_same _ _ _

@[simp] theorem State.putRing_adminCfg (s : State) (c : CtxId) (r : Fin 64) (x : Ring) : (s.putRing c r x).host.adminCfg = s.host.adminCfg := rfl

@[simp] theorem State.putRing_fetched (s : State) (c : CtxId) (r : Fin 64) (x : Ring) : (s.putRing c r x).host.fetched = s.host.fetched := rfl

/-- A ring pair that ADMIN_CFG disables goes at once where no command fetched from it waits for its record (R349, R373). -/
theorem State.closeRing_admin {s : State} {c : CtxId} {r : Fin 64} {x : Ring} (hx : s.host.ring? c r = some x) (hc : x.closing = none)
    (ha : x.closingAdmin = true) (hf : ∀ f ∈ s.host.fetched, f.on c r = false) :
    s.closeRing c r = s.modHost fun h => { h with rings := h.rings.filter fun p => p.1 ≠ (c, r) } := by
  have hrest : (s.host.fetched.filter fun f => f.on c r) = [] := List.filter_eq_nil_iff.mpr fun f hm => by simp [hf f hm]
  simp [State.closeRing, hx, hc, ha, hrest]

/-! ### ADMIN_CFG (R373) -/

theorem SameBlock.writeAdmin {s : State} (v : Nat) : SameBlock s (s.writeAdmin v) := by
  unfold State.writeAdmin
  simp only []
  split
  · split
    · exact SameBlock.rfl
    · split
      · exact (SameBlock.modHost _).trans ((SameBlock.putRing _ _ _).trans (SameBlock.closeRing _ _))
      · exact SameBlock.modHost _
  · split
    · exact (SameBlock.modHost _).trans (SameBlock.putRing _ _ _)
    · exact SameBlock.modHost _

/-- ENABLE rises: ring pair 0.0 is configured at its base registers, empty, and ENABLE reads 1. -/
theorem State.writeAdmin_enable {s : State} {v : Nat} (hold : bit s.host.adminCfg 31 = false) (hv : bit v 31 = true)
    (hr : s.host.ring? 0 0 = none) :
    ∃ r, (s.writeAdmin v).host.ring? 0 0 = some r ∧ r.sqHead = 0 ∧ r.sqTail = 0 ∧ r.cqTail = 0 ∧ r.phase = true ∧
      r.sqBase = s.host.adminSq ∧ r.cqBase = s.host.adminCq ∧ r.err = false ∧ bit (s.writeAdmin v).host.adminCfg 31 = true := by
  simp only [State.writeAdmin, hold, hv, hr, Option.isNone_none, Bool.and_true, Bool.false_eq_true, if_true, if_false, bitOf, mul_one,
    State.putRing_ring?_same, State.putRing_adminCfg, State.modHost_host]
  refine ⟨_, rfl, rfl, rfl, rfl, rfl, rfl, rfl, rfl, bit_add_two_pow ?_⟩
  have size : ∀ lo, (if field v lo 4 ≤ 10 then field v lo 4 else field s.host.adminCfg lo 4) < 2 ^ 4 := fun lo => by
    split <;> exact field_lt _ _ _
  have := size 0
  have := size 4
  have := field_lt v 8 12
  omega

/-- ENABLE falls on a ring pair 0.0 from which nothing is fetched: the pair goes, and ENABLE reads 0. -/
theorem State.writeAdmin_disable {s : State} {v : Nat} {r : Ring} (hold : bit s.host.adminCfg 31 = true) (hv : bit v 31 = false)
    (hr : s.host.ring? 0 0 = some r) (hc : r.closing = none) (hf : ∀ f ∈ s.host.fetched, f.on 0 0 = false) :
    (s.writeAdmin v).host.ring? 0 0 = none ∧ bit (s.writeAdmin v).host.adminCfg 31 = false := by
  have hr' : (s.modHost fun h => { h with adminCfg := s.host.adminCfg % 2 ^ 31 }).host.ring? 0 0 = some r := hr
  have heq : s.writeAdmin v = ((s.modHost fun h => { h with adminCfg := s.host.adminCfg % 2 ^ 31 }).putRing 0 0
      { r with closingAdmin := true }).modHost fun h => { h with rings := h.rings.filter fun p => p.1 ≠ (0, 0) } := by
    simp only [State.writeAdmin, hold, hv, hr', if_true, Bool.false_eq_true, if_false]
    exact State.closeRing_admin (State.putRing_ring?_same _ _ _ _) hc rfl hf
  rw [heq]
  exact ⟨assoc?_filter_key_ne _ _, bit_mod_two_pow _ _⟩

/-! ### The windows of BAR 4 (R371) -/

/-- The selected window is committed where it exists and its function holds the context. -/
theorem State.commitWindow_held {s : State} {v : Nat} {x : Ctx} (hw : field s.host.winSel 0 19 * 2097152 < s.bar4Size (field s.host.winSel 19 6))
    (hx : s.ctx? (ctxOf (field s.host.winHi 16 12)) = some x) (hf : x.func = field s.host.winSel 19 6) :
    let w : Window := ⟨bit v 0, bit v 1, field s.host.winHi 0 16 * 2 ^ 32 + field v 21 11 * 2097152, ctxOf (field s.host.winHi 16 12)⟩
    s.commitWindow v = s.modHost fun h => { h with windows := assocSet (field s.host.winSel 19 6, field s.host.winSel 0 19) w h.windows } := by
  simp [State.commitWindow, hw, hx, hf]

/-! ### Latches, peaks and histograms (R457, R459, R468) -/

/-- LATCH copies the counters of every core. -/
theorem State.latchCounters_cores (s : State) (c : CoreId) : s.latchCounters.dbg.shadow.cores.get c = (s.core c).ctr :=
  Vector.get_map s.cores _ c

theorem State.clearPeaks_bed (s : State) (b : BedId) : s.clearPeaks.bed b = { s.bed b with stats := (s.bed b).stats.noPeak } :=
  Vector.get_map s.beds _ b

theorem State.setHist_bed (s : State) (b : BedId) (v : Nat) :
    (s.setHist b v).bed b = { s.bed b with histSel := v % 2 ^ 9, stats := { (s.bed b).stats with hist := List.replicate 16 0 } } :=
  vmod_get_same s.beds b _

/-! ### REGISTER_WRITE (R343) -/

theorem State.frozen_of_regsOpen {s : State} (h : s.regsOpen = true) : s.dbg.frozen = false := by
  simp only [State.regsOpen, Bool.and_eq_true, Bool.not_eq_true'] at h
  exact h.2

/-- While BAR 0 takes writes, a write of the PF reaches the register at its offset. -/
theorem State.hostWrite32_pf {s : State} (h : s.regsOpen = true) (off v : Nat) : s.hostWrite32 0 off v = s.writeReg off v := by
  simp [State.hostWrite32, h, State.frozen_of_regsOpen h]

/-- LAG_THRESH keeps the low 16 bits. -/
theorem State.writeReg_lagThresh (s : State) (v : Nat) : s.writeReg 0x30020 v = { s with log := { s.log with lagThresh := v % 65536 } } := by
  simp [State.writeReg, State.writeFlow, field]

/-- The dword above LAG_THRESH is reserved. -/
theorem State.writeReg_above_lagThresh (s : State) (v : Nat) : s.writeReg 0x30024 v = s := by
  simp [State.writeReg, State.writeFlow]

/-- A 32-bit write of the PF at an aligned offset. -/
theorem execRegisterWrite_dword {s : State} {off : Nat} (v : Nat) (ho : off < 2 ^ 26) (ha : off % 4 = 0) :
    execRegisterWrite 0 off 4 v s = .next (s.hostWrite32 0 off (v % 2 ^ 32)) := by
  simpa [execRegisterWrite, State.funcEnabled, ha] using ho

/-- A 64-bit write of the PF at an aligned offset: its low half there, then its high half 4 bytes above. -/
theorem execRegisterWrite_qword {s : State} {off : Nat} (v : Nat) (ho : off < 2 ^ 26) (ha : off % 8 = 0) :
    execRegisterWrite 0 off 8 v s = .next ((s.hostWrite32 0 off (v % 2 ^ 32)).hostWrite32 0 (off + 4) (v / 2 ^ 32 % 2 ^ 32)) := by
  simpa [execRegisterWrite, State.funcEnabled, ha] using ho

theorem State.hostWrite32_lagThresh {s : State} (h : s.regsOpen = true) (v : Word32) :
    s.hostWrite32 0 0x30020 (v.toNat % 2 ^ 32) = { s with log := { s.log with lagThresh := v.toNat % 65536 } } := by
  rw [State.hostWrite32_pf h, State.writeReg_lagThresh, Nat.mod_eq_of_lt v.isLt]

theorem execRegisterWrite_dword_lagThresh {s : State} (h : s.regsOpen = true) (v : Word32) :
    execRegisterWrite 0 0x30020 4 v.toNat s = .next { s with log := { s.log with lagThresh := v.toNat % 65536 } } := by
  rw [execRegisterWrite_dword _ (by decide) (by decide), State.hostWrite32_lagThresh h]

/-- The high half meets a device whose BAR 0 still takes writes, and a reserved dword. -/
theorem execRegisterWrite_qword_lagThresh {s : State} (h : s.regsOpen = true) (v : Word32) :
    execRegisterWrite 0 0x30020 8 v.toNat s = .next { s with log := { s.log with lagThresh := v.toNat % 65536 } } := by
  have hopen : ({ s with log := { s.log with lagThresh := v.toNat % 65536 } } : State).regsOpen = true := h
  rw [execRegisterWrite_qword _ (by decide) (by decide), State.hostWrite32_lagThresh h, State.hostWrite32_pf hopen,
    State.writeReg_above_lagThresh]

/-- A write of another width or alignment changes nothing. -/
theorem execRegisterWrite_ignored {s : State} {f : Fin 64} {off width : Nat} (n : Nat) (he : s.funcEnabled f.val = true)
    (ho : off < if f = 0 then 2 ^ 26 else 2 ^ 16) (h4 : ¬ (width = 4 ∧ off % 4 = 0)) (h8 : ¬ (width = 8 ∧ off % 8 = 0)) :
    execRegisterWrite f off width n s = .next s := by
  have ho' : ¬ (if f = 0 then 2 ^ 26 else 2 ^ 16) ≤ off := Nat.not_le.mpr ho
  simp only [execRegisterWrite, he, ho', h4, h8, Bool.not_true, decide_false, Bool.or_false, Bool.false_eq_true, if_false]

/-! ### The register rows while BAR 0 takes writes -/

section regsOpen
variable {s : State} (h : s.regsOpen = true) (v : Word32)
include h

theorem exec_bar4WinLo_open : exec (.bar4WinLo v) s = .next (s.commitWindow v.toNat) := congrArg _ (if_pos h)

theorem exec_adminRingEnable_open : exec (.adminRingEnable v) s = .next (s.writeAdmin v.toNat) := congrArg _ (if_pos h)

theorem exec_adminRingDisable_open : exec (.adminRingDisable v) s = .next (s.writeAdmin v.toNat) := congrArg _ (if_pos h)

theorem exec_relock_open (hv : bit v.toNat 0 = true) :
    exec (.relock v) s = .next { s with sec := { s.sec with locked := true, scope := 0, relocked := true } } :=
  congrArg _ (if_pos (by simp [h, hv]))

theorem exec_latch_open : exec .latch s = .next s.latchCounters := congrArg _ (if_pos h)

theorem exec_clearPeak_open : exec .clearPeak s = .next s.clearPeaks := congrArg _ (if_pos h)

theorem exec_histSel_open (b : BedId) : exec (.histSel b v) s = .next (s.setHist b v.toNat) := congrArg _ (if_pos h)

theorem exec_telLatch_open (hv : bit v.toNat 0 = true) : exec (.telLatch v) s = .next s.latchTele :=
  congrArg _ (if_pos (by simp [h, hv]))

theorem exec_dbgCopyGo_open (hv : bit v.toNat 0 = true) (hb : s.dbg.copyBusy = false) :
    exec (.dbgCopyGo v) s = .next { s with dbg := { s.dbg with copyBusy := true } } :=
  congrArg _ (if_pos (by simp [h, hv, hb]))

end regsOpen

/-! ### The obligation -/

/-- Settles O31, one register row after the other by the lemma that says what it does while BAR 0 takes writes. -/
theorem registerWritesTakeEffect : Obligations.RegisterWritesTakeEffect := by
  unfold Obligations.RegisterWritesTakeEffect
  intro v s h
  refine ⟨?window, ?enable, ?disable, exec_relock_open h v, ?latch, ?peak, ?hist, ?tele, exec_dbgCopyGo_open h v,
    execRegisterWrite_dword_lagThresh h v, execRegisterWrite_qword_lagThresh h v,
    fun f off width n he ho h4 h8 => execRegisterWrite_ignored n he ho h4 h8⟩
  case window =>
    intro hw ⟨x, hx, hf⟩
    rw [exec_bar4WinLo_open h, State.commitWindow_held hw hx hf]
  case enable =>
    intro hold hv hr
    obtain ⟨r, hring⟩ := State.writeAdmin_enable hold hv hr
    exact ⟨_, r, exec_adminRingEnable_open h v, SameBlock.writeAdmin _, hring⟩
  case disable =>
    intro r hold hv hr hc hf
    exact ⟨_, exec_adminRingDisable_open h v, SameBlock.writeAdmin _, State.writeAdmin_disable hold hv hr hc hf⟩
  case latch => exact ⟨_, exec_latch_open h, rfl, s.latchCounters_cores, rfl, rfl⟩
  case peak =>
    refine ⟨_, exec_clearPeak_open h, fun b => ?_⟩
    rw [State.clearPeaks_bed]
    exact ⟨rfl, rfl, rfl⟩
  case hist =>
    refine fun b => ⟨_, exec_histSel_open h v b, ?_⟩
    rw [State.setHist_bed]
    exact ⟨rfl, rfl⟩
  case tele => exact fun hv => ⟨_, exec_telLatch_open h v hv, rfl, rfl, rfl⟩

end Sys2Proof.Machine
end

section
/-! PROOFS. What the shared operations of a core leave of its clock, its runs and its plates (R65, R68, R73, R163, R176). -/

namespace Sys2Proof.Machine

open Sys2Proof

/-! ### The clock of a core -/

/-- Cycles that pass up to `t` change the clock, the place in the power block and the counters. -/
theorem Core.passed_to (k : Core) (t : Nat) : ∃ pw ctr, k.passed (t - k.cyc) = { k with cyc := max k.cyc t, pw := pw, ctr := ctr } := by
  have e : max k.cyc t = k.cyc + (t - k.cyc) := by omega
  exact ⟨(k.passed (t - k.cyc)).pw, (k.passed (t - k.cyc)).ctr, by rw [e]; rfl⟩

/-- A stall moves the clock up and counts it; nothing else of the core changes. -/
theorem core_stallTo (s : State) (c : CoreId) (cause : Fin 16) (t : Nat) :
    ∃ pw ctr, (s.stallTo c cause t).core c = { s.core c with cyc := max (s.core c).cyc t, pw := pw, ctr := ctr } := by
  unfold State.stallTo
  rw [core_modCore_same]
  split
  next =>
    obtain ⟨pw, _, e⟩ := (s.core c).passed_to t
    exact ⟨pw, _, by rw [e]⟩
  next h => exact ⟨(s.core c).pw, (s.core c).ctr, by rw [max_eq_left (not_lt.mp h)]⟩

/-- Busy cycles move the clock up and are counted; nothing else of the core changes. -/
theorem core_busyTo (s : State) (c : CoreId) (t : Nat) :
    ∃ pw ctr, (s.busyTo c t).core c = { s.core c with cyc := max (s.core c).cyc t, pw := pw, ctr := ctr } := by
  unfold State.busyTo
  rw [core_modCore_same]
  split
  next =>
    obtain ⟨pw, _, e⟩ := (s.core c).passed_to t
    exact ⟨pw, _, by rw [e]⟩
  next h => exact ⟨(s.core c).pw, (s.core c).ctr, by rw [max_eq_left (not_lt.mp h)]⟩

section clock
variable (s : State) (c : CoreId) (cause : Fin 16) (t : Nat)

@[simp] theorem stallTo_cyc : ((s.stallTo c cause t).core c).cyc = max (s.core c).cyc t := by
  obtain ⟨_, _, h⟩ := core_stallTo s c cause t; rw [h]
@[simp] theorem stallTo_plates : ((s.stallTo c cause t).core c).plates = (s.core c).plates := by
  obtain ⟨_, _, h⟩ := core_stallTo s c cause t; rw [h]
@[simp] theorem stallTo_plate : ((s.stallTo c cause t).core c).plate = (s.core c).plate := by
  obtain ⟨_, _, h⟩ := core_stallTo s c cause t; rw [h]
@[simp] theorem stallTo_queue (q : QueueId) : ((s.stallTo c cause t).core c).queue q = (s.core c).queue q := by
  obtain ⟨_, _, h⟩ := core_stallTo s c cause t; rw [h]; rfl
@[simp] theorem busyTo_plates : ((s.busyTo c t).core c).plates = (s.core c).plates := by
  obtain ⟨_, _, h⟩ := core_busyTo s c t; rw [h]

end clock

/-- A pull that has shifted out by cycle `t` frees its plate: only the shift in hand and the states of the plates change (R68, R73). -/
theorem Core.settle_eq (k : Core) (t : Nat) : ∃ sh pl, k.settle t = { k with shift := sh, plate := pl } := by
  unfold Core.settle
  split
  · split
    · exact ⟨_, _, rfl⟩
    · exact ⟨k.shift, k.plate, rfl⟩
  · exact ⟨k.shift, k.plate, rfl⟩

@[simp] theorem Core.settle_cyc (k : Core) (t : Nat) : (k.settle t).cyc = k.cyc := by obtain ⟨_, _, h⟩ := k.settle_eq t; rw [h]
@[simp] theorem Core.settle_plates (k : Core) (t : Nat) : (k.settle t).plates = k.plates := by obtain ⟨_, _, h⟩ := k.settle_eq t; rw [h]
@[simp] theorem Core.settle_ctr (k : Core) (t : Nat) : (k.settle t).ctr = k.ctr := by obtain ⟨_, _, h⟩ := k.settle_eq t; rw [h]
@[simp] theorem Core.settle_queue (k : Core) (t : Nat) (q : QueueId) : (k.settle t).queue q = k.queue q := by
  obtain ⟨_, _, h⟩ := k.settle_eq t; rw [h]; rfl

/-! ### The run of an operation -/

section run
variable (s : State) (c : CoreId) (q : QueueId) (r : Run) (t : Nat)

@[simp] theorem setRun_run : (((s.setRun c q r).core c).queue q).run = some r := by simp [State.setRun]
@[simp] theorem setRun_plates : ((s.setRun c q r).core c).plates = (s.core c).plates := by simp [State.setRun]
@[simp] theorem setRun_plate : ((s.setRun c q r).core c).plate = (s.core c).plate := by simp [State.setRun]
@[simp] theorem slice_setRun (d : DieId) : (s.setRun c q r).slice d = s.slice d := rfl
@[simp] theorem endOp_run :
    (((s.endOp c q t).core c).queue q).run = (((s.core c).queue q).run.map fun r => { r with outcome := some .ok, endAt := some t }) := by
  simp [State.endOp]
@[simp] theorem endOp_plates : ((s.endOp c q t).core c).plates = (s.core c).plates := by simp [State.endOp]
@[simp] theorem endOp_plate : ((s.endOp c q t).core c).plate = (s.core c).plate := by simp [State.endOp]
@[simp] theorem endOp_cyc : ((s.endOp c q t).core c).cyc = (s.core c).cyc := by simp [State.endOp]

end run

/-- The operation that `currentRun` finds is the head of its queue, with its run. -/
theorem State.currentRun_run {s : State} {c : CoreId} {op : AkiOp} {u : Cur} (h : s.currentRun c op = some u) :
    ((s.core c).queue u.q).run = some u.run := by
  unfold State.currentRun at h
  cases hc : s.current c with
  | none => simp [hc] at h
  | some v =>
    simp only [hc] at h
    cases (Option.ite_none_right_eq_some.mp h).2
    exact (State.current_run hc).1

/-! ### Reads of dry lines -/

/-- Reads of lines that are dry meet no wet line, whatever their cycles (R176). -/
theorem State.firstHit_of_dry {s : State} {c : CoreId} {u : Cur} {reads : List (Nat × List Nat)} (h : ∀ e ∈ reads, s.dry c u e.2) (i : Nat) :
    s.firstHit c u.q u.run.op reads i = none := by
  induction reads generalizing i with
  | nil => rfl
  | cons e es ih =>
    simp only [State.firstHit, (h e (by simp)).wetHit]
    exact ih (fun x hx => h x (by simp [hx])) _

/-! ### The words of a plate -/

theorem plateKey_eq {a b i i' j j' : Nat} (hi : i < 256) (hj : j < 256) (hi' : i' < 256) (hj' : j' < 256) :
    plateKey a i j = plateKey b i' j' ↔ a = b ∧ i = i' ∧ j = j' := by
  unfold plateKey
  omega

/-- One word written: it reads back modulo its range, and every other word stays. -/
theorem Core.word_setWord {k : Core} (hk : swf 0 k.plates = true) {a p i j x y : Nat} (v : Nat) (hi : i < 256) (hj : j < 256) (hx : x < 256)
    (hy : y < 256) : (k.setWord p x y v).word a i j = if a = p ∧ i = x ∧ j = y then v % 2 ^ 32 else k.word a i j := by
  have hkey := plateKey_eq (a := a) (b := p) hi hj hx hy
  unfold Core.word Core.setWord
  split
  next h => rw [hkey.mpr h, sget_sset_same hk, BitVec.toNat_ofNat]
  next h => rw [sget_sset_other hk (hkey.not.mpr h)]

theorem Core.setWord_swf {k : Core} (hk : swf 0 k.plates = true) (p i j v : Nat) : swf 0 (k.setWord p i j v).plates = true := sset_swf hk

/-- A plate put to zero, and its other half where it holds pairs (R65). -/
theorem Core.word_zeroPlate (k : Core) {a p i j : Nat} {dword : Bool} (hi : i < 256) (hj : j < 256) :
    (k.zeroPlate p dword).word a i j = if a = p ∨ dword = true ∧ a = p + 4 then 0 else k.word a i j := by
  have inside : ∀ b, (65536 * b ≤ plateKey a i j ∧ plateKey a i j < 65536 * b + 65536) ↔ a = b := fun b => by unfold plateKey; omega
  cases dword <;> simp only [Core.zeroPlate, Core.word, sget_sclear, inside, Bool.false_eq_true, if_true, if_false, false_and, or_false, true_and]
  · split <;> rfl
  · by_cases h1 : a = p <;> by_cases h2 : a = p + 4 <;> simp [h1, h2]

theorem Core.zeroPlate_swf {k : Core} (hk : swf 0 k.plates = true) (p : Nat) (dword : Bool) : swf 0 (k.zeroPlate p dword).plates = true := by
  cases dword
  · exact sclear_swf hk
  · exact sclear_swf (sclear_swf hk)

@[simp] theorem Core.setInfo_word (k : Core) (own : Nat) (f : PlateInfo → PlateInfo) (a i j : Nat) : (k.setInfo own f).word a i j = k.word a i j := rfl
@[simp] theorem Core.info_setInfo (k : Core) (p : Nat) (f : PlateInfo → PlateInfo) : (k.setInfo p f).info p = f (k.info p) :=
  vmod_get_same k.plate (plateIx p) f

/-! ### What acts on plates alone -/

/-- A change of a core that reads and writes the words of its plates and nothing else. -/
def Core.OnPlates (f : Core → Core) : Prop := ∃ g : Sparse Word32 → Sparse Word32, ∀ k, f k = { k with plates := g k.plates }

theorem Core.OnPlates.comp {f g : Core → Core} (hf : Core.OnPlates f) (hg : Core.OnPlates g) : Core.OnPlates fun k => g (f k) := by
  obtain ⟨a, ha⟩ := hf
  obtain ⟨b, hb⟩ := hg
  exact ⟨fun m => b (a m), fun k => by simp only [ha, hb]⟩

theorem Core.OnPlates.foldl {α : Type} {f : Core → α → Core} (hf : ∀ a, Core.OnPlates fun k => f k a) (l : List α) : Core.OnPlates fun k => l.foldl f k := by
  induction l with
  | nil => exact ⟨id, fun _ => rfl⟩
  | cons a l ih => exact (hf a).comp ih

theorem Core.OnPlates.setWord (p i j v : Nat) : Core.OnPlates fun k => k.setWord p i j v :=
  ⟨fun m => sset 0 m (plateKey p i j) (BitVec.ofNat 32 v), fun _ => rfl⟩

theorem Core.OnPlates.zeroPlate (p : Nat) (dword : Bool) : Core.OnPlates fun k => k.zeroPlate p dword := by
  cases dword
  · exact ⟨_, fun _ => rfl⟩
  · exact ⟨fun m => sclear (sclear m (65536 * p) 65536) (65536 * (p + 4)) 65536, fun _ => rfl⟩

/-- What promotion makes of a cell's two halves in a double-word plate (R97). -/
def Bite.pairIn (b : Bite) (w : Win) (s : Int) (plate i j : Nat) (m : Sparse Word32) : Nat × Nat :=
  promotePair w s b (sget 0 m (plateKey plate i j)).toNat (sget 0 m (plateKey (plate + 4) i j)).toNat

/-- A promotion reads and writes plate words alone (R96, R97). -/
theorem Core.OnPlates.promote (p : OuterP) (plate : Nat) (as bs : List (List (Nat × Nat))) (w : Win) (cells : List (List Bite)) :
    Core.OnPlates fun k => k.promote p plate as bs w cells := by
  refine Core.OnPlates.foldl (fun i => Core.OnPlates.foldl (fun j => ?_) _) _
  cases hd : p.dword
  · exact ⟨fun m => sset 0 m (plateKey plate i j) (BitVec.ofNat 32 (promoteWord w (biteScale p as bs i j) ((cells.getD i []).getD j Bite.zero)
      (sget 0 m (plateKey plate i j)).toNat)), fun _ => rfl⟩
  · exact ⟨fun m =>
      let v := ((cells.getD i []).getD j Bite.zero).pairIn w (biteScale p as bs i j) plate i j m
      sset 0 (sset 0 m (plateKey plate i j) (BitVec.ofNat 32 v.1)) (plateKey (plate + 4) i j) (BitVec.ofNat 32 v.2), fun _ => rfl⟩

theorem Core.OnPlates.plates_congr {f : Core → Core} (h : Core.OnPlates f) {k l : Core} (e : k.plates = l.plates) : (f k).plates = (f l).plates := by
  obtain ⟨g, hg⟩ := h
  rw [hg, hg, e]

section onPlates
variable {f : Core → Core} (h : Core.OnPlates f) (k : Core)
include h
theorem Core.OnPlates.cyc : (f k).cyc = k.cyc := by obtain ⟨_, hg⟩ := h; rw [hg]
theorem Core.OnPlates.queues : (f k).queues = k.queues := by obtain ⟨_, hg⟩ := h; rw [hg]
end onPlates

end Sys2Proof.Machine
end

section
/-! PROOFS. The operations of the array: PRELOAD, PULL, OUTER and STYLUS (R65, R68, R71 to R73, R80, R82, R86, R96, R113). -/

namespace Sys2Proof.Machine

open Sys2Proof

/-! ### A tile loaded into a plate -/

/-- Rows and columns of a plate set to the values of a tile. -/
def Core.setRows (k : Core) (p : Nat) (rows cols : List Nat) (f : Nat → Nat → Nat) : Core :=
  rows.foldl (fun k r => cols.foldl (fun k j => k.setWord p r j (f r j)) k) k

theorem Core.OnPlates.setRows (p : Nat) (rows cols : List Nat) (f : Nat → Nat → Nat) : Core.OnPlates fun k => k.setRows p rows cols f :=
  Core.OnPlates.foldl (fun r => Core.OnPlates.foldl (fun j => Core.OnPlates.setWord p r j (f r j)) cols) rows

theorem Core.setRow_swf {k : Core} (hk : swf 0 k.plates = true) (p r : Nat) (cols : List Nat) (f : Nat → Nat) :
    swf 0 (cols.foldl (fun k j => k.setWord p r j (f j)) k).plates = true :=
  List.foldlRecOn (motive := fun k : Core => swf 0 k.plates = true) cols _ hk fun _ h _ _ => Core.setWord_swf h _ _ _ _

/-- One row of a plate set: the columns listed read back, and every other word stays. -/
theorem Core.word_setRow {k : Core} (hk : swf 0 k.plates = true) (p : Nat) {r : Nat} {cols : List Nat} (f : Nat → Nat) (hr : r < 256)
    (hc : ∀ y ∈ cols, y < 256) {a i j : Nat} (hi : i < 256) (hj : j < 256) :
    (cols.foldl (fun k y => k.setWord p r y (f y)) k).word a i j = if a = p ∧ i = r ∧ j ∈ cols then f j % 2 ^ 32 else k.word a i j := by
  induction cols generalizing k with
  | nil => simp
  | cons y ys ih =>
    rw [List.foldl_cons, ih (Core.setWord_swf hk _ _ _ _) (fun x hx => hc x (by simp [hx])), Core.word_setWord hk _ hi hj hr (hc y (by simp))]
    by_cases hy : j = y
    · subst hy; by_cases h : a = p ∧ i = r <;> simp [h, ← and_assoc]
    · simp [hy]

/-- A tile of rows and columns of a plate set: its words read back, and every other word stays. -/
theorem Core.word_setRows {k : Core} (hk : swf 0 k.plates = true) (p : Nat) {rows cols : List Nat} (f : Nat → Nat → Nat) (hr : ∀ x ∈ rows, x < 256)
    (hc : ∀ y ∈ cols, y < 256) {a i j : Nat} (hi : i < 256) (hj : j < 256) :
    (k.setRows p rows cols f).word a i j = if a = p ∧ i ∈ rows ∧ j ∈ cols then f i j % 2 ^ 32 else k.word a i j := by
  unfold Core.setRows
  induction rows generalizing k with
  | nil => simp
  | cons x xs ih =>
    rw [List.foldl_cons, ih (Core.setRow_swf hk _ _ _ _) (fun z hz => hr z (by simp [hz])), Core.word_setRow hk p _ (hr x (by simp)) hc hi hj]
    by_cases hx : i = x
    · subst hx; by_cases h : a = p <;> by_cases hj : j ∈ cols <;> simp [h, hj]
    · simp [hx]

/-- The source of a PRELOAD in its plate, which it leaves free (R71, R73); the words beyond the source's counts hold +0. -/
def Core.preload (k : Core) (p : PreloadP) (own : Nat) (m : Sparse Byte) : Core :=
  ((k.zeroPlate p.plate p.dword).setRows p.plate (List.range (p.src.count 1)) (List.range (p.src.count 0)) fun r j =>
    p.src.word m [j, r, 0, 0, 0, 0]).setInfo own fun _ => ⟨.free, none, p.dword⟩

/-- Every word after a PRELOAD. -/
theorem Core.word_preload {k : Core} (hk : swf 0 k.plates = true) {p : PreloadP} {own : Nat} {m : Sparse Byte} (h0 : p.src.count 0 ≤ 256)
    (h1 : p.src.count 1 ≤ 256) {a i j : Nat} (hi : i < 256) (hj : j < 256) :
    (k.preload p own m).word a i j =
      if a = p.plate ∧ i < p.src.count 1 ∧ j < p.src.count 0 then p.src.word m [j, i, 0, 0, 0, 0] % 2 ^ 32
      else if a = p.plate ∨ p.dword = true ∧ a = p.plate + 4 then 0 else k.word a i j := by
  have below : ∀ {n}, n ≤ 256 → ∀ x ∈ List.range n, x < 256 := fun hn x hx => (List.mem_range.mp hx).trans_le hn
  rw [Core.preload, Core.setInfo_word, Core.word_setRows (Core.zeroPlate_swf hk _ _) _ _ (below h1) (below h0) hi hj, Core.word_zeroPlate k hi hj]
  simp only [List.mem_range]

section preload
variable (k : Core) (p : PreloadP) (own : Nat) (m : Sparse Byte)

theorem Core.OnPlates.fill : Core.OnPlates fun k => (k.zeroPlate p.plate p.dword).setRows p.plate (List.range (p.src.count 1)) (List.range (p.src.count 0)) fun r j =>
    p.src.word m [j, r, 0, 0, 0, 0] := (Core.OnPlates.zeroPlate p.plate p.dword).comp (Core.OnPlates.setRows _ _ _ _)

@[simp] theorem Core.preload_cyc : (k.preload p own m).cyc = k.cyc := (Core.OnPlates.fill p m).cyc k
@[simp] theorem Core.preload_queue (q : QueueId) : (k.preload p own m).queue q = k.queue q :=
  congrArg (fun v => v.get q) ((Core.OnPlates.fill p m).queues k)
@[simp] theorem Core.preload_info : (k.preload p own m).info own = ⟨.free, none, p.dword⟩ := Core.info_setInfo _ _ _

end preload

/-- The cycle at which a PRELOAD selected at `t` starts: when the vertical path is free (R72). -/
def Core.preloadStart (k : Core) (t : Nat) : Nat :=
  match k.shift with
  | some sh => max t (sh.start + 257)
  | none => t

/-- The state that a PRELOAD leaves which starts at `t` (R71). -/
def State.preloaded (s : State) (c : CoreId) (u : Cur) (p : PreloadP) (t : Nat) : State :=
  ((((s.stallTo c 10 t).modCore c fun k => k.settle t).modCore c fun k =>
    k.preload p ((s.core c).owner p.plate p.dword) (s.slice c.die).mem).stallTo c 11 (t + 308)).endOp c u.q (t + 308)

/-- A PRELOAD whose plate is its own to load and whose source is dry runs to its end. -/
theorem exec_preload {c : CoreId} {p : PreloadP} {s : State} {u : Cur} (hu : s.currentRun c (.preload p) = some u) (he : u.run.endAt = none)
    (hst : ((s.core c).info ((s.core c).owner p.plate p.dword)).st = .free ∨ ((s.core c).info ((s.core c).owner p.plate p.dword)).st = .owned u.q)
    (hd : ∀ r, r < p.src.count 1 → s.dry c u (linesOf ((List.range (p.src.count 0)).flatMap fun j => p.src.touch [j, r, 0, 0, 0, 0]))) :
    exec (.preload c p) s = .next (s.preloaded c u p ((s.core c).preloadStart (u.run.leaveAt.getD u.run.issued))) := by
  show execPreload c p s = _
  have hst' : ¬ (((s.core c).info ((s.core c).owner p.plate p.dword)).st ≠ .free ∧
      ((s.core c).info ((s.core c).owner p.plate p.dword)).st ≠ .owned u.q) := by tauto
  have hit : ∀ t, ((s.stallTo c 10 t).modCore c fun k => k.settle t).firstHit c u.q u.run.op
      ((List.range (p.src.count 1)).reverse.map fun r => (t + (255 - r), linesOf ((List.range (p.src.count 0)).flatMap fun j =>
        p.src.touch [j, r, 0, 0, 0, 0]))) 0 = none := fun t => by
    refine State.firstHit_of_dry (fun e h => ?_) 0
    obtain ⟨r, hr, rfl⟩ := List.mem_map.mp h
    exact hd r (by simpa using hr)
  unfold execPreload
  simp only [hu, he, Option.isSome_none, Bool.false_eq_true, if_false, hst']
  rw [hit]
  rfl

theorem OnlyCore.preloaded (s : State) (c : CoreId) (u : Cur) (p : PreloadP) (t : Nat) : OnlyCore s (s.preloaded c u p t) c :=
  (((OnlyCore.stallTo s c 10 t).trans (OnlyCore.modCore _ c _)).trans (OnlyCore.modCore _ c _)).trans
    ((OnlyCore.stallTo _ c 11 (t + 308)).trans (OnlyCore.endOp _ c u.q (t + 308)))

theorem State.preloaded_run {s : State} {c : CoreId} {u : Cur} (h : ((s.core c).queue u.q).run = some u.run) (p : PreloadP) (t : Nat) :
    (((s.preloaded c u p t).core c).queue u.q).run = some { u.run with outcome := some .ok, endAt := some (t + 308) } := by
  simp [State.preloaded, h]

section preloaded
variable (s : State) (c : CoreId) (u : Cur) (p : PreloadP) (t : Nat)

theorem State.preloaded_cyc : ((s.preloaded c u p t).core c).cyc = max (s.core c).cyc (t + 308) := by
  simp [State.preloaded, max_assoc]

theorem State.preloaded_info : ((s.preloaded c u p t).core c).info ((s.core c).owner p.plate p.dword) = ⟨.free, none, p.dword⟩ := by
  rw [State.preloaded, Core.info, endOp_plate, stallTo_plate, core_modCore_same]
  exact Core.preload_info _ _ _ _

theorem State.preloaded_word (a i j : Nat) : ((s.preloaded c u p t).core c).word a i j =
    ((s.core c).preload p ((s.core c).owner p.plate p.dword) (s.slice c.die).mem).word a i j := by
  have e : ((s.preloaded c u p t).core c).plates = ((s.core c).preload p ((s.core c).owner p.plate p.dword) (s.slice c.die).mem).plates := by
    rw [State.preloaded, endOp_plates, stallTo_plates, core_modCore_same]
    exact (Core.OnPlates.fill p (s.slice c.die).mem).plates_congr (by simp)
  rw [Core.word, Core.word, e]

end preloaded

theorem Core.preloadStart_le (k : Core) (t : Nat) : t ≤ k.preloadStart t := by
  unfold Core.preloadStart
  split <;> omega

/-! ### A pull (R68, R73, R113) -/

/-- The bytes of a slice after a pull: what it writes, and the absmax merged into its scale record (R52, R113). -/
def PullIn.land (x : PullIn) (m : Sparse Byte) : Sparse Byte :=
  match x.p.recOut with
  | some a => writeBytes (applyPuts m x.allPuts) a (mergeAmax (readBytes (applyPuts m x.allPuts) a 128) x.absmax)
  | none => applyPuts m x.allPuts

/-- A pull that issues changes the bytes of its slice, wet marks and the side buffer of its core. -/
theorem State.issuePull_ok {s v : State} {c : CoreId} {u : Cur} {op no t : Nat} {p : PullP} {walk : List Nat} {src : PullSrc}
    (h : s.issuePull c u op p walk no src t = .ok v) :
    (v.slice c.die).mem = (s.pullIn c u.x p walk no u.run.epoch src).land (s.slice c.die).mem ∧
      (∃ ports, v.core c = { s.core c with ports := ports }) ∧ OnlyDie s v c := by
  unfold State.issuePull at h
  cases hside : s.firstHit c u.q op (PullP.sideReads p walk src) 0 with
  | some e => simp [hside] at h
  | none =>
  cases hrec : s.wetHit c u.q op t ((PullP.records p).map lineOf) with
  | some m => simp [hside, hrec] at h
  | none =>
  simp only [hside, hrec] at h
  split at h
  · cases h
  generalize s.wetOther c u t _ = other at h
  generalize PullP.sideOverlap p walk src t _ = overlap at h
  rcases other with _ | m <;> rcases overlap with _ | l <;> cases h
  have hmarks : ∀ ls m, OnlyDie s ((s.markWet c.die c u.q op u.desc.opTag t ls).modSlice c.die fun k => { k with mem := m }) c := fun _ _ =>
    (OnlyCore.markWet s c c _ _ _ _ _ _).die.trans ⟨rfl, fun _ _ => rfl, fun d hd => by rw [slice_modSlice_other _ _ hd]⟩
  have hpads : ∀ ls g, ((s.markWet c.die c u.q op u.desc.opTag t ls).slice g).mem = (s.slice g).mem := fun _ =>
    (OnlyCore.markWet s c c _ _ _ _ _ _).pads
  split
  · refine ⟨?_, ⟨_, core_modCore_same _ _ _⟩, (hmarks _ _).trans (OnlyCore.modCore _ _ _).die⟩
    simp only [slice_modCore, slice_modSlice_same, hpads]
    rfl
  · refine ⟨?_, ⟨_, rfl⟩, hmarks _ _⟩
    simp only [slice_modSlice_same, hpads]
    rfl

/-- A core whose plate begins to shift out at cycle `t`: the plate holds +0 (R68, R73). -/
def Core.shiftOut (k : Core) (plate : Nat) (dword : Bool) (own t : Nat) : Core :=
  { ((k.zeroPlate plate dword).setInfo own fun i => ⟨.shifting, none, i.dword⟩) with
    shift := some ⟨own, t⟩, ctr := { k.ctr with pulls := (k.ctr.pulls + 1) % 2 ^ 48 } }

/-- A pull of a plate that issues is a pull whose plate begins to shift. -/
theorem State.pullPlate_ok {s v : State} {c : CoreId} {u : Cur} {op plate no t fetch : Nat} {p : PullP} {dword : Bool} {walk : List Nat}
    (h : s.pullPlate c u op p plate dword walk no t fetch = .ok v) :
    let s1 := s.modCore c fun k => k.settle t
    ∃ w, s1.issuePull c u op p walk no ((s1.core c).plateSrc p plate dword fetch) t = .ok w ∧
      v = w.modCore c fun k => k.shiftOut plate dword ((s1.core c).owner plate dword) t := by
  intro s1
  unfold State.pullPlate at h
  simp only [] at h
  split at h
  · cases h
  split at h
  · cases h
  split at h
  · cases h
  · cases h
    exact ⟨_, ‹_›, rfl⟩

theorem OnlyDie.pullPlate {s v : State} {c : CoreId} {u : Cur} {op plate no t fetch : Nat} {p : PullP} {dword : Bool} {walk : List Nat}
    (h : s.pullPlate c u op p plate dword walk no t fetch = .ok v) : OnlyDie s v c := by
  obtain ⟨w, hw, rfl⟩ := State.pullPlate_ok h
  obtain ⟨_, _, hs⟩ := State.issuePull_ok hw
  exact (OnlyCore.modCore s c _).die.trans (hs.trans (OnlyCore.modCore w c _).die)

theorem OnlyDie.pullLoop (c : CoreId) (u : Cur) (p : PullP) (n : Nat) : ∀ (s : State) (i t : Nat), OnlyDie s (s.pullLoop c u p n i t).1 c := by
  induction n with
  | zero => exact fun s _ _ => OnlyDie.same s c
  | succ n ih =>
    intro s i t
    unfold State.pullLoop
    simp only []
    split
    · exact OnlyDie.same s c
    · rename_i v hv
      have hstall := (OnlyDie.pullPlate hv).trans (OnlyCore.stallTo v c 10 ((s.core c).pullStart p t)).die
      split
      · exact hstall
      · exact hstall.trans (ih _ _ _)

/-- The state that a PULL leaves whose last iteration issues at `t` in state `v`. -/
def State.pullEnd (v : State) (c : CoreId) (u : Cur) (t : Nat) : State :=
  (v.setRun c u.q { u.run with lastEnd := t, first := false }).endOp c u.q (t + 1)

theorem OnlyCore.pullEnd (v : State) (c : CoreId) (u : Cur) (t : Nat) : OnlyCore v (v.pullEnd c u t) c :=
  (OnlyCore.setRun v c _ _).trans (OnlyCore.endOp _ c _ _)

section pullEnd
variable {c : CoreId} {p : PullP} {s v : State} {u : Cur} {e : Nat} (hu : s.currentRun c (.pull p) = some u) (he : u.run.endAt = none)
  (hp : (((s.core c).settle (u.run.leaveAt.getD u.run.issued)).info
    (((s.core c).settle (u.run.leaveAt.getD u.run.issued)).owner (PullP.plateAt p u.run.unit) p.dword)).st ≠ .shifting)
  (hl : s.pullLoop c u p (PullP.walks p - u.run.unit) u.run.unit (u.run.leaveAt.getD u.run.issued) = (v, none, e))
include hu he hp hl

/-- A PULL whose iterations all issue ends a cycle after the last. -/
theorem exec_pull : exec (.pull c p none) s = .next (v.pullEnd c u e) := by
  show execPull c p none s = _
  have hend : u.run.endAt.isSome = false := by rw [he]; rfl
  simp only [execPull, hu, hend, Bool.false_eq_true, if_false, hp, hl]
  rfl

/-- A residue mismatch in one of its iterations stops the context after that (R124). -/
theorem exec_pull_residue {i : Nat} (row : Nat) (hi : u.run.unit ≤ i) (hw : i < PullP.walks p) :
    exec (.pull c p (some (i, row))) s = .next ((v.pullEnd c u e).residueFault c u p (PullP.plateAt p i) i row) := by
  show execPull c p (some (i, row)) s = _
  have hend : u.run.endAt.isSome = false := by rw [he]; rfl
  simp only [execPull, hu, hend, Bool.false_eq_true, if_false, hp, hl, if_neg (show ¬ (i < u.run.unit ∨ PullP.walks p ≤ i) by omega)]
  rfl

end pullEnd

/-! ### A bite of an OUTER (R86, R96) -/

/-- No pull falls due in an OUTER that has none attached (R67). -/
theorem State.duePull_absent {s : State} {c : CoreId} {u : Cur} {p : OuterP} (h : p.att = none) (t : Nat) : s.duePull c u p t = .ok (s, 0) := by
  unfold State.duePull
  rw [h]
  cases u.run.att <;> rfl

theorem State.outerEnd_absent {s : State} {c : CoreId} {u : Cur} {p : OuterP} (h : p.att = none) :
    s.outerEnd c u p = s.endOp c u.q (u.run.lastEnd + 12) := by
  simp [State.outerEnd, State.duePull_absent h]

/-- From `v`, in which a bite's vectors have been read, to `t`: the plates hold the promotion, the bite after is next, and nothing else
changes but wet marks, the core, and the count of masked events where margins replayed. -/
structure BiteDone (v t : State) (c : CoreId) (q : QueueId) (plates : Sparse Word32) (next margins : Nat) : Prop where
  plates : (t.core c).plates = plates
  unit : (((t.core c).queue q).run.map fun r => r.unit) = some next
  pads : ∀ g, (t.slice g).mem = (v.slice g).mem
  only : margins = 0 → OnlyCore v t c

/-- A promotion in the core, its masked events counted and the next bite in the run. -/
theorem BiteDone.of_core {v x : State} {c : CoreId} (q : QueueId) {plates : Sparse Word32} (margins : Nat) (r : Run) (hx : OnlyCore v x c)
    (hp : (x.core c).plates = plates) : BiteDone v ((if margins = 0 then x else x.countA).setRun c q r) c q plates r.unit margins := by
  refine ⟨?_, by rw [setRun_run, Option.map_some], fun g => ?_, fun h => ?_⟩
  · rw [setRun_plates, ← hp]
    split <;> rfl
  · rw [slice_setRun, ← hx.pads g]
    split <;> rfl
  · rw [if_pos h]
    exact hx.trans (OnlyCore.setRun ..)

/-- The end of the operation after its last bite changes none of this. -/
theorem BiteDone.endOp {v t : State} {c : CoreId} {q : QueueId} {plates : Sparse Word32} {next margins : Nat}
    (h : BiteDone v t c q plates next margins) (e : Nat) : BiteDone v (t.endOp c q e) c q plates next margins where
  plates := by rw [endOp_plates, h.plates]
  unit := by rw [endOp_run, Option.map_map]; exact h.unit
  pads := h.pads
  only := fun hm => (h.only hm).trans (OnlyCore.endOp ..)

section bite
variable {s v : State} {c : CoreId} {u : Cur} {p : OuterP} {e : Nat} {as bs : List (List (Nat × Nat))} {d : Decided} {w : Win}
  {cells : List (List Bite)} {top : Option Int}

/-- A bite that passes its checks, the last of a tile where no pull is attached too, is promoted; the OUTER ends after its last bite. -/
theorem State.outerBite_promotes {f : Option ArrayFault} {r : Run} (hread : s.biteReads c u p = .ok (v, e, as, bs))
    (hrun : ((v.core c).queue u.q).run = some r) (hatt : (r.unit + 1) % p.bites ≠ 0 ∨ p.att = none)
    (hdec : (p.bite as bs).decide f ((v.core c).info ((v.core c).owner (p.plateOf (r.unit / p.bites)) p.dword)).pred = d)
    (hd : d.d = .promote w cells top) :
    ∃ y r', BiteDone v y c u.q ((v.core c).promote p (p.plateOf (r.unit / p.bites)) as bs w cells).plates (r.unit + 1) d.margins ∧
      s.outerBite c u p f = if r.unit + 1 = p.bites * p.tiles then (y.outerEnd c { u with run := r' } p, false) else (y, true) := by
  have hdue : ∀ (u : Cur) t, (if (r.unit + 1) % p.bites = 0 then v.duePull c u p t else .ok (v, 0)) = .ok (v, 0) := fun u t => by
    rcases hatt with h | h
    · rw [if_neg h]
    · rw [State.duePull_absent h, ite_self]
  unfold State.outerBite
  simp only [hread, hrun, Option.getD_some, hdue, hdec, hd]
  refine ⟨_, _, BiteDone.of_core u.q d.margins _ ?only ?plates, rfl⟩
  case only =>
    exact ((((OnlyCore.busyTo ..).trans (OnlyCore.stallTo ..)).trans (OnlyCore.stallTo ..)).trans (OnlyCore.modCore ..)).trans (OnlyCore.modCore ..)
  case plates =>
    rw [core_modCore_same]
    exact (Core.OnPlates.promote ..).plates_congr (by simp)

/-- A run of one bite of an OUTER that promotes it (R87, R96). -/
theorem exec_outer_promotes {flt : Option ArrayFault} (hu : s.currentIs c (.outer p) = some u) (he : u.run.endAt = none)
    (hn : u.run.unit < p.bites * p.tiles) (hread : s.biteReads c u p = .ok (v, e, as, bs)) (hatt : (u.run.unit + 1) % p.bites ≠ 0 ∨ p.att = none)
    (hdec : (p.bite as bs).decide (flt.bind fun f => if f.bite = 0 then some f else none)
      ((v.core c).info ((v.core c).owner (p.plateOf (u.run.unit / p.bites)) p.dword)).pred = d)
    (hd : d.d = .promote w cells top) (hunit : (((v.core c).queue u.q).run.map fun r => r.unit) = some u.run.unit) :
    ∃ t, exec (.outer c p 1 ⟨flt, none⟩) s = .next t ∧
      BiteDone v t c u.q ((v.core c).promote p (p.plateOf (u.run.unit / p.bites)) as bs w cells).plates (u.run.unit + 1) d.margins := by
  obtain ⟨r, hrun, hr⟩ := Option.map_eq_some_iff.mp hunit
  rw [← hr] at hatt hdec ⊢
  obtain ⟨y, r', hy, hbite⟩ := State.outerBite_promotes hread hrun hatt hdec hd
  refine ⟨s.outerLoop c p flt 1 0, rfl, ?_⟩
  have hloop : s.outerLoop c p flt 1 0 = (s.outerBite c u p (flt.bind fun f => if f.bite = 0 then some f else none)).1 := by
    simp only [State.outerLoop, hu, he, Option.isSome_none, Bool.false_eq_true, if_false, hn.ne, ite_self]
  rw [hloop, hbite]
  split
  next hlast =>
    have hnone : p.att = none := hatt.resolve_left fun h => h (by rw [hlast, Nat.mul_mod_right])
    rw [State.outerEnd_absent hnone]
    exact hy.endOp _
  next => exact hy

end bite

/-! ### A row of a STYLUS (R80, R82) -/

/-- What a row adds to the gather register: one value per vector (R82). -/
def stylusGather (p : StylusP) (r : Run) (outs : List (Option (Nat × Option Int × Nat))) : List (List Nat) :=
  ((outs.map fun o => o.getD (0, none, 0)).zip (List.range p.vectors)).map fun e =>
    (if r.unit % 256 = 0 then [] else r.gather).getD e.2 [] ++ [e.1.1]

@[simp] theorem delayMarks_core (s : State) (c k : CoreId) (q : QueueId) (op base d : Nat) : (s.delayMarks c q op base d).core k = s.core k := by
  unfold State.delayMarks
  split <;> rfl

section stylus
variable {c : CoreId} {p : StylusP} {s : State} {u : Cur} {outs : List (Option (Nat × Option Int × Nat))} (hfirst : u.run.first = false)
  (hleave : u.run.leaveAt = none) (hload : p.reloads u.run.unit = false) (hgroup : u.run.unit % 256 ≠ 255) (hlast : u.run.unit + 1 ≠ p.rows)
  (hd : s.dry c u (linesOf ((List.range p.k).flatMap fun i => p.w.touch ((p.w.indexFrom 1 u.run.unit).set 0 i))))
  (ho : (((s.core c).ports.vecReg.zip (List.range p.vectors)).map fun e =>
    stylusDot p.w.fmt p.v.fmt (ceilDiv p.k 32) (p.mat (s.slice c.die).mem u.run.unit) e.1 0 (u.run.preds.getD e.2 none) 0) = outs)
  (hok : outs.any Option.isNone = false)
include hfirst hleave hload hgroup hlast hd ho hok

/-- A row within a group whose vectors are loaded and whose products pass their checks is gathered (R80, R82). -/
theorem State.stylusRow_gathers : ∃ x r, OnlyCore s x c ∧ (x.core c).plates = (s.core c).plates ∧ r.unit = u.run.unit + 1 ∧
    r.gather = stylusGather p u.run outs ∧ s.stylusRow c u p = (x.setRun c u.q r, true) := by
  have hhit : ∀ t, s.firstHit c u.q u.run.op [(t, linesOf ((List.range p.k).flatMap fun i => p.w.touch ((p.w.indexFrom 1 u.run.unit).set 0 i)))] 0 = none :=
    fun t => State.firstHit_of_dry (by simpa using hd) 0
  have hin : ¬ ((u.run.unit + 1) % 256 = 0 ∨ u.run.unit + 1 = p.rows) := by omega
  unfold State.stylusRow
  simp only [hfirst, hleave, hload, Bool.or_false, Bool.false_and, Bool.false_eq_true, if_false, List.nil_append, hhit, ho, hok, hin]
  refine ⟨_, _, ?only, ?plates, ?unit, ?gather, rfl⟩
  case only =>
    exact (((OnlyCore.busyTo ..).trans (OnlyCore.stallTo ..)).trans (OnlyCore.modCore ..)).trans (OnlyCore.delayMarks ..)
  case plates => simp
  case unit => rfl
  case gather => rfl

/-- A run of one such row. -/
theorem exec_stylus_gathers (hu : s.currentIs c (.stylus p) = some u) (he : u.run.endAt = none) :
    ∃ x r, exec (.stylus c p ⟨1, none⟩) s = .next (x.setRun c u.q r) ∧ OnlyCore s x c ∧ (x.core c).plates = (s.core c).plates ∧
      r.unit = u.run.unit + 1 ∧ r.gather = stylusGather p u.run outs := by
  obtain ⟨x, r, hx, hplates, hunit, hgather, hrow⟩ := State.stylusRow_gathers hfirst hleave hload hgroup hlast hd ho hok
  refine ⟨x, r, ?_, hx, hplates, hunit, hgather⟩
  show Host.Outcome.next (s.stylusLoop c p 1) = _
  simp only [State.stylusLoop, hu, he, Option.isSome_none, Bool.false_eq_true, if_false, hrow, if_true]

end stylus

/-! ### The obligation -/

/-- Settles O50. Each clause is the lemma that says what the run of its operation leaves: `exec_preload` and `Core.word_preload`,
`exec_pull` and `State.issuePull_ok`, `exec_outer_promotes`, and `exec_stylus_gathers`. -/
theorem platesAreLoadedPulledAndAccumulated : Obligations.PlatesAreLoadedPulledAndAccumulated := by
  unfold Obligations.PlatesAreLoadedPulledAndAccumulated
  refine ⟨?preload, ?pull, ?plate, ?outer, ?stylus⟩
  case preload =>
    intro c p s u hu he own st hswf hst _ _ h0 h1 hd
    refine ⟨_, _, exec_preload hu he hst hd, State.preloaded_run (State.currentRun_run hu) p _, rfl, State.preloaded_cyc .., ?late, ?loaded, ?others, ?low,
      congrArg PlateInfo.st (State.preloaded_info ..), OnlyCore.preloaded ..⟩
    case late => exact Nat.add_le_add_right (Core.preloadStart_le _ _) _
    case loaded =>
      intro i j hi hj
      rw [State.preloaded_word, Core.word_preload hswf h0 h1 hi hj]
      simp only [true_and, true_or, if_true]
    case others =>
      intro a i j _ ha hlow hi hj
      have hout : ¬ (a = p.plate ∨ p.dword = true ∧ a = p.plate + 4) := fun h => h.elim ha fun h => hlow h.1 h.2
      rw [State.preloaded_word, Core.word_preload hswf h0 h1 hi hj, if_neg fun h => ha h.1, if_neg hout]
    case low =>
      intro hdw i j hi hj
      rw [State.preloaded_word, Core.word_preload hswf h0 h1 hi hj, if_neg (by omega), if_pos (.inr ⟨hdw, rfl⟩)]
  case pull =>
    intro c p s u v e hu he hp hl
    have hv : OnlyDie s v c := by simpa only [hl] using OnlyDie.pullLoop c u p (PullP.walks p - u.run.unit) s u.run.unit (u.run.leaveAt.getD u.run.issued)
    exact ⟨v.pullEnd c u e, exec_pull hu he hp hl, fun _ => rfl, by simp [State.pullEnd], by simp [State.pullEnd], by simp [State.pullEnd],
      hv.trans (OnlyCore.pullEnd v c u e).die, fun _ row hi hw => exec_pull_residue hu he hp hl row hi hw⟩
  case plate =>
    intro c p s v u op plate walk no t fetch _ h s1 own x m
    obtain ⟨w, hw, rfl⟩ := State.pullPlate_ok h
    obtain ⟨hmem, ⟨ports, hcore⟩, -⟩ := State.issuePull_ok hw
    refine ⟨hmem, fun i j hi hj => ?zero, ?shifts, ?count, OnlyDie.pullPlate h⟩
    case zero =>
      rw [core_modCore_same]
      exact (Core.word_zeroPlate _ hi hj).trans (if_pos (.inl rfl))
    case shifts =>
      rw [core_modCore_same]
      exact congrArg PlateInfo.st (Core.info_setInfo ..)
    case count => simp [Core.shiftOut, hcore]
  case outer =>
    intro c p flt s v u e as bs w cells top hu he hn hread hatt plate f hd hunit
    obtain ⟨t, ht, hdone⟩ := exec_outer_promotes hu he hn hread hatt rfl hd hunit
    exact ⟨t, ht, hdone.plates, hdone.unit, hdone.pads, hdone.only⟩
  case stylus =>
    intro c p s u hu he hfirst hleave _ hload hgroup hlast row outs hd hok
    obtain ⟨x, r, hexec, hx, hplates, hunit, hgather⟩ := exec_stylus_gathers hfirst hleave hload hgroup hlast hd rfl hok hu he
    exact ⟨_, r, hexec, setRun_run .., hunit, hgather, by rw [setRun_plates, hplates], hx.trans (OnlyCore.setRun ..)⟩

end Sys2Proof.Machine
end

section
/-! PROOFS. How a transfer operation in hand opens its transfer, and where it ends or waits instead (R105, R140, R141, R145, R170,
R175, R176, R206, R259, R268, R332, R333). -/

namespace Sys2Proof.Machine

open Sys2Proof

/-! ### The destination lines of a transfer -/

/-- Destination lines that only the operation's own marks cover meet no wet line (R176). -/
theorem State.destHit_of_own {s : State} {c : CoreId} {u : Cur} {dests : List (DieId × List Nat)}
    (h : ∀ d ∈ dests, ∀ m ∈ (s.slice d.1).wet, m.line ∈ d.2 → m.own c u.q u.run.op = true) : s.destHit c u dests = none := by
  refine List.findSome?_eq_none_iff.mpr fun d hd => List.find?_eq_none.mpr fun m hm hit => ?_
  simp only [Bool.and_eq_true, decide_eq_true_eq, Bool.not_eq_true'] at hit
  obtain ⟨⟨hline, hother⟩, -⟩ := hit
  exact Bool.false_ne_true (hother.symm.trans (h d hd m hm hline))

/-- The destination lines of a transfer marked by its operation (R175). -/
def State.markDests (s : State) (c : CoreId) (u : Cur) (dests : List (DieId × List Nat)) : State :=
  dests.foldl (fun s d => s.markWet d.1 c u.q u.run.op u.desc.opTag (s.core c).cyc (d.2.map fun l => (l, none))) s

@[simp] theorem State.markDests_fabric (s : State) (c : CoreId) (u : Cur) (dests : List (DieId × List Nat)) :
    (s.markDests c u dests).fabric = s.fabric :=
  List.foldlRecOn (motive := fun v : State => v.fabric = s.fabric) dests _ rfl fun _ h _ _ => h

/-- The transfer of an operation of a core. -/
def State.opXfer (s : State) (c : CoreId) (u : Cur) (kind : XferKind) (fmt : Fmt) (flow : Option Nat) (len start : Nat) (ms : List DieId) : Xfer :=
  { s.newXfer u.ctx kind fmt flow len start with
    core := c, queue := u.q, op := u.run.op, opTag := u.desc.opTag, members := ms, delivered := u.run.acks }

/-- Past its hazard check a transfer marks its destinations, is put on the fabric and issues its first tiles (R175, R206). -/
theorem State.openXfer_of_own {s : State} {c : CoreId} {u : Cur} {dests : List (DieId × List Nat)} (kind : XferKind) (fmt : Fmt) (flow : Option Nat)
    (len start : Nat) (ms : List DieId) (h : ∀ d ∈ dests, ∀ m ∈ (s.slice d.1).wet, m.line ∈ d.2 → m.own c u.q u.run.op = true) :
    let v := s.markDests c u dests
    let x := v.opXfer c u kind fmt flow len start ms
    s.openXfer c u kind fmt flow len start ms dests = ((v.addXfer x).setRun c u.q { u.run with xfer := some x.id }).pump c u.q 256 := by
  unfold State.openXfer
  rw [State.destHit_of_own h]
  rfl

/-! ### Operations that open a transfer -/

/-- The lines that a MOVE marks: those of a scratchpad destination that it has not written (R170, R175). -/
def moveDestLines (p : MoveP) (c : CoreId) (start : Nat) : List (DieId × List Nat) :=
  match p.dst with
  | some r => if p.dstVirt then [] else [(if p.dstRemote then p.dstDie else c.die, linesOf (walkBytes r start (p.len - start)))]
  | none => []

/-- The lines that a STASH_POP marks; a discard pop writes none (R141, R175). -/
def popDestLines (p : PopP) (c : CoreId) (start : Nat) : List (DieId × List Nat) :=
  match p.dst with
  | some r => if p.discard then [] else [(c.die, linesOf (walkBytes r start (p.size - start)))]
  | none => []

section opening
variable {c : CoreId} {s : State} {u : Cur} (he : u.run.endAt = none) (hx : u.run.xfer = none)
include he hx

/-- An operation in hand that has not ended and has no transfer begins. -/
theorem State.runTransfer_begins {op : AkiOp} (hu : s.currentIs c op = some u) (begin_ : Cur → State) : s.runTransfer c op begin_ = begin_ u := by
  simp only [State.runTransfer, hu, he, hx, Option.isSome_none, Bool.false_eq_true, if_false]

theorem exec_move_opens {p : MoveP} (hu : s.currentIs c (.move p) = some u) (hf : p.dstRemote = true → s.fenced (.c p.dstDie) = false) :
    exec (.move c p) s = .next (s.openXfer c u .move .fp32 p.flow p.len u.run.doneBytes [] (moveDestLines p c u.run.doneBytes)) := by
  have hopen : (p.dstRemote && s.fenced (.c p.dstDie)) = false := by
    cases hr : p.dstRemote
    · rfl
    · exact hf hr
  refine congrArg _ ((State.runTransfer_begins he hx hu _).trans ?_)
  rw [hopen]
  rfl

theorem exec_mcast_opens {p : McastP} (hu : s.currentIs c (.mcast p) = some u) (hm : s.castMembers p.mask u.run.acks ≠ []) :
    exec (.mcast c p) s = .next (s.openXfer c u .mcast .fp32 p.flow p.len u.run.doneBytes (s.castMembers p.mask u.run.acks)
      ((s.castMembers p.mask u.run.acks).map fun d => (d, linesOf (walkBytes p.dst u.run.doneBytes (p.len - u.run.doneBytes))))) :=
  congrArg _ ((State.runTransfer_begins he hx hu _).trans (if_neg (by simpa using hm)))

theorem exec_mcast_ends {p : McastP} (hu : s.currentIs c (.mcast p) = some u) (hm : s.castMembers p.mask u.run.acks = []) :
    exec (.mcast c p) s = .next ((if (allDies.any fun d => bit p.mask d.val && s.fenced (.c d)) = true
      then s.recordDelivery c u.desc.opTag u.run.acks else s).endOp c u.q u.run.issued) :=
  congrArg _ ((State.runTransfer_begins he hx hu _).trans (if_pos (by rw [hm]; rfl)))

theorem exec_atomicAdd_opens {p : AtomicP} (hu : s.currentIs c (.atomicAdd p) = some u) :
    exec (.atomicAdd c p) s = .next (s.openXfer c u (.atomic p.ordered p.group p.n p.idx) p.src.fmt p.flow p.len u.run.doneBytes [] []) :=
  congrArg _ (State.runTransfer_begins he hx hu _)

/-- A push whose record and tag fit into the lane opens its transfer (R140). -/
theorem exec_stashPush_opens {p : PushP} {v : State} {w : Cur} (hu : s.currentIs c (.stashPush p) = some u) (hw : s.unmirror c u = (v, w))
    (hroom : (w.x.lane c).pay + padded p.size + 64 * ((w.x.lane c).tags + 1) ≤ w.x.laneSize c) :
    exec (.stashPush c p) s = .next (v.openXfer c w .push .fp32 none p.size w.run.doneBytes [] []) := by
  refine congrArg _ ((State.runTransfer_begins he hx hu _).trans ?_)
  simp only [hw]
  exact if_neg (Nat.not_lt.mpr hroom)

section pop
variable {p : PopP} {v : State} {w : Cur} (hu : s.currentIs c (.stashPop p) = some u) (hw : s.unmirror c u = (v, w)) (ht : (w.x.lane c).tags ≠ 0)
include hu hw ht

/-- A pop of an entry that the mirror does not hold opens its transfer (R141). -/
theorem exec_stashPop_opens (hm : (w.x.lane c).mirrored (w.exec.mirrorAt c) = none) :
    exec (.stashPop c p) s = .next (v.openXfer c w .pop .fp32 none p.size w.run.doneBytes [] (popDestLines p c w.run.doneBytes)) := by
  refine congrArg _ ((State.runTransfer_begins he hx hu _).trans ?_)
  simp only [hw, ht, if_false, hm]
  rfl

/-- A pop of an entry that the mirror holds is served by it (R145). -/
theorem exec_stashPop_mirrored {m : Mirrored} (hm : (w.x.lane c).mirrored (w.exec.mirrorAt c) = some m) :
    exec (.stashPop c p) s = .next (v.popMirror c w p m (popDestLines p c w.run.doneBytes)) := by
  refine congrArg _ ((State.runTransfer_begins he hx hu _).trans ?_)
  simp only [hw, ht, if_false, hm]
  rfl

end pop

/-! ### CLIP_DRAW -/

section draw
variable {p : ClipP} {r : Reservoir} {lane : Nat} (hu : s.currentIs c (.clipDraw p) = some u) (hr : u.x.shuffle = some r) (hl : r.lane? c = some lane)
include hu hr hl

/-- A draw whose destinations are marked goes on with its next clip (R333). -/
theorem exec_clipDraw_marked (hm : ∃ m ∈ (s.slice c.die).wet, m.own c u.q u.run.op = true) :
    exec (.clipDraw c p) s = .next (s.drawNext c u lane r) := by
  refine congrArg _ ((State.runTransfer_begins he hx hu _).trans ?_)
  simp only [State.clipDrawStep, hr, Option.bind_some, hl]
  exact if_pos (List.any_eq_true.mpr hm)

/-- A draw without marks on dry destinations marks them first (R175). -/
theorem exec_clipDraw_dry (hm : ∀ m ∈ (s.slice c.die).wet, m.own c u.q u.run.op = false)
    (hd : s.dry c u (linesOf (drawRest p r.cfg.slotBytes u.run))) :
    exec (.clipDraw c p) s = .next ((s.markWet c.die c u.q u.run.op u.desc.opTag (s.core c).cyc
      ((linesOf (drawRest p r.cfg.slotBytes u.run)).map fun l => (l, none))).drawNext c u lane r) := by
  have hnone : ((s.slice c.die).wet.any fun m => m.own c u.q u.run.op) = false := List.any_eq_false.mpr fun m h => by simp [hm m h]
  refine congrArg _ ((State.runTransfer_begins he hx hu _).trans ?_)
  simp only [State.clipDrawStep, hr, Option.bind_some, hl, hnone, Bool.false_eq_true, if_false, hd.wetHit]

/-- A draw that waits goes on once its slot is filled (R332). -/
theorem exec_drawSlotFilled_draws {q : Nat} (hq : assoc? lane r.want = some q) (hf : r.holds q = true) :
    exec (.drawSlotFilled c) s = .next (s.drawNext c u lane r) := by
  obtain ⟨hcur, hop⟩ := State.current_of_currentIs hu
  show execDrawSlotFilled c s = _
  simp only [execDrawSlotFilled, hcur, hop, hr, Option.bind_some, hl, hu, hx, he, hq, hf, Option.isNone_some, Option.isSome_none, Bool.or_false,
    Bool.false_eq_true, if_false, if_true]

end draw

end opening

/-! ### The number that a draw finds -/

section seek
variable {r v : Reservoir} {lane q : Nat} (hs : r.seek lane seekFuel = (v, some q)) (s : State) (c : CoreId) (u : Cur)
include hs

/-- A number in a filled slot: the copy of the slot opens, and a draw that has waited waits no more (R332, R333). -/
theorem State.drawNext_filled (hf : v.holds q = true) :
    let w := s.modShuffle u.ctx fun _ => { v with want := assocDel lane v.want }
    s.drawNext c u lane r = (if (assoc? lane v.want).isSome = true then w.waited c u.x else w).openXfer c u (.draw (q % v.slots)) .fp32 none
      v.cfg.slotBytes u.run.doneBytes [] [] := by
  simp only [State.drawNext, hs, hf, if_true]

/-- A number whose slot is not filled is noted, and the draw waits for it (R332). -/
theorem State.drawNext_waits (hf : v.holds q = false) :
    s.drawNext c u lane r = s.modShuffle u.ctx fun _ => { v with want := assocSet lane q v.want } := by
  simp only [State.drawNext, hs, hf, Bool.false_eq_true, if_false]

end seek

/-! ### BUCKET_SEND -/

/-- The waits of other operations for the queues of a ring (R268). -/
def Cur.otherWaits (u : Cur) (c : CoreId) : List (CoreId × Nat × List Nat) := u.x.grad.waits.filter fun w => !(w.1 == c && w.2.1 == u.run.op)

/-- The bucket that a BUCKET_SEND hands to its replica, its signal and its pinned pages with it (R268). -/
def Cur.sentBucket (u : Cur) (c : CoreId) (p : BucketP) (pages : List Nat) : SentBucket :=
  ⟨p.bucket, c, u.q, u.run.op, u.desc.opTag, if u.desc.sigEn then some (u.desc.sigCtr, u.desc.sigCore, u.desc.sigInc) else none, pages, p.addr⟩

section bucket
variable {c : CoreId} {p : BucketP} {s : State} {u : Cur} {g : GradConfigP} {i : Nat} {r : Replica} {pages : List Nat}
  (he : u.run.endAt = none) (hu : s.currentIs c (.bucketSend p) = some u) (hg : u.x.grad.cfg = some g)
  (hi : (List.range u.x.grad.replicas.length).find? (fun i => (u.x.grad.replicas.map fun r => r.die)[i]? == some c.die) = some i)
  (hr : u.x.grad.replica? (u.x.grad.base + i) = some r) (hp : s.pinBucket u c p = .ok pages)
include he hu hg hi hr hp

/-- A bucket that its replica's queue takes stands at the end of it, and its operation ends (R268). -/
theorem exec_bucketSend_queued (ht : r.takes p.bucket g.bucketCount = true) :
    let v := (s.modCtx u.ctx fun x => { x with grad := ({ x.grad with waits := u.otherWaits c } : Grad).modReplica (u.x.grad.base + i) fun r =>
      { r with queue := r.queue ++ [u.sentBucket c p pages] } }).waited c u.x
    exec (.bucketSend c p) s = .next (v.endOp c u.q (v.core c).cyc) := by
  show execBucketSend c p s = _
  simp only [execBucketSend, hu, he, hg, hi, hr, hp, ht, Option.isSome_none, Bool.not_true, Bool.false_eq_true, if_false]
  rfl

/-- A bucket that the queue does not take waits with its pages (R268). -/
theorem exec_bucketSend_waits (ht : r.takes p.bucket g.bucketCount = false) :
    exec (.bucketSend c p) s = .next (s.modCtx u.ctx fun x => { x with grad := { x.grad with waits := u.otherWaits c ++ [(c, u.run.op, pages)] } }) := by
  show execBucketSend c p s = _
  simp only [execBucketSend, hu, he, hg, hi, hr, hp, ht, Option.isSome_none, Bool.not_false, Bool.false_eq_true, if_false, if_true]
  rfl

end bucket

/-! ### The obligation -/

/-- Settles O51. Each operation begins by `State.runTransfer_begins`; what its beginning does is the lemma named after it, and what opening
does is `State.openXfer_of_own`. -/
theorem transferOperationsOpen : Obligations.TransferOperationsOpen := by
  unfold Obligations.TransferOperationsOpen
  refine ⟨fun c s u he hx => ⟨?move, ?mcast, ?atomic, ?push, ?pop, ?draw, ?bucket⟩, ?opens, ?next, ?filled⟩
  case move => exact fun p hu hf => exec_move_opens he hx hu hf
  case mcast => exact fun p hu => ⟨exec_mcast_opens he hx hu, exec_mcast_ends he hx hu⟩
  case atomic => exact fun p hu => exec_atomicAdd_opens he hx hu
  case push => exact fun p v w hu hw hroom => exec_stashPush_opens he hx hu hw hroom
  case pop => exact fun p v w hu hw ht => ⟨exec_stashPop_opens he hx hu hw ht, fun m => exec_stashPop_mirrored he hx hu hw ht⟩
  case draw => exact fun p r lane hu hr hl => ⟨exec_clipDraw_marked he hx hu hr hl, exec_clipDraw_dry he hx hu hr hl⟩
  case bucket =>
    exact fun p g i r pages hu hg hi hr hp => ⟨exec_bucketSend_queued he hu hg hi hr hp, exec_bucketSend_waits he hu hg hi hr hp⟩
  case opens =>
    intro c s u kind fmt flow len start ms dests h
    have hid : ((s.markDests c u dests).opXfer c u kind fmt flow len start ms).id = s.fabric.nextId :=
      congrArg Fabric.nextId (s.markDests_fabric c u dests)
    refine ⟨(s.markDests c u dests).opXfer c u kind fmt flow len start ms, hid, rfl, rfl, rfl, rfl, rfl, rfl, rfl, rfl, ?_⟩
    exact State.openXfer_of_own kind fmt flow len start ms h
  case next => exact fun c s u lane q r v hs => ⟨State.drawNext_filled hs s c u, State.drawNext_waits hs s c u⟩
  case filled => exact fun c s u p r lane q hu hr hl hx he hq hf => exec_drawSlotFilled_draws he hx hu hr hl hq hf

end Sys2Proof.Machine
end

section
/-! PROOFS. What the events of tiles do: tags, far-tier completions, packets, raster slots, acknowledgements and adders (R105, R107, R213,
R214, R217, R227 to R229, R239 to R241, R246, R253, R257, R259 to R261, R412, R429). -/

namespace Sys2Proof.Machine

open Sys2Proof

/-! ### Transfers and their pieces -/

/-- A transfer is found in the fabric alone. -/
theorem State.xfer?_congr {s t : State} (h : s.fabric = t.fabric) (i : Nat) : s.xfer? i = t.xfer? i := by
  unfold State.xfer?
  rw [h]

/-- A piece with its transfer. -/
theorem State.tile_found {s : State} {i seq : Nat} {x : Xfer} {p : Piece} (hx : s.xfer? i = some x) (hp : x.piece? seq = some p) :
    ((s.xfer? i).bind fun x => (x.piece? seq).map fun p => (x, p)) = some (x, p) := by
  rw [hx, Option.bind_some, hp, Option.map_some]

/-- Changes that agree on the transfers of an id leave one state. -/
theorem State.modXfer_congr {s : State} {i : Nat} {f g : Xfer → Xfer} (h : ∀ y ∈ s.fabric.xfers, y.id = i → f y = g y) :
    s.modXfer i f = s.modXfer i g :=
  congrArg (fun l => s.modFabric fun b => { b with xfers := l }) (List.map_congr_left fun y hy => if_ctx_congr Iff.rfl (h y hy) fun _ => rfl)

/-- Changes that agree on the pieces of a number leave one state. -/
theorem State.modPiece_congr {s : State} {i seq : Nat} {f g : Piece → Piece}
    (h : ∀ y ∈ s.fabric.xfers, y.id = i → ∀ q ∈ y.pieces, q.seq = seq → f q = g q) : s.modPiece i seq f = s.modPiece i seq g :=
  State.modXfer_congr fun y hy hi => congrArg (fun l => { y with pieces := l })
    (List.map_congr_left fun q hq => if_ctx_congr Iff.rfl (h y hy hi q hq) fun _ => rfl)

/-! ### Tags -/

/-- The tile that has waited longest of those whose turn it is takes the tag: a read is at its controller, a write leaves (R214). -/
theorem exec_tagGrant_granted {b : BedId} {s v : State} {x : Xfer} {p : Piece} {o : Nat} (hc : s.clocked = true)
    (hw : oldestWaiter (s.tagTurn b) = some (x, p, o))
    (ht : ((s.waitedFor x).noteTurn b x o).tryTag x p.seq b o (p.st == .waitWrite) false = (v, true)) :
    exec (.tagGrant b) s = .next (if p.st = .waitRead then v.modPiece x.id p.seq fun p => { p with st := .reading }
      else (v.ship x p.seq p.src.stop p.data).pumpXfer x.id) := by
  show execTagGrant b s = _
  simp only [execTagGrant, hc, hw, ht, Bool.not_true, Bool.false_eq_true, if_false]

@[simp] theorem State.hbmFinds_fabric (s : State) (b o : Nat) (find : HbmFind) : (s.hbmFinds b o find).fabric = s.fabric := by
  cases find <;> rfl

/-- What a controller finds is noted, and the access is served; where the group is good the stack stays (R429). -/
theorem exec_tagRelease_finishes {b : BedId} {stack : Fin 3} {pc : Fin 64} {find : HbmFind} {s : State} {t : Tag} {k o : Nat} (hc : s.clocked = true)
    (ht : (s.bed b).tags.find? (fun t => t.stack == stack && t.pc == pc && s.atController t) = some t) (hplace : s.tagPlace t = some (k, o))
    (hgood : (s.stamp.hbmFinds k o find).hbm.groupBad k o ≤ 1 ∨ 3 * b.val + stack.val ∈ (s.stamp.hbmFinds k o find).hbm.failedStacks) :
    exec (.tagRelease b stack pc find) s = .next ((s.stamp.hbmFinds k o find).finishAccess b t) := by
  show execTagRelease b stack pc find s = _
  simp only [execTagRelease, hc, ht, hplace, hgood, Bool.not_true, Bool.false_eq_true, if_false, if_true]

section access
variable {b k : BedId} {o : Nat} {t : Tag} {x : Xfer} {p : Piece} {s : State} (hx : s.xfer? t.xfer = some x) (hp : x.piece? t.seq = some p)
include hx hp

theorem State.tagPlace_write (hw : t.wr = true) (hd : p.dst = .hbm k o) : s.tagPlace t = some (k.val, o) := by
  simp only [State.tagPlace, hx, hp, Option.bind_some, hw, if_true, hd]

theorem State.tagPlace_read (hw : t.wr = false) (hd : p.src = .hbm k o) : s.tagPlace t = some (k.val, o) := by
  simp only [State.tagPlace, hx, hp, Option.bind_some, hw, Bool.false_eq_true, if_false, hd]

/-- A written tile has landed, and its tag is free (R217). -/
theorem State.finishAccess_write {v : State} (hw : t.wr = true) (hd : p.dst = .hbm k o)
    (hv : (s.modBed b fun k => k.free t.xfer t.seq t.wr s.timeNs).spanWrite k.val o p.data
      ((s.modBed b fun k => k.free t.xfer t.seq t.wr s.timeNs).covers x) = some v) :
    s.finishAccess b t = (v.pieceLanded x.id p.seq).pumpXfer x.id := by
  have hx' : (s.modBed b fun k => k.free t.xfer t.seq t.wr s.timeNs).xfer? t.xfer = some x := hx
  rw [hw] at hx' hv
  simp only [State.finishAccess, hw, hx', hp, hd, hv, if_true]

/-- The data of a read leaves for its destination, and its tag is free (R217). -/
theorem State.finishAccess_read {v : State} {bs : List Byte} (hw : t.wr = false) (hd : p.src = .hbm k o)
    (hv : (s.modBed b fun k => k.free t.xfer t.seq t.wr s.timeNs).pieceRead x k.val o p.len = (some bs, v)) :
    s.finishAccess b t = (v.toDest x p.seq bs true).pumpXfer x.id := by
  have hx' : (s.modBed b fun k => k.free t.xfer t.seq t.wr s.timeNs).xfer? t.xfer = some x := hx
  rw [hw] at hx' hv
  simp only [State.finishAccess, hw, hx', hp, hd, hv, Bool.false_eq_true, if_false]

end access

/-! ### The far tier -/

/-- Whether the place of a far-tier tile lies outside the IDE stream that its context requires (R412). -/
def State.ideBare (s : State) (x : Xfer) (p : Piece) : Bool :=
  match p.src with
  | .far a _ _ _ | .host _ _ a => (s.ctxD x.ctx).ideRequired && !s.ideCovers a
  | _ => false

section far
variable {i seq : Nat} {s : State} {x : Xfer} {p : Piece} (hx : s.xfer? i = some x) (hp : x.piece? seq = some p) (hst : p.st = .farRead)
include hx hp hst

/-- A far-tier read that fails sets FAR_ERROR, fails its tile and frees its place for the next (R227, R228). -/
theorem State.failFar_reading (f : FarFail) :
    let w := s.modHbm fun h => { h with farErr := true }
    s.failFar i seq f = (w.pieceFailed i seq f.status (w.addrOf x p.off false) (farWhy false f)).nextFar := by
  simp only [State.failFar, hx, hp, hst, if_true]

variable (hc : s.clocked = true)
include hc

omit hx hp hst in
theorem exec_farTierTileFail_fails : exec (.farTierTileFail i seq) s = .next (s.failFar i seq .error) := congrArg _ (if_pos hc)

theorem exec_farTierTimeout_fails : exec (.farTierTimeout i seq) s =
    .next (({ s with timeNs := max s.timeNs (p.issuedNs + p.limitNs) } : State).failFar i seq .timeout) := by
  show execFarTierTimeout i seq s = _
  simp only [execFarTierTimeout, hc, State.tile_found hx hp, hst, Bool.not_true, Bool.false_eq_true, if_false, if_true]

/-- Data outside the IDE stream that the context requires is refused (R412). -/
theorem exec_pcieReadCompletion_refused (bytes : List Byte) (hb : s.ideBare x p = true) :
    exec (.pcieReadCompletion i seq bytes) s = .next (s.failFar i seq .error) := by
  have hb' : (decide (p.st = .farRead) && s.ideBare x p) = true := by rw [hb, hst]; rfl
  show execPcieReadCompletion i seq bytes s = _
  simp only [execPcieReadCompletion, hc, State.tile_found hx hp, Bool.not_true, Bool.false_eq_true, if_false]
  exact congrArg _ (if_pos hb')

/-- Data that is let in is collected up to the tile's length; a tile that is whole goes on (R227). -/
theorem exec_pcieReadCompletion_taken (bytes : List Byte) (hb : s.ideBare x p = false) :
    exec (.pcieReadCompletion i seq bytes) s = .next (if ((p.data ++ bytes).take p.len).length < p.len
      then s.modPiece i seq fun q => { q with data := (p.data ++ bytes).take p.len }
      else (((s.modPiece i seq fun p => { p with st := .moving }).toDest x seq ((p.data ++ bytes).take p.len) true).nextFar).pumpXfer i) := by
  have hb' : ¬ (decide (p.st = .farRead) && s.ideBare x p) = true := by simp [hb]
  show execPcieReadCompletion i seq bytes s = _
  simp only [execPcieReadCompletion, hc, State.tile_found hx hp, Bool.not_true, Bool.false_eq_true, if_false]
  exact congrArg _ ((if_neg hb').trans (if_pos hst))

/-- A tile that is not whole gets the data of the piece found and the bytes after it, and so does any other piece of its number. -/
theorem exec_pcieReadCompletion_part (bytes : List Byte) (hb : s.ideBare x p = false) (hn : (p.data ++ bytes).length < p.len) :
    exec (.pcieReadCompletion i seq bytes) s = .next (s.modPiece i seq fun q => { q with data := p.data ++ bytes }) := by
  rw [exec_pcieReadCompletion_taken hx hp hst hc bytes hb, List.take_of_length_le hn.le, if_pos hn]

theorem exec_pcieReadCompletion_whole (bytes : List Byte) (hb : s.ideBare x p = false) (hn : p.len ≤ (p.data ++ bytes).length) :
    exec (.pcieReadCompletion i seq bytes) s =
      .next ((((s.modPiece i seq fun p => { p with st := .moving }).toDest x seq ((p.data ++ bytes).take p.len) true).nextFar).pumpXfer i) := by
  have htake : ¬ ((p.data ++ bytes).take p.len).length < p.len := by rw [List.length_take]; omega
  rw [exec_pcieReadCompletion_taken hx hp hst hc bytes hb, if_neg htake]

/-- Where the pieces of one number hold the same data, each keeps its own and takes the bytes after it: the clause of O53 as it holds of a
device that numbers the pieces of a transfer apart. -/
theorem exec_pcieReadCompletion_appends (bytes : List Byte) (hb : s.ideBare x p = false) (hn : (p.data ++ bytes).length < p.len)
    (hsame : ∀ y ∈ s.fabric.xfers, y.id = i → ∀ q ∈ y.pieces, q.seq = seq → q.data = p.data) :
    exec (.pcieReadCompletion i seq bytes) s = .next (s.modPiece i seq fun q => { q with data := q.data ++ bytes }) := by
  rw [exec_pcieReadCompletion_part hx hp hst hc bytes hb hn]
  exact congrArg _ (State.modPiece_congr fun y hy hi q hq hs => by rw [hsame y hy hi q hq hs])

end far

/-- A transfer after the return of its first flush, up to `upTo`: the posted pieces below are complete (R229). -/
def Xfer.flushReturned (x : Xfer) (upTo : Nat) (rest : List Nat) : Xfer :=
  let covered := fun (p : Piece) => if p.st = .posted && decide (p.off < upTo) then { p with st := .landed, data := [] } else p
  { x with flushing := rest, flushed := max x.flushed upTo, pieces := x.pieces.map covered }

/-- A flush that returns completes the posted pieces that it covers (R229). -/
theorem exec_farFlushReturn_covers {i upTo : Nat} {rest : List Nat} {s : State} {x : Xfer} (hc : s.clocked = true) (hx : s.xfer? i = some x)
    (hf : x.flushing = upTo :: rest) :
    exec (.farFlushReturn i none) s = .next ((((s.modXfer i fun y => y.flushReturned upTo rest).afterPiece i).nextFar).pumpXfer i) := by
  show execFarFlushReturn i none s = _
  simp only [execFarFlushReturn, hc, hx, hf, Bool.not_true, Bool.false_eq_true, if_false]
  rfl

/-! ### Packets -/

section reach
variable (s : State) {p : Pkt} {stop : Fin 5}

/-- A packet at its destination, which is no replication stop, is delivered (R259). -/
theorem State.reach_destination (hd : stop = p.dst) (hr : stop ∉ p.drops) : s.reach p stop = s.deliver p stop := by
  simp only [State.reach, hr, if_false]
  exact if_pos hd

/-- A packet on its way passes a stop that is none of its replication stops (R259). -/
theorem State.reach_passes (hd : stop ≠ p.dst) (hr : stop ∉ p.drops) :
    s.reach p stop = s.onward { p with drops := p.drops.filter fun d => d ≠ stop } stop := by
  simp only [State.reach, hr, hd, if_false]

/-- A packet on its way leaves a copy at a replication stop (R259). -/
theorem State.reach_replicates (hd : stop ≠ p.dst) (hr : stop ∈ p.drops) :
    s.reach p stop = (s.deliver p stop).onward { p with drops := p.drops.filter fun d => d ≠ stop } stop := by
  simp only [State.reach, hr, hd, if_true, if_false]

end reach

/-- The retries of a crossing counted at its link, which is down after the 16th that fails (R239, R240). -/
def State.noteRetries (s : State) (l : LinkId) (crc : Nat) : State :=
  let k := s.modLink l fun k => { k with retry := satAt (2 ^ 32 - 1) (k.retry + min 16 crc), down := k.down || decide (17 ≤ crc) }
  if min 16 crc = 0 then k else k.countB (min 16 crc)

/-- A packet taken off the fabric. -/
def State.takePkt (s : State) (pkt : Nat) : State := s.modFabric fun f => { f with pkts := f.pkts.filter fun q => q.id != pkt }

section arrival
variable {pkt crc : Nat} {s : State} {p : Pkt} {l : LinkId} (hc : s.clocked = true) (hp : s.fabric.pkts.find? (fun p => p.id == pkt) = some p)
  (hl : p.pos = .flying l)
include hc hp hl

/-- After 16 failed retries what waits for the link goes another way (R240). -/
theorem exec_packetArrival_down (hr : 17 ≤ crc) : exec (.packetArrival pkt crc) s = .next ((s.noteRetries l crc).abandonLink l) := by
  show execPacketArrival pkt crc s = _
  simp only [execPacketArrival, hc, hp, hl, Bool.not_true, Bool.false_eq_true, if_false]
  exact congrArg _ (if_pos hr)

/-- A packet that has crossed its link reaches the stop behind it (R239, R244). -/
theorem exec_packetArrival_reaches (hr : crc ≤ 16) : exec (.packetArrival pkt crc) s =
    .next ((((s.noteRetries l crc).takePkt pkt).reach { p with vc := vcAfter l p.vc, hops := p.hops + 1 } (linkTo l)).pumpXfer p.xfer) := by
  show execPacketArrival pkt crc s = _
  simp only [execPacketArrival, hc, hp, hl, Bool.not_true, Bool.false_eq_true, if_false]
  exact congrArg _ (if_neg (by omega))

end arrival

/-! ### Raster slots -/

/-- The flow that holds a slot of a link; the last slot of each eight is no flow's (R246, R253). -/
def State.slotFlow (s : State) (l : LinkId) (slot : Fin 64) : Option Nat :=
  if slot.val % 8 = 7 then none else (s.raster.find? fun e => bit (nthD 0 e.2 l.val) slot.val).map fun e => e.1

theorem State.slotFlow_held {s : State} {l : LinkId} {slot : Fin 64} {f : Nat × List Nat} (hs : slot.val % 8 ≠ 7)
    (hf : s.raster.find? (fun e => bit (nthD 0 e.2 l.val) slot.val) = some f) : s.slotFlow l slot = some f.1 := by
  rw [State.slotFlow, if_neg hs, hf, Option.map_some]

theorem State.slotFlow_open {s : State} {l : LinkId} {slot : Fin 64}
    (h : slot.val % 8 = 7 ∨ s.raster.find? (fun e => bit (nthD 0 e.2 l.val) slot.val) = none) : s.slotFlow l slot = none := by
  rcases h with h | h
  · exact if_pos h
  · rw [State.slotFlow, h, Option.map_none, ite_self]

/-- The packets of a flow of the running context that wait for a link, as a slot sends them (R246). -/
def State.waitingFor (s : State) (l : LinkId) (f : Nat) : List Pkt :=
  s.fabric.pkts.filter fun p => p.flow == some f && some p.ctx == s.running && (match p.pos with
    | .queued k q => k == l && q == 0
    | .flying _ => false)

section slot
variable {l : LinkId} {slot : Fin 64} {s : State} (hc : s.clocked = true) (ha : s.fabric.aligned = true) (hd : (s.fabric.links.get l).down = false)
include hc ha hd

/-- A flow's slot sends its packets, and the stop takes what engines held for its room (R246, R250). -/
theorem exec_rasterSlot_held {f : Nat} (hf : (s.noteDepth l).slotFlow l slot = some f) : exec (.rasterSlot l slot) s =
    .next (((s.noteDepth l).sendFlow l f ((s.noteDepth l).waitingFor l f) slotBytes).releaseHeld (linkFrom l)) := by
  show execRasterSlot l slot s = _
  unfold State.slotFlow at hf
  simp only [execRasterSlot, hc, ha, hd, hf, Bool.not_true, Bool.or_false, Bool.false_eq_true, if_false]
  rfl

/-- A slot that no flow holds sends unscheduled packets (R253, R254). -/
theorem exec_rasterSlot_open (hf : (s.noteDepth l).slotFlow l slot = none) :
    exec (.rasterSlot l slot) s = .next ((s.noteDepth l).sendOpen l 64 1 slotBytes) := by
  show execRasterSlot l slot s = _
  unfold State.slotFlow at hf
  simp only [execRasterSlot, hc, ha, hd, hf, Bool.not_true, Bool.or_false, Bool.false_eq_true, if_false]

end slot

/-! ### Acknowledgements -/

/-- An acknowledgement taken off VC4. -/
def State.takeVc4 (s : State) (i : Nat) : State := s.modFabric fun f => { f with vc4 := f.vc4.eraseIdx i }

/-- A member's acknowledgement applied and noted at its transfer and its run (R260, R261). -/
def State.memberAcked (s : State) (k : Nat) (x : Xfer) (u : Cur) (p : McastP) (d : DieId) : State :=
  ((s.applySignal x.ctx p.memCtr (coreOf d p.memCore) 1).modXfer k fun y =>
    { y with delivered := y.delivered ++ [d] }).modQueue x.core u.q fun q => { q with run := q.run.map fun r => { r with acks := r.acks ++ [d] } }

section ack
variable {i k : Nat} {n : CtxId} {s : State} {x : Xfer} (hc : s.clocked = true) (hx : s.xfer? k = some x)
include hc hx

section completion
variable {dest : Nat} (hv : s.fabric.vc4[i]? = some (.ack k n dest))
include hv

/-- An acknowledgement before the last is noted (R257). -/
theorem exec_transferCompletionAck_waits (hd : ∃ d ∈ x.stations, d ∉ x.got ++ [dest]) :
    exec (.transferCompletionAck i) s = .next ((s.takeVc4 i).modXfer k fun y => { y with got := x.got ++ [dest] }) := by
  have hx' : (s.takeVc4 i).xfer? k = some x := hx
  have hall : ¬ (x.stations.all fun d => decide (d ∈ x.got ++ [dest])) = true := by simpa using hd
  show execTransferCompletionAck i s = _
  unfold State.takeVc4 at hx' ⊢
  simp only [execTransferCompletionAck, hc, hv, hx', Bool.not_true, Bool.false_eq_true, if_false]
  exact congrArg _ (if_neg hall)

variable (hd : ∀ d ∈ x.stations, d ∈ x.got ++ [dest])
include hd

/-- The acknowledgement of the last destination ends an operation's transfer (R257). -/
theorem exec_transferCompletionAck_ends (hcmd : x.cmd? = none) : exec (.transferCompletionAck i) s = .next ((s.takeVc4 i).finishXfer x) := by
  have hx' : (s.takeVc4 i).xfer? k = some x := hx
  have hall : (x.stations.all fun d => decide (d ∈ x.got ++ [dest])) = true := by simpa using hd
  show execTransferCompletionAck i s = _
  unfold State.takeVc4 at hx' ⊢
  simp only [execTransferCompletionAck, hc, hv, hx', hall, hcmd, Bool.not_true, Bool.false_eq_true, if_false, if_true]

/-- The acknowledgement of the last destination takes a command on (R364). -/
theorem exec_transferCompletionAck_command {h : CmdHdr} (hcmd : x.cmd? = some h) :
    exec (.transferCompletionAck i) s = .next ((s.takeVc4 i).finishCmd h x) := by
  have hx' : (s.takeVc4 i).xfer? k = some x := hx
  have hall : (x.stations.all fun d => decide (d ∈ x.got ++ [dest])) = true := by simpa using hd
  show execTransferCompletionAck i s = _
  unfold State.takeVc4 at hx' ⊢
  simp only [execTransferCompletionAck, hc, hv, hx', hall, hcmd, Bool.not_true, Bool.false_eq_true, if_false, if_true]

end completion

/-! ### Members -/

section member
variable {d : DieId} {u : Cur} {p : McastP} (hv : s.fabric.vc4[i]? = some (.member k n d)) (hd : d ∈ x.members) (hf : s.fenced (.c d) = false)
  (hu : s.opOf x = some u) (hop : u.desc.op = .mcast p)
include hv hd hf hu hop

/-- The acknowledgement of a member is noted; the last one ends the transfer, and a multicast that was cut short is recorded (R260, R261). -/
theorem exec_mcastMemberAck_acks :
    let w := (s.takeVc4 i).memberAcked k x u p d
    exec (.mcastMemberAck i) s = .next (if (x.members.all fun e => decide (e ∈ x.delivered ++ [d])) = true then
      (if (w.castMembers p.mask []).length < (allDies.filter fun e => bit p.mask e.val).length
        then w.recordDelivery x.core u.desc.opTag (u.run.acks ++ [d]) else w).finishXfer { x with delivered := x.delivered ++ [d] } else w) := by
  have hx' : (s.takeVc4 i).xfer? k = some x := hx
  have hf' : (s.takeVc4 i).fenced (.c d) = false := hf
  have hu' : (s.takeVc4 i).opOf x = some u := hu
  have hopen : ¬ (decide (d ∉ x.members) || false) = true := by simpa using hd
  show execMcastMemberAck i s = _
  unfold State.takeVc4 at hx' hf' hu' ⊢
  simp only [execMcastMemberAck, hc, hv, hx', hf', hu', hop, hopen, Bool.not_true, Bool.false_eq_true, if_false]
  rfl

end member

end ack

/-! ### The near-memory adders -/

section adder
variable {i seq : Nat} {s : State} {x : Xfer} {p : Piece} (hc : s.clocked = true) (hx : s.xfer? i = some x) (hp : x.piece? seq = some p)
include hc hx hp

section contribution
variable {b : BedId} {o : Nat} {ord : Bool} {g n idx : Nat} (hk : x.kind = .atomic ord g n idx) (hd : p.dst = .hbm b o) (hst : p.st = .writing)
include hk hd hst

/-- A wrong sum ends the operation (R428). -/
theorem exec_adderTileArrival_wrong (group : Nat) : exec (.adderTileArrival i seq (some group)) s = .next (s.stamp.adderCheckFails x p b group) := by
  show execAdderTileArrival i seq (some group) s = _
  simp only [execAdderTileArrival, hc, State.tile_found hx hp, hk, hd, hst, ne_eq, not_true_eq_false, Bool.not_true, Bool.false_eq_true, if_false]

/-- An ordered contribution waits for its turn at its adder (R107). -/
theorem exec_adderTileArrival_ordered (ho : ord = true) :
    exec (.adderTileArrival i seq none) s = .next (((s.stamp.ordered x p b o g n idx).pumpXfer i).endIfAccepted i) := by
  show execAdderTileArrival i seq none s = _
  simp only [execAdderTileArrival, hc, State.tile_found hx hp, hk, hd, hst, ho, ne_eq, not_true_eq_false, Bool.not_true, Bool.false_eq_true, if_false, if_true]

/-- An unordered contribution is added as it comes (R105). -/
theorem exec_adderTileArrival_unordered {v : State} (ho : ord = false) (hv : s.stamp.adderApply b.val o x.fmt p.data = some v) :
    exec (.adderTileArrival i seq none) s = .next ((((v.accepted x p b).applied i seq).pumpXfer i).endIfAccepted i) := by
  show execAdderTileArrival i seq none s = _
  simp only [execAdderTileArrival, hc, State.tile_found hx hp, hk, hd, hst, ho, hv, ne_eq, not_true_eq_false, Bool.not_true, Bool.false_eq_true, if_false]

end contribution

/-- A refused contribution is sent again (R107). -/
theorem exec_adderResend_refused (hst : p.st = .refused) : exec (.adderResend i seq) s = .next (s.ship x seq p.src.stop p.data) := by
  show execAdderResend i seq s = _
  simp only [execAdderResend, hc, State.tile_found hx hp, hst, Bool.not_true, Bool.false_eq_true, if_false, if_true]

end adder

/-! ### The obligation -/

/-- The clause of O53 on data that leaves a far-tier tile incomplete: every piece of the tile's number keeps its own data and takes the bytes
after it. -/
def PartsAreAppended : Prop :=
  ∀ (i seq : Nat) (s : State) (x : Xfer) (p : Piece) (bytes : List Byte), s.clocked = true → s.xfer? i = some x → x.piece? seq = some p → p.st = .farRead →
    s.ideBare x p = false → (p.data ++ bytes).length < p.len →
    exec (.pcieReadCompletion i seq bytes) s = .next (s.modPiece i seq fun q => { q with data := q.data ++ bytes })

/-- Every other clause of O53 holds, each by the lemma named after the outcome of its event; what a controller's find notes leaves the fabric,
so the access is still that of its tile (`State.hbmFinds_fabric`). -/
theorem transferEventsAct_iff_partsAreAppended : Obligations.TransferEventsAct ↔ PartsAreAppended := by
  unfold Obligations.TransferEventsAct
  refine ⟨fun ⟨_, _, far, _⟩ i seq s x p bytes hc hx hp hst => ((far i seq s x p hc hx hp hst).2.2 bytes).2.1, fun happends => ?_⟩
  refine ⟨?grant, ?release, ?far, ?flush, ?packet, ?slot, ?acks, ?adder⟩
  case grant =>
    intro b s v x p o hc hw ht
    have hgrant := exec_tagGrant_granted hc hw ht
    exact ⟨fun hp => hgrant.trans (congrArg _ (if_pos hp)), fun hp => hgrant.trans (congrArg _ (if_neg hp))⟩
  case release =>
    intro b k stack pc find o s v t x p bs hc ht hx hp f w hgood
    have hxf : f.xfer? t.xfer = some x := (State.xfer?_congr (State.hbmFinds_fabric _ _ _ _) _).trans hx
    refine ⟨fun hw hd hv => ?write, fun hw hd hv => ?read⟩
    case write => rw [exec_tagRelease_finishes hc ht (State.tagPlace_write hx hp hw hd) hgood, State.finishAccess_write hxf hp hw hd hv]
    case read => rw [exec_tagRelease_finishes hc ht (State.tagPlace_read hx hp hw hd) hgood, State.finishAccess_read hxf hp hw hd hv]
  case far =>
    intro i seq s x p hc hx hp hst lost bare
    have hlost : ∀ f, s.failFar i seq f = lost s f := State.failFar_reading hx hp hst
    refine ⟨?fail, ?timeout, fun bytes => ⟨fun hb => ?refused, fun hb hn => ?part, fun hb hn => ?whole⟩⟩
    case fail => rw [exec_farTierTileFail_fails hc, hlost]
    case timeout =>
      rw [exec_farTierTimeout_fails hx hp hst hc]
      exact congrArg _ (State.failFar_reading (s := { s with timeNs := max s.timeNs (p.issuedNs + p.limitNs) }) hx hp hst .timeout)
    case refused => rw [exec_pcieReadCompletion_refused hx hp hst hc bytes hb, hlost]
    case part => exact happends i seq s x p bytes hc hx hp hst hb hn
    case whole => exact exec_pcieReadCompletion_whole hx hp hst hc bytes hb hn
  case flush => exact fun i upTo rest s x hc hx hf => exec_farFlushReturn_covers hc hx hf
  case packet =>
    intro pkt crc s p l hc hp hl k w v q
    have hreach : crc ≤ 16 → exec (.packetArrival pkt crc) s = .next ((v.reach q (linkTo l)).pumpXfer p.xfer) := exec_packetArrival_reaches hc hp hl
    refine ⟨exec_packetArrival_down hc hp hl, fun hr hd hdrop => ?last, fun hr hd hdrop => ?passes, fun hr hd hdrop => ?replicates⟩
    case last => rw [hreach hr, v.reach_destination (p := q) hd hdrop]
    case passes => rw [hreach hr, v.reach_passes (p := q) hd hdrop]
    case replicates => rw [hreach hr, v.reach_replicates (p := q) hd hdrop]
  case slot =>
    intro l slot s hc ha hd v
    exact ⟨fun f hs hf => exec_rasterSlot_held hc ha hd (State.slotFlow_held hs hf), fun h => exec_rasterSlot_open hc ha hd (State.slotFlow_open h)⟩
  case acks =>
    intro i k n s x hc hx v
    refine ⟨fun dest hv => ⟨?ends, ?command, ?waits⟩, fun d u p hv hd hf hu hop => ?member⟩
    case ends => exact fun hall hcmd => exec_transferCompletionAck_ends hc hx hv hall hcmd
    case command => exact fun h hall hcmd => exec_transferCompletionAck_command hc hx hv hall hcmd
    case waits => exact fun hsome => exec_transferCompletionAck_waits hc hx hv hsome
    case member =>
      have hack := exec_mcastMemberAck_acks hc hx hv hd hf hu hop
      exact ⟨fun hsome => hack.trans (congrArg _ (if_neg (by simpa using hsome))), fun hall => hack.trans (congrArg _ (if_pos (by simpa using hall)))⟩
  case adder =>
    intro i seq s v x p b o g n idx hc hx hp
    refine ⟨?unordered, ?ordered, ?wrong, exec_adderResend_refused hc hx hp⟩
    case unordered => exact fun hk hd hst hv => exec_adderTileArrival_unordered hc hx hp hk hd hst rfl hv
    case ordered => exact fun hk hd hst => exec_adderTileArrival_ordered hc hx hp hk hd hst rfl
    case wrong => exact fun ord g n idx group hk hd hst => exec_adderTileArrival_wrong hc hx hp hk hd hst group

/-! ### Two pieces of one number -/

/-- A far-tier piece of number 0 that has received `data` of its four bytes. -/
def farPiece (data : List Byte) : Piece where
  seq := 0
  off := 0
  len := 4
  src := .far 0x1000 false false none
  dst := .scratch 0 [0, 1, 2, 3]
  st := .farRead
  data := data
  left := []
  issuedNs := 0
  limitNs := 0

/-- A clocked device with one transfer, whose two pieces have one number and different data. -/
def twinPieces : State :=
  { State.reset with
    clk := { Clock.reset with inReset := false, booted := true }
    fabric := { Fabric.reset with xfers := [{ State.reset.newXfer 0 .move .fp32 none 8 0 with pieces := [farPiece [1], farPiece [2]] }] } }

/-- The data of the pieces on the fabric. -/
def State.pieceData (s : State) : List (List Byte) := s.fabric.xfers.flatMap fun x => x.pieces.map fun p => p.data

/-- Refutes O53. The statement is about every state, also one whose transfer holds two pieces of number 0, with the data 1 and 2. When a byte 3
arrives for number 0, the model leaves 1 and 3 in both, and the statement's change leaves 2 and 3 in the second. The clause holds where the
pieces of a number agree (`exec_pcieReadCompletion_appends`), and the other clauses hold (`transferEventsAct_iff_partsAreAppended`). -/
theorem not_transferEventsAct : ¬ Obligations.TransferEventsAct := by
  intro h
  have hclause := transferEventsAct_iff_partsAreAppended.mp h 0 0 twinPieces _ (farPiece [1]) [3] rfl rfl rfl rfl rfl (by decide)
  have hmodel := exec_pcieReadCompletion_part (i := 0) (seq := 0) (s := twinPieces) (p := farPiece [1]) rfl rfl rfl rfl [3] rfl (by decide)
  have hdata := congrArg State.pieceData (Host.Outcome.next.inj (hmodel.symm.trans hclause))
  exact absurd hdata (by decide +kernel)

end Sys2Proof.Machine
end

section
/-! PROOFS. The units of the vector unit and the row unit: VEC, GRAD_GATHER and ROW (R126, R130 to R134, R150, R163, R169, R175, R176). -/

namespace Sys2Proof

open Machine

/-! ### What a unit of a VEC works with -/

/-- Whether a set skip flag passes over an optimizer at its first unit (R134). -/
def VecP.skips (p : VecP) (m : Sparse Byte) (r : Run) : Bool := VecFunc.isOpt p.func && p.skip && r.unit == 0 && wordAt m p.flagWord != 0

/-- The step counter as a unit has it: read at the first, kept for the others (R132, R134). -/
def VecP.stepAt (p : VecP) (m : Sparse Byte) (r : Run) : Nat := if r.unit = 0 ∧ r.first = true then wordAt m p.stepCtr else r.stepCtr

/-- The running sum of the source after a unit (R133). -/
def VecP.accAt (p : VecP) (m : Sparse Byte) (r : Run) : Nat :=
  let vals := (unitElems p.elems p.unitSize r.unit).map fun n => (p.inp 0).word m (p.index n)
  if r.unit = 0 then (match vals with
    | [] => 0
    | v :: l => l.foldl f32Add v) else vals.foldl f32Add (nthD 0 (r.gather.getD 0 []) 0)

/-- What the unit in hand of a VEC writes (R131). -/
def VecP.unitPuts (p : VecP) (m : Sparse Byte) (u : Cur) : List Put :=
  (unitElems p.elems p.unitSize u.run.unit).flatMap fun n => p.puts m u.x.srKey u.run.epoch (p.stepAt m u.run) (p.accAt m u.run) n

/-- What the unit in hand of a VEC reads; what it reads at its issue comes with the first unit after one (R169). -/
def VecP.unitReads (p : VecP) (r : Run) : List Nat :=
  (if r.first then p.sideBytes else []) ++ (unitElems p.elems p.unitSize r.unit).flatMap fun n => p.reads n

/-! ### What a unit of a GRAD_GATHER works with -/

/-- What the group in hand of a GRAD_GATHER reads: its slots, and its destination where it accumulates (R150). -/
def GatherP.unitReads (p : GatherP) (r : Run) : List Nat :=
  (unitElems (GatherP.elems p) 256 r.unit).flatMap fun n =>
    ((List.range p.n).flatMap fun i => (GatherP.slotRec p i).touch (p.dst.indexFrom 0 n)) ++
    (if p.accumulate then p.dst.touch (p.dst.indexFrom 0 n) else [])

/-! ### What a unit of a ROW works with -/

/-- The row and the chunk pass of a unit of a ROW (R126). -/
abbrev RowP.rowAt (p : RowP) (k : Nat) : Nat := k / (2 * rowChunks p.n)
abbrev RowP.passAt (p : RowP) (k : Nat) : Nat := k % (2 * rowChunks p.n)

/-- What unit `k` of a ROW reads: the inputs of its chunk, and the column accumulators in pass 2 (R126). -/
def RowP.unitReads (p : RowP) (k : Nat) : List Nat :=
  ((rowChunk p.n (p.passAt k % rowChunks p.n)).flatMap fun e => rowInBytes p (p.rowAt k) e) ++
    (if p.passAt k < rowChunks p.n then []
     else (rowOuts p).2.1.flatMap fun a => (rowChunk p.n (p.passAt k % rowChunks p.n)).flatMap fun e => a.touch (a.indexFrom 0 e))

/-- What unit `k` of a ROW writes: pass 1 leaves the slice as it is (R126). -/
def RowP.unitWrites (p : RowP) (k : Nat) : List Nat :=
  if rowChunks p.n ≤ p.passAt k then rowPassBytes p (p.rowAt k) (p.passAt k - rowChunks p.n) else []

/-- The cycles by which the first chunk after an issue starts later where its pass began before the issue. -/
def RowP.again (p : RowP) (r : Run) : Nat := if p.passAt r.unit % rowChunks p.n ≠ 0 ∧ r.first = true then 52 else 0

/-- The lane totals after the chunk in hand of pass 1; a row begins with empty lanes (R126). -/
def RowP.pass1At (p : RowP) (m : Sparse Byte) (r : Run) : Lanes :=
  rowPass1 p m (p.rowAt r.unit) (p.passAt r.unit) (if p.passAt r.unit = 0 then Lanes.empty else r.stats)

/-- What the chunk in hand of pass 2 writes, and its lanes, from what pass 1 gave (R126, R130). -/
def RowP.pass2At (p : RowP) (m : Sparse Byte) (r : Run) : List Put × Lanes :=
  rowPass2 p m (p.rowAt r.unit) (p.passAt r.unit - rowChunks p.n) (r.gather.getD 0 []) r.stats

/-- What both passes over buffered row `i` write (R126). -/
def RowP.bufferedPuts (p : RowP) (m : Sparse Byte) (i : Nat) : List Put :=
  let fin := rowFin p m i (rowPass1 p m i 0 Lanes.empty)
  let pass := rowPass2 p m i 0 fin Lanes.empty
  pass.1 ++ rowLast p i fin pass.2

end Sys2Proof

namespace Sys2Proof.Machine

open Sys2Proof

/-! ### The issue of a unit -/

theorem State.dry_nil (s : State) (c : CoreId) (u : Cur) : s.dry c u (linesOf []) := fun _ _ h => nomatch h

/-- Units from `k` on that write dry lines are marked, and reads of dry lines meet none of the marks (R175, R176). -/
theorem State.openWriter_of_dry {s : State} {c : CoreId} {u : Cur} {n k : Nat} {f : Nat → List Nat} (cyc : Nat → Nat) (e : Nat)
    (h : ∀ g, k ≤ g → g < n → s.dry c u (linesOf (f g))) :
    ∃ v, s.openWriter c u (((List.range n).drop k).map fun g => (f g, cyc g)) e = .ok v ∧ OnlyCore s v c ∧ v.cores = s.cores ∧
      ∀ ls t, s.dry c u ls → v.wetHit c u.q u.run.op t ls = none := by
  have hunits : ∀ b ∈ ((List.range n).drop k).map fun g => (f g, cyc g), s.dry c u (linesOf b.1) := by
    intro b hb
    obtain ⟨g, hg, rfl⟩ := List.mem_map.mp hb
    rw [List.range_eq_range', List.drop_range', List.mem_range'_1] at hg
    exact h g (by omega) (by omega)
  obtain ⟨v, hv⟩ := State.openWriter_dry e hunits
  obtain ⟨honly, hcores⟩ := OnlyCore.openWriter hv
  exact ⟨v, hv, honly, hcores, fun ls t hd => (hd.mono (State.openWriter_wet hv)).wetHit t⟩

/-! ### The end of a unit -/

/-- From `s` to `t` a unit of the operation at the head of queue `q` has put `puts` into the slice and left the run `r`, whether the operation
ends with it or not. The plates keep their words, and outside the core and the slice of its die only wet marks change. -/
structure UnitRun (s t : State) (c : CoreId) (q : QueueId) (puts : List Put) (r : Run) : Prop where
  mem : (t.slice c.die).mem = applyPuts (s.slice c.die).mem puts
  run : ∃ o e, ((t.core c).queue q).run = some { r with outcome := o, endAt := e }
  plates : (t.core c).plates = (s.core c).plates
  only : OnlyDie s t c

/-- The run of a unit that has ended at cycle `last`. -/
def Run.after (r : Run) (last : Nat) : Run := { r with unit := r.unit + 1, first := false, lastEnd := last, leaveAt := none }

theorem OnlyCore.unitDone (s : State) (c : CoreId) (u : Cur) (late last : Nat) (r : Run) : OnlyCore s (s.unitDone c u late last r) c :=
  ((OnlyCore.delayMarks ..).trans (OnlyCore.busyTo ..)).trans (OnlyCore.setRun ..)

@[simp] theorem unitDone_plates (s : State) (c : CoreId) (u : Cur) (late last : Nat) (r : Run) :
    ((s.unitDone c u late last r).core c).plates = (s.core c).plates := by simp [State.unitDone]

section unit
variable {s v : State} {c : CoreId} (ho : OnlyCore s v c) (hc : v.cores = s.cores) (u : Cur) (late last : Nat) (r : Run)
include ho hc

/-- A unit that writes nothing. -/
theorem UnitRun.done : UnitRun s (v.unitDone c u late last r) c u.q [] (r.after last) where
  mem := ((OnlyCore.unitDone v c u late last r).pads _).trans (ho.pads _)
  run := ⟨r.outcome, r.endAt, setRun_run ..⟩
  plates := by rw [unitDone_plates, State.core, hc]; rfl
  only := (ho.trans (OnlyCore.unitDone ..)).die

/-- A unit that writes puts. -/
theorem UnitRun.put (ps : List Put) : UnitRun s ((v.putAll c ps).unitDone c u late last r) c u.q ps (r.after last) where
  mem := by rw [(OnlyCore.unitDone _ c u late last r).pads, State.putAll, slice_modSlice_same, ho.pads]
  run := ⟨r.outcome, r.endAt, setRun_run ..⟩
  plates := by rw [unitDone_plates, State.putAll, core_modSlice, State.core, hc]; rfl
  only := (ho.die.trans (OnlyDie.putAll ..)).trans (OnlyCore.unitDone ..).die

end unit

/-- The end of the operation after a unit changes none of this. -/
theorem UnitRun.endOp {s t : State} {c : CoreId} {q : QueueId} {puts : List Put} {r : Run} (h : UnitRun s t c q puts r) (e : Nat) :
    UnitRun s (t.endOp c q e) c q puts r where
  mem := h.mem
  run := by
    obtain ⟨_, _, hrun⟩ := h.run
    exact ⟨some .ok, some e, by rw [endOp_run, hrun, Option.map_some]⟩
  plates := (endOp_plates ..).trans h.plates
  only := h.only.trans (OnlyCore.endOp ..).die

/-- The next unit. -/
theorem UnitRun.next {s t : State} {c : CoreId} {q : QueueId} {puts : List Put} {r : Run} (h : UnitRun s t c q puts r) :
    (((t.core c).queue q).run.map fun r => r.unit) = some r.unit := by
  obtain ⟨_, _, hrun⟩ := h.run
  rw [hrun, Option.map_some]

/-- The operation ends after its last unit and goes on after another. -/
theorem UnitRun.ends {s t : State} {c : CoreId} {q : QueueId} {puts : List Put} {r : Run} (h : UnitRun s t c q puts r) (last : Prop) [Decidable last]
    (e : Nat) : UnitRun s (if last then (t.endOp c q e, false) else (t, true)).1 c q puts r := by
  split
  · exact h.endOp e
  · exact h

/-! ### VEC -/

/-- Where a VEC is in hand, a run of one unit is that unit. -/
theorem exec_vec_one {c : CoreId} {p : VecP} {s : State} {u : Cur} (hu : s.currentIs c (.vec p) = some u) (he : u.run.endAt = none) :
    exec (.vec c p 1) s = .next (s.vecUnit c u p).1 := by
  show Host.Outcome.next (s.vecLoop c p 1) = _
  simp only [State.vecLoop, hu, he, Option.isSome_none, Bool.false_eq_true, if_false, ite_self]

/-- An optimizer that is passed over ends when its units would have (R134). -/
theorem State.vecUnit_skips {c : CoreId} {p : VecP} {s : State} {u : Cur} (hs : p.skips (s.slice c.die).mem u.run = true)
    (hd : s.dry c u (linesOf p.sideBytes)) : (s.vecUnit c u p).1 = s.endOp c u.q (u.run.leaveAt.getD u.run.issued + 52 + p.restCycles 0 + 24) := by
  unfold VecP.skips at hs
  unfold State.vecUnit
  simp only [hs, if_true, hd.wetHit]

/-- A unit of a VEC on dry lines puts what its elements give (R131). -/
theorem State.vecUnit_runs {c : CoreId} {p : VecP} {s : State} {u : Cur} (hs : p.skips (s.slice c.die).mem u.run = false)
    (hw : ∀ g, u.run.unit ≤ g → g < p.units → s.dry c u (linesOf ((unitElems p.elems p.unitSize g).flatMap fun n => p.writes n)))
    (hr : s.dry c u (linesOf (p.unitReads u.run)))
    (hrec : p.func = .scaleCommit → ∀ n ∈ unitElems p.elems p.unitSize u.run.unit,
      recordOk (readBytes (s.slice c.die).mem ((p.inp 0).byteAt (p.index n)) 128) = true) :
    ∃ r, UnitRun s (s.vecUnit c u p).1 c u.q (p.unitPuts (s.slice c.die).mem u) r ∧ r.unit = u.run.unit + 1 := by
  obtain ⟨v, hv, ho, hc, hdry⟩ := State.openWriter_of_dry p.unitCycles (u.run.issued + 52) hw
  have hread : ∀ t, v.wetHit c u.q u.run.op t _ = none := fun t => hdry _ t hr
  have hok : (decide (p.func = .scaleCommit) && (unitElems p.elems p.unitSize u.run.unit).any fun n =>
      !recordOk (readBytes (s.slice c.die).mem ((p.inp 0).byteAt (p.index n)) 128)) = false := by
    simpa using hrec
  unfold VecP.skips at hs
  unfold VecP.unitReads at hread
  unfold State.vecUnit
  simp only [hs, hv, hread, ho.pads, hok, Bool.false_eq_true, if_false, Bool.and_eq_true, decide_eq_true_eq]
  exact ⟨_, (UnitRun.put ho hc u _ _ _ _).ends _ _, rfl⟩

/-! ### GRAD_GATHER -/

/-- Where a GRAD_GATHER is in hand, a run of one group is that group. -/
theorem exec_gradGather_one {c : CoreId} {p : GatherP} {s : State} {u : Cur} (hu : s.currentIs c (.gradGather p) = some u) (he : u.run.endAt = none) :
    exec (.gradGather c p 1) s = .next (s.gatherUnit c u p).1 := by
  show Host.Outcome.next (s.gatherLoop c p 1) = _
  simp only [State.gatherLoop, hu, he, Option.isSome_none, Bool.false_eq_true, if_false, ite_self]

/-- A group of a GRAD_GATHER on dry lines puts the sums of its slots (R150). -/
theorem State.gatherUnit_runs {c : CoreId} {p : GatherP} {s : State} {u : Cur}
    (hw : ∀ g, u.run.unit ≤ g → g < ceilDiv (GatherP.elems p) 256 →
      s.dry c u (linesOf ((unitElems (GatherP.elems p) 256 g).flatMap fun n => p.dst.destBytes (p.dst.indexFrom 0 n))))
    (hr : s.dry c u (linesOf (p.unitReads u.run))) :
    ∃ r, UnitRun s (s.gatherUnit c u p).1 c u.q
      ((unitElems (GatherP.elems p) 256 u.run.unit).flatMap fun n => gatherPut p (s.slice c.die).mem u.x.srKey u.run.epoch n) r ∧
      r.unit = u.run.unit + 1 := by
  obtain ⟨v, hv, ho, hc, hdry⟩ := State.openWriter_of_dry (fun g => p.n * ceilDiv (min 256 (GatherP.elems p - 256 * g)) 64) (u.run.issued + 52) hw
  have hread : ∀ t, v.wetHit c u.q u.run.op t _ = none := fun t => hdry _ t hr
  unfold GatherP.unitReads at hread
  unfold State.gatherUnit
  simp only [hv, hread, ho.pads]
  exact ⟨_, (UnitRun.put ho hc u _ _ _ _).ends _ _, rfl⟩

/-! ### ROW -/

/-- Where a ROW is in hand, a run of one row or chunk pass is that unit. -/
theorem exec_row_one {c : CoreId} {p : RowP} {s : State} {u : Cur} (hu : s.currentIs c (.row p) = some u) (he : u.run.endAt = none) :
    exec (.row c p 1) s = .next (s.rowUnit c u p).1 := by
  show Host.Outcome.next (s.rowLoop c p 1) = _
  simp only [State.rowLoop, hu, he, Option.isSome_none, Bool.false_eq_true, if_false, ite_self]

section row
variable {c : CoreId} {p : RowP} {s : State} {u : Cur}
  (hw : ∀ k, u.run.unit ≤ k → k < 2 * rowChunks p.n * rowCount p → rowChunks p.n ≤ p.passAt k →
    s.dry c u (linesOf (rowPassBytes p (p.rowAt k) (p.passAt k - rowChunks p.n))))
  (hr : s.dry c u (linesOf (p.unitReads u.run.unit)))
include hw hr

/-- The issue of a ROW unit on dry lines. -/
theorem State.openWriter_row (e : Nat) :
    ∃ v, s.openWriter c u (((List.range (2 * rowChunks p.n * rowCount p)).drop u.run.unit).map fun k => (p.unitWrites k, rowUnitCycles p.n (p.passAt k))) e =
        .ok v ∧ OnlyCore s v c ∧ v.cores = s.cores ∧ ∀ t, v.wetHit c u.q u.run.op t (linesOf (p.unitReads u.run.unit)) = none := by
  have hwrites : ∀ k, u.run.unit ≤ k → k < 2 * rowChunks p.n * rowCount p → s.dry c u (linesOf (p.unitWrites k)) := by
    intro k hk hlt
    unfold RowP.unitWrites
    split
    · exact hw k hk hlt ‹_›
    · exact State.dry_nil s c u
  obtain ⟨v, hv, ho, hc, hdry⟩ := State.openWriter_of_dry (fun k => rowUnitCycles p.n (p.passAt k)) e hwrites
  exact ⟨v, hv, ho, hc, fun t => hdry _ t hr⟩

/-- A row that is buffered runs both its passes (R126). -/
theorem State.rowUnit_buffered (hn : p.n ≤ 16384) :
    ∃ r, UnitRun s (s.rowUnit c u p).1 c u.q (p.bufferedPuts (s.slice c.die).mem (p.rowAt u.run.unit)) r ∧ r.unit = u.run.unit + 2 := by
  obtain ⟨v, hv, ho, hc, hread⟩ := State.openWriter_row hw hr (u.run.issued + 52 + 0)
  unfold RowP.unitWrites at hv
  unfold RowP.unitReads at hread
  unfold State.rowUnit
  simp only [not_lt.mpr hn, if_false, decide_false, Bool.false_and, Bool.false_eq_true, hv, hread, ho.pads]
  exact ⟨_, (UnitRun.put ho hc u _ _ _ _).ends _ _, rfl⟩

/-- A chunk of pass 1 writes nothing: its lanes go to the next chunk, and their totals after the last to pass 2 (R126). -/
theorem State.rowUnit_pass1 (hn : 16384 < p.n) (hp : p.passAt u.run.unit < rowChunks p.n) :
    ∃ r, UnitRun s (s.rowUnit c u p).1 c u.q [] r ∧ r.unit = u.run.unit + 1 ∧
      (p.passAt u.run.unit + 1 < rowChunks p.n → r.stats = p.pass1At (s.slice c.die).mem u.run) ∧
      (p.passAt u.run.unit + 1 = rowChunks p.n →
        r.gather = [rowFin p (s.slice c.die).mem (p.rowAt u.run.unit) (p.pass1At (s.slice c.die).mem u.run)]) := by
  obtain ⟨v, hv, ho, hc, hread⟩ := State.openWriter_row hw hr (u.run.issued + 0 + p.again u.run)
  unfold RowP.again RowP.unitWrites at hv
  unfold RowP.unitReads at hread
  unfold State.rowUnit
  simp only [hn, if_true, decide_true, Bool.true_and, Bool.and_eq_true, decide_eq_true_eq, hv, hread, ho.pads]
  simp only [hp, if_true]
  refine ⟨_, UnitRun.done ho hc u _ _ _, ?unit, fun h => ?lanes, fun h => ?totals⟩
  case unit => split <;> rfl
  case lanes => rw [if_neg h.ne]; rfl
  case totals => rw [if_pos h]; rfl

/-- A chunk of pass 2 puts what its elements give, and the last what the row leaves once (R126). -/
theorem State.rowUnit_pass2 (hn : 16384 < p.n) (hp : rowChunks p.n ≤ p.passAt u.run.unit) :
    ∃ r, UnitRun s (s.rowUnit c u p).1 c u.q ((p.pass2At (s.slice c.die).mem u.run).1 ++ if p.passAt u.run.unit + 1 = 2 * rowChunks p.n then
        rowLast p (p.rowAt u.run.unit) (u.run.gather.getD 0 []) (p.pass2At (s.slice c.die).mem u.run).2 else []) r ∧
      r.unit = u.run.unit + 1 ∧ r.stats = (p.pass2At (s.slice c.die).mem u.run).2 := by
  obtain ⟨v, hv, ho, hc, hread⟩ := State.openWriter_row hw hr (u.run.issued + 0 + p.again u.run)
  unfold RowP.again RowP.unitWrites at hv
  unfold RowP.unitReads at hread
  unfold State.rowUnit
  simp only [hn, if_true, decide_true, Bool.true_and, Bool.and_eq_true, decide_eq_true_eq, hv, hread, ho.pads]
  simp only [not_lt.mpr hp, if_false]
  exact ⟨_, (UnitRun.put ho hc u _ _ _ _).ends _ _, rfl, rfl⟩

end row

/-! ### The obligation -/

/-- Settles O49. A run of one unit is that unit (`exec_vec_one`, `exec_gradGather_one`, `exec_row_one`), and what the unit leaves on dry lines is
said by `State.vecUnit_skips`, `State.vecUnit_runs`, `State.gatherUnit_runs` and, for a buffered row and the two passes of a long one, by
`State.rowUnit_buffered`, `State.rowUnit_pass1` and `State.rowUnit_pass2`. -/
theorem unitsOfVectorsAndRowsComplete : Obligations.UnitsOfVectorsAndRowsComplete := by
  unfold Obligations.UnitsOfVectorsAndRowsComplete
  refine ⟨?vec, ?gather, ?row⟩
  case vec =>
    intro c p s u hu he m skips els step vals acc
    refine ⟨fun hs hw hr hrec => ?runs, fun hs hd => ?passed⟩
    case runs =>
      obtain ⟨r, h, hunit⟩ := State.vecUnit_runs hs hw hr hrec
      exact ⟨_, exec_vec_one hu he, h.mem, hunit ▸ h.next, h.plates, h.only⟩
    case passed => rw [exec_vec_one hu he, State.vecUnit_skips hs hd]
  case gather =>
    intro c p s u hu he m els hw hr
    obtain ⟨r, h, hunit⟩ := State.gatherUnit_runs hw hr
    exact ⟨_, exec_gradGather_one hu he, h.mem, hunit ▸ h.next, h.plates, h.only⟩
  case row =>
    intro c p s u hu he m ch row j hw hr
    rcases le_or_gt p.n 16384 with hn | hn
    · obtain ⟨r, h, hunit⟩ := State.rowUnit_buffered hw hr hn
      obtain ⟨_, _, hrun⟩ := h.run
      exact ⟨_, _, exec_row_one hu he, hrun, h.plates, h.only, fun _ _ => ⟨hunit, h.mem⟩, fun hl => absurd hn hl.not_ge, fun hl => absurd hn hl.not_ge⟩
    rcases lt_or_ge j ch with hj | hj
    · obtain ⟨r, h, hunit, hstats, hgather⟩ := State.rowUnit_pass1 hw hr hn hj
      obtain ⟨_, _, hrun⟩ := h.run
      exact ⟨_, _, exec_row_one hu he, hrun, h.plates, h.only, fun hs => absurd hs hn.not_ge, fun _ _ => ⟨hunit, h.mem, hstats, hgather⟩,
        fun _ hge => absurd hj hge.not_gt⟩
    · obtain ⟨r, h, hunit, hstats⟩ := State.rowUnit_pass2 hw hr hn hj
      obtain ⟨_, _, hrun⟩ := h.run
      exact ⟨_, _, exec_row_one hu he, hrun, h.plates, h.only, fun hs => absurd hs hn.not_ge, fun _ hlt => absurd hlt hj.not_gt,
        fun _ _ => ⟨hunit, hstats, h.mem⟩⟩

end Sys2Proof.Machine
end

section
/-! PROOFS. The sequencer of a core: what dispatch, the control operations, the end and the completion of an operation and the arrival of a
signal leave (R153, R163, R173, R181, R183, R185, R189, R253). -/

namespace Sys2Proof.Machine

open Sys2Proof

/-! ### What acts beside the cores -/

/-- A change of the state that neither reads nor writes cores and slices. -/
def State.Beside (g : State → State) : Prop := ∀ s cs sl, g { s with cores := cs, slices := sl } = { g s with cores := cs, slices := sl }

theorem State.Beside.core {g : State → State} (h : State.Beside g) (s : State) (c : CoreId) : (g s).core c = s.core c := by
  rw [show g s = { g s with cores := s.cores, slices := s.slices } from h s s.cores s.slices]
  rfl

theorem State.Beside.slice {g : State → State} (h : State.Beside g) (s : State) (d : DieId) : (g s).slice d = s.slice d := by
  rw [show g s = { g s with cores := s.cores, slices := s.slices } from h s s.cores s.slices]
  rfl

/-- What an operation of a core has touched is the same where something beside the cores changes before it and after it. -/
theorem OnlyCore.beside {s t : State} {c : CoreId} {g : State → State} (h : OnlyCore s t c) (hg : State.Beside g) : OnlyCore (g s) (g t) c where
  rest := by
    have ht : g t = { g s with cores := t.cores, slices := t.slices } := (congrArg g h.rest).trans (hg s t.cores t.slices)
    rw [ht]
  others k hk := by rw [hg.core, hg.core, h.others k hk]
  pads d := by rw [hg.slice, hg.slice, h.pads d]

theorem State.Beside.id : State.Beside fun s => s := fun _ _ _ => rfl

theorem State.Beside.modCtx (n : CtxId) (f : Ctx → Ctx) : State.Beside fun s => s.modCtx n f := by
  intro s cs sl
  simp only [State.modCtx, State.ctx?]
  cases assoc? n s.ctxs with
  | none => rfl
  | some x => rfl

theorem State.Beside.haltXfer (x : Option Nat) (stop : Bool) : State.Beside fun s => s.haltXfer x stop := by
  cases x with
  | none => exact State.Beside.id
  | some i => exact fun _ _ _ => rfl

/-- The program's raster in effect (R253). -/
def State.setRaster (s : State) (n : CtxId) (e : Exec) : State :=
  if e.rasterOn then s else s.modCtx n fun x => { x with exec := some { e with rasterOn := true } }

theorem State.Beside.setRaster (n : CtxId) (e : Exec) : State.Beside fun s => s.setRaster n e := by
  unfold State.setRaster
  split
  · exact State.Beside.id
  · exact State.Beside.modCtx n _

/-- The increment of a signal held by the channel it fills, where it fills one (R189). -/
def State.fillChan (s : State) (n : CtxId) (chan : Option (Nat × Channel)) (inc : Nat) : State :=
  match chan with
  | some (i, h) => s.modCtx n fun x => x.setChan i { h with occ := h.occ + inc }
  | none => s

theorem State.Beside.fillChan (n : CtxId) (chan : Option (Nat × Channel)) (inc : Nat) : State.Beside fun s => s.fillChan n chan inc := by
  cases chan with
  | none => exact State.Beside.id
  | some e => exact State.Beside.modCtx n _

@[simp] theorem core_haltXfer (s : State) (x : Option Nat) (stop : Bool) (c : CoreId) : (s.haltXfer x stop).core c = s.core c :=
  (State.Beside.haltXfer x stop).core s c
@[simp] theorem core_setRaster (s : State) (n : CtxId) (e : Exec) (c : CoreId) : (s.setRaster n e).core c = s.core c :=
  (State.Beside.setRaster n e).core s c
@[simp] theorem core_fillChan (s : State) (n : CtxId) (chan : Option (Nat × Channel)) (inc : Nat) (c : CoreId) :
    (s.fillChan n chan inc).core c = s.core c := (State.Beside.fillChan n chan inc).core s c

/-! ### An entry of a vector changed -/

/-- An entry that stays as it is. -/
theorem vmod_id {α : Type} {n : Nat} (v : Vector α n) (i : Fin n) : vmod v i (fun a => a) = v := by simp [vmod, Vector.get]

/-- The same entry changed twice. -/
theorem vmod_vmod {α : Type} {n : Nat} (v : Vector α n) (i : Fin n) (f g : α → α) : vmod (vmod v i f) i g = vmod v i fun a => g (f a) := by
  rw [vmod, vmod_get_same]
  simp [vmod]

/-! ### Dispatch -/

/-- A core at its dispatch point at cycle `t`: stalled up to it, with the pulls that have shifted out and the marks that have cleared gone. -/
def State.atDispatch (s : State) (c : CoreId) (x : Ctx) (t : Nat) : State :=
  ((s.stallTo c (s.idleCause c x) t).modCore c fun k => { k.settle t with idleAs := none }).pruneMarks c t

theorem OnlyCore.atDispatch (s : State) (c : CoreId) (x : Ctx) (t : Nat) : OnlyCore s (s.atDispatch c x t) c :=
  ((OnlyCore.stallTo s c _ t).trans (OnlyCore.modCore _ c _)).trans (OnlyCore.pruneMarks _ c t)

/-- Coming to the dispatch point leaves the queues, the plates' words and the numbers of operations of the core alone. -/
theorem core_atDispatch (s : State) (c : CoreId) (x : Ctx) (t : Nat) :
    ∃ pw ctr sh pl, (s.atDispatch c x t).core c =
      { s.core c with cyc := max (s.core c).cyc t, pw := pw, ctr := ctr, shift := sh, plate := pl, idleAs := none } := by
  obtain ⟨pw, ctr, hk⟩ := core_stallTo s c (s.idleCause c x) t
  obtain ⟨sh, pl, hs⟩ := ((s.stallTo c (s.idleCause c x) t).core c).settle_eq t
  refine ⟨pw, ctr, sh, pl, ?_⟩
  rw [State.atDispatch, State.pruneMarks, core_modSlice, core_modCore_same, hs, hk]

section atDispatch
variable (s : State) (c : CoreId) (x : Ctx) (t : Nat)

@[simp] theorem atDispatch_queue (q : QueueId) : ((s.atDispatch c x t).core c).queue q = (s.core c).queue q := by
  obtain ⟨_, _, _, _, h⟩ := core_atDispatch s c x t; rw [h]; rfl
@[simp] theorem atDispatch_plates : ((s.atDispatch c x t).core c).plates = (s.core c).plates := by
  obtain ⟨_, _, _, _, h⟩ := core_atDispatch s c x t; rw [h]
@[simp] theorem atDispatch_nextOp : ((s.atDispatch c x t).core c).nextOp = (s.core c).nextOp := by
  obtain ⟨_, _, _, _, h⟩ := core_atDispatch s c x t; rw [h]

end atDispatch

/-- A run of queue `q` put in hand at cycle `t`; `next` numbers the operation after it. -/
def Core.issue (k : Core) (q : QueueId) (r : Run) (t next : Nat) : Core :=
  { (k.modQueue q fun w => { w with run := some r, wait := .none, waitFrom := none }) with
    cur := some q, cyc := t, nextOp := next, ports := k.ports.emptied }

section issue
variable (k : Core) (q : QueueId) (r : Run) (t next : Nat)

@[simp] theorem Core.issue_queue_same : (k.issue q r t next).queue q = { k.queue q with run := some r, wait := .none, waitFrom := none } :=
  queue_modQueue_same k q _
theorem Core.issue_queue_other {j : QueueId} (h : j ≠ q) : (k.issue q r t next).queue j = k.queue j := queue_modQueue_other k _ h

end issue

/-- A BARRIER that has issued ends a C-cycle later; every other operation has its work before it (R173, R192). -/
def State.endBarrier (s : State) (c : CoreId) (q : QueueId) (op : AkiOp) (t : Nat) : State :=
  match op with
  | .barrier _ => s.endOp c q (t + 1)
  | _ => s

theorem OnlyCore.endBarrier (s : State) (c : CoreId) (q : QueueId) (op : AkiOp) (t : Nat) : OnlyCore s (s.endBarrier c q op t) c := by
  unfold State.endBarrier
  split
  · exact OnlyCore.endOp s c q _
  · exact OnlyCore.same s c

theorem State.endBarrier_of_ne (s : State) (c : CoreId) (q : QueueId) {op : AkiOp} (t : Nat) (h : ∀ l, op ≠ .barrier l) : s.endBarrier c q op t = s := by
  unfold State.endBarrier
  split
  · exact absurd rfl (h _)
  · rfl

/-- The end of a BARRIER touches its queue alone. -/
theorem core_endBarrier (s : State) (c : CoreId) (q : QueueId) (op : AkiOp) (t : Nat) :
    ∃ f, (s.endBarrier c q op t).core c = (s.core c).modQueue q f := by
  unfold State.endBarrier
  split
  · exact ⟨_, core_modQueue_same s c q _⟩
  · exact ⟨fun w => w, by rw [Core.modQueue, vmod_id]⟩

/-- The state in which an operation is issued whose channel has room (R163, R189, R253). -/
def State.issued (s : State) (c : CoreId) (n : CtxId) (e : Exec) (q : QueueId) (op : AkiOp) (r : Run) (chan : Option (Nat × Channel))
    (inc t : Nat) : State :=
  (((s.setRaster n e).modCore c fun k => k.issue q r t (k.nextOp + 1)).fillChan n chan inc).endBarrier c q op t

theorem State.issueNew_eq {s : State} {c : CoreId} {n : CtxId} {x : Ctx} {e : Exec} {q : QueueId} {d : Desc} {t : Nat} {chan : Option (Nat × Channel)}
    (hchan : chan = if d.sigEn then findChan (fun h => h.full == d.sigCtr && h.consumer == d.sigCore) x.channels 0 else none)
    (hroom : ∀ i h, chan = some (i, h) → h.occ + d.sigInc ≤ h.depth) :
    s.issueNew c n x e q d t = s.issued c n e q d.op (Run.fresh (s.core c).nextOp t (x.counter c d.op.epochCtr)) chan d.sigInc t := by
  unfold State.issueNew
  rw [← hchan]
  cases chan with
  | none => rfl
  | some p =>
    obtain ⟨i, h⟩ := p
    simp only [if_neg (hroom i h rfl).not_gt]
    rfl

theorem core_issued (s : State) (c : CoreId) (n : CtxId) (e : Exec) (q : QueueId) (op : AkiOp) (r : Run) (chan : Option (Nat × Channel)) (inc t : Nat) :
    ∃ f, (s.issued c n e q op r chan inc t).core c = ((s.core c).issue q r t ((s.core c).nextOp + 1)).modQueue q f := by
  obtain ⟨f, h⟩ := core_endBarrier (((s.setRaster n e).modCore c fun k => k.issue q r t (k.nextOp + 1)).fillChan n chan inc) c q op t
  exact ⟨f, by simpa [State.issued] using h⟩

section issued
variable (s : State) (c : CoreId) (n : CtxId) (e : Exec) (q : QueueId) (r : Run) (chan : Option (Nat × Channel)) (inc t : Nat)

theorem State.issued_queue {op : AkiOp} (h : ∀ l, op ≠ .barrier l) :
    ((s.issued c n e q op r chan inc t).core c).queue q = { (s.core c).queue q with run := some r, wait := .none, waitFrom := none } := by
  simp [State.issued, State.endBarrier_of_ne _ _ _ _ h]

theorem State.issued_queue_barrier {op : AkiOp} {l : LineId} (h : op = .barrier l) :
    ((s.issued c n e q op r chan inc t).core c).queue q =
      { (s.core c).queue q with run := some { r with outcome := some .ok, endAt := some (t + 1) }, wait := .none, waitFrom := none } := by
  simp [h, State.issued, State.endBarrier, State.endOp]

end issued

theorem OnlyCore.issued {s v : State} {c : CoreId} (h : OnlyCore s v c) (n : CtxId) (e : Exec) (q : QueueId) (op : AkiOp) (r : Run)
    (chan : Option (Nat × Channel)) (inc t : Nat) :
    OnlyCore ((s.setRaster n e).fillChan n chan inc) (v.issued c n e q op r chan inc t) c :=
  (((h.beside (State.Beside.setRaster n e)).trans (OnlyCore.modCore _ c _)).beside (State.Beside.fillChan n chan inc)).trans (OnlyCore.endBarrier _ c q op t)

/-- A re-issue puts the saved run in hand, and its transfer goes on (R153). -/
theorem State.reissue_eq (s : State) (c : CoreId) (q : QueueId) (r : Run) (t : Nat) :
    s.reissue c q r t = (s.haltXfer r.xfer false).modCore c fun k => k.issue q { r with
      issued := t, first := true, lastEnd := t, decided := [], leaveAt := none, fetch := false, suspended := false } t k.nextOp := rfl

section dispatch
variable {c : CoreId} {s : State} {n : CtxId} {x : Ctx} {e : Exec} {q : QueueId} (hact : s.acting c = some (n, x, e)) (hcurrent : s.current c = none)
  (hcur : (s.core c).cur = none) (hpick : (s.core c).pick x c = some q) (hlend : (s.core c).pw.lending = false)
  (hlost : ∀ k, ((s.core c).queue k).lostTo x c e.lost = false) {dt t : Nat} (ht : t = max ((s.core c).cyc + dt) (s.core c).freeAt)
include hact hcurrent hcur hpick hlend hlost ht

/-- The head of the picked queue issues on a free core: for the first time where it has no run, and again where it has one. -/
theorem exec_dispatch_free {d : Desc} {ds : List Desc} (hops : ((s.core c).queue q).ops = d :: ds) :
    exec (.dispatch c dt) s = .next (match ((s.core c).queue q).run with
      | some r => (s.atDispatch c x t).reissue c q r t
      | none => (s.atDispatch c x t).issueNew c n x e q d t) := by
  show execDispatch c dt s = _
  have hfind : (allQueues.find? fun k => ((s.core c).queue k).lostTo x c e.lost) = none := List.find?_eq_none.mpr fun k _ => by simp [hlost k]
  have hqueue := atDispatch_queue s c x t q
  subst ht
  unfold State.atDispatch at *
  unfold execDispatch
  simp only [hact, hfind, hpick, hcurrent, hcur, hlend, Option.isNone_none, Bool.false_eq_true, if_true, if_false]
  rw [hqueue, hops]
  cases ((s.core c).queue q).run <;> rfl

/-- The first issue of the picked head, whose channel has room. -/
theorem exec_dispatch_new {d : Desc} {ds : List Desc} (hops : ((s.core c).queue q).ops = d :: ds) (hrun : ((s.core c).queue q).run = none)
    {chan : Option (Nat × Channel)}
    (hchan : chan = if d.sigEn then findChan (fun h => h.full == d.sigCtr && h.consumer == d.sigCore) x.channels 0 else none)
    (hroom : ∀ i h, chan = some (i, h) → h.occ + d.sigInc ≤ h.depth) :
    exec (.dispatch c dt) s = .next ((s.atDispatch c x t).issued c n e q d.op
      (Run.fresh (s.core c).nextOp t (x.counter c d.op.epochCtr)) chan d.sigInc t) := by
  rw [exec_dispatch_free hact hcurrent hcur hpick hlend hlost ht hops, hrun, ← atDispatch_nextOp s c x t]
  exact congrArg _ (State.issueNew_eq hchan hroom)

/-- The issue again of the picked head, which was suspended. -/
theorem exec_dispatch_again {d : Desc} {ds : List Desc} (hops : ((s.core c).queue q).ops = d :: ds) {r : Run}
    (hrun : ((s.core c).queue q).run = some r) :
    exec (.dispatch c dt) s = .next ((s.atDispatch c x t).reissue c q r t) := by
  rw [exec_dispatch_free hact hcurrent hcur hpick hlend hlost ht hops, hrun]

end dispatch

/-! ### SIGNAL, WAIT and STOP_MARK -/

section control
variable {c : CoreId} {s : State} {u : Cur} (he : u.run.endAt = none)
include he

theorem exec_signal (h : s.currentIs c .signal = some u) : exec (.signal c) s = .next (s.endOp c u.q (u.run.issued + 1)) := by
  show execSignal c s = _
  simp [execSignal, h, he]

theorem exec_wait (h : s.currentIs c .wait = some u) : exec (.wait c) s = .next (s.endOp c u.q (u.run.issued + 1)) := by
  show execWait c s = _
  simp [execWait, h, he]

theorem exec_stopMark {p : MarkP} (h : s.currentIs c (.stopMark p) = some u) :
    exec (.stopMark c p) s = .next ((s.modQueue c u.q fun q => { q with mark := p.mark }).endOp c u.q (u.run.issued + 1)) := by
  show execStopMark c p s = _
  simp [execStopMark, h, he]

end control

/-! ### The end of an operation -/

/-- A queue's new head sets its run and its wait; the operations, the count and the index stay. -/
theorem Queue.newHead_eq (w : Queue) (x : Ctx) (c : CoreId) (limit now : Nat) :
    ∃ wt f, w.newHead x c limit now = { w with run := none, wait := wt, waitUs := 0, waitFrom := f, waitLimit := limit } := by
  unfold Queue.newHead
  simp only []
  split
  · exact ⟨_, _, rfl⟩
  · split
    · exact ⟨_, _, rfl⟩
    · exact ⟨_, _, rfl⟩

/-- Busy cycles count no operation. -/
theorem busyTo_ops (s : State) (c : CoreId) (t : Nat) : ((s.busyTo c t).core c).ctr.ops = (s.core c).ctr.ops := by
  unfold State.busyTo
  rw [core_modCore_same]
  split
  · unfold Core.passed
    simp only []
    split <;> rfl
  · rfl

/-- A queue after its head has left it (R163). -/
def Queue.retire (w : Queue) (ds : List Desc) (count : Nat) (x : Ctx) (c : CoreId) (limit now : Nat) : Queue :=
  ({ w with ops := ds, index := w.index + 1, count := count } : Queue).newHead x c limit now

/-- A queue whose core is asked to stop: a halting STOP_MARK, cause 1, halts it (R181). -/
def Queue.haltedBy (w : Queue) : Option Nat → Queue
  | some cause => { w with halted := cause = 1 || w.halted }
  | none => w

/-- What is left, counted and next of a queue whose head has left it. -/
theorem Queue.retire_haltedBy (w : Queue) (ds : List Desc) (count : Nat) (x : Ctx) (c : CoreId) (limit now : Nat) (why : Option Nat) :
    ∃ wt f h, (w.retire ds count x c limit now).haltedBy why = { w with
      ops := ds, index := w.index + 1, count := count, run := none, wait := wt, waitUs := 0, waitFrom := f, waitLimit := limit, halted := h } := by
  obtain ⟨wt, f, h⟩ := ({ w with ops := ds, index := w.index + 1, count := count } : Queue).newHead_eq x c limit now
  rw [Queue.retire, h]
  cases why
  · exact ⟨wt, f, _, rfl⟩
  · exact ⟨wt, f, _, rfl⟩

/-- An operation that has done its work leaves the head of its queue at cycle `t` and trails (R163). -/
def Core.retire (k : Core) (q : QueueId) (ds : List Desc) (count : Nat) (tr : Trailing) (x : Ctx) (c : CoreId) (limit now t : Nat) : Core :=
  { (k.modQueue q fun w => w.retire ds count x c limit now) with
    cur := none, freeAt := max k.freeAt t, trailing := k.trailing ++ [tr], ctr := { k.ctr with ops := (k.ctr.ops + 1) % 2 ^ 48 } }

/-- A core asked to stop for the cause that holds, if one does (R181). -/
def Core.askStop (k : Core) (q : QueueId) (tag : Word32) (why : Option Nat) : Core :=
  { (k.modQueue q fun w => w.haltedBy why) with
    stopping := why.isSome || k.stopping, stopBy := (why.map fun cause => (q, cause, tag)).or k.stopBy }

theorem Core.askStop_none (k : Core) (q : QueueId) (tag : Word32) : k.askStop q tag none = k := by
  simp only [Core.askStop, Queue.haltedBy, Core.modQueue, vmod_id]
  rfl

/-- The state after an operation has left queue `q` at cycle `t`, its core asked to stop where there is a cause. -/
def State.opEnded (s : State) (c : CoreId) (q : QueueId) (ds : List Desc) (count : Nat) (tr : Trailing) (x : Ctx) (t : Nat) (why : Option Nat) : State :=
  ((s.busyTo c t).modCore c fun k => k.retire q ds count tr x c s.regs.waitLimit s.timeNs t).modCore c fun k => k.askStop q tr.desc.opTag why

section opEnded
variable (s : State) (c : CoreId) (q : QueueId) (ds : List Desc) (count : Nat) (tr : Trailing) (x : Ctx) (t : Nat) (why : Option Nat)

theorem OnlyCore.opEnded : OnlyCore s (s.opEnded c q ds count tr x t why) c :=
  ((OnlyCore.busyTo s c t).trans (OnlyCore.modCore _ c _)).trans (OnlyCore.modCore _ c _)

/-- What the end of an operation leaves of its core: the queue it leaves, its place among the trailing, the counts and the request to stop. -/
theorem core_opEnded : ∃ cyc freeAt pw ctr, (s.opEnded c q ds count tr x t why).core c =
      { (s.core c).modQueue q (fun w => (w.retire ds count x c s.regs.waitLimit s.timeNs).haltedBy why) with
        cur := none, cyc := cyc, freeAt := freeAt, trailing := (s.core c).trailing ++ [tr], ctr := ctr, pw := pw,
        stopping := why.isSome || (s.core c).stopping, stopBy := (why.map fun cause => (q, cause, tr.desc.opTag)).or (s.core c).stopBy } ∧
    ctr.ops = ((s.core c).ctr.ops + 1) % 2 ^ 48 := by
  have hops := busyTo_ops s c t
  obtain ⟨pw, ctr, hbusy⟩ := core_busyTo s c t
  rw [hbusy] at hops
  refine ⟨max (s.core c).cyc t, max (s.core c).freeAt t, pw, { ctr with ops := (ctr.ops + 1) % 2 ^ 48 }, ?_, congrArg (fun n => (n + 1) % 2 ^ 48) hops⟩
  rw [State.opEnded, core_modCore_same, core_modCore_same, hbusy]
  simp only [Core.askStop, Core.retire, Core.modQueue, vmod_vmod]

end opEnded

/-- Why a core stops at an end does not hang on its cores. -/
@[simp] theorem stopCause_modCore (s : State) (k : CoreId) (f : Core → Core) (x : Ctx) (c : CoreId) (q : QueueId) (count : Nat) (op : AkiOp) :
    stopCause (s.modCore k f) x c q count op = stopCause s x c q count op := rfl
@[simp] theorem stopCause_busyTo (s : State) (k : CoreId) (t : Nat) (x : Ctx) (c : CoreId) (q : QueueId) (count : Nat) (op : AkiOp) :
    stopCause (s.busyTo k t) x c q count op = stopCause s x c q count op := rfl

/-- Where an operation is in hand, the device ticks and the core is not frozen for a reclaim. -/
theorem State.ticking_of_current {s : State} {c : CoreId} {u : Cur} (h : s.current c = some u) :
    s.ticking = true ∧ (s.core c).pw.reclaiming = false := by
  unfold State.current at h
  split at h
  · cases h
  next hn =>
    simp only [Bool.or_eq_true, Bool.not_eq_true', not_or, Bool.not_eq_true, Bool.not_eq_false] at hn
    exact ⟨hn.1.1, hn.2⟩

/-- A check of the core that fails for the operation in hand ends it with INTERNAL_ERROR (R428, R431). -/
theorem exec_operationEnd_fault {c : CoreId} {s : State} {u : Cur} {f : CoreFault} (hu : s.current c = some u) (hf : CoreFault.meets f u.desc.op = true) :
    exec (.operationEnd c (some f)) s =
      .next (s.failOp c u (u.info c .internalError (CoreFault.struct_ f) 0 true) [CoreFault.body f u.desc.opTag.toNat]) := by
  obtain ⟨hticks, hrecl⟩ := State.ticking_of_current hu
  show execOperationEnd c (some f) s = _
  simp [execOperationEnd, State.checkFails, hticks, hrecl, hu, hf]

section ended
variable {c : CoreId} {s : State} (hticks : s.ticking = true) (hrecl : (s.core c).pw.reclaiming = false)
include hticks hrecl

/-- The end of an operation that has done its work at cycle `e`. -/
theorem exec_operationEnd_ok {q : QueueId} {n : CtxId} {x : Ctx} {d : Desc} {ds : List Desc} {r : Run} {e : Nat} (hcur : (s.core c).cur = some q)
    (hctx : s.runCtx = some (n, x)) (hops : ((s.core c).queue q).ops = d :: ds) (hrun : ((s.core c).queue q).run = some r)
    (hok : r.outcome = some .ok) (hend : r.endAt = some e) :
    exec (.operationEnd c none) s = .next (s.opEnded c q ds ((((s.core c).queue q).count + 1) % 2 ^ 32)
      ⟨r.op, q, d, r.xfer, completionAt d.op r e⟩ x e (stopCause s x c q ((((s.core c).queue q).count + 1) % 2 ^ 32) d.op)) := by
  show execOperationEnd c none s = _
  unfold execOperationEnd
  simp only [hticks, hrecl, hcur, hctx, hops, hrun, hok, hend, stopCause_modCore, stopCause_busyTo, Bool.not_true, Bool.or_self, Bool.false_eq_true, if_false]
  unfold State.opEnded
  cases stopCause s x c q ((((s.core c).queue q).count + 1) % 2 ^ 32) d.op with
  | none =>
    simp only [Core.askStop_none, State.modCore, vmod_id]
    rfl
  | some cause => rfl

/-- The completion of a trailing operation: its marks clear and its signal leaves (R163). -/
theorem exec_operationCompletion {i : Nat} {n : CtxId} {x : Ctx} {t : Trailing} {e : Nat} (htrail : (s.core c).trailing[i]? = some t)
    (hctx : s.runCtx = some (n, x)) (hat : t.at_ = some e) (hdue : e ≤ (s.core c).cyc ∨ (s.core c).cur = none) :
    exec (.operationCompletion c i) s = .next (((((s.stallTo c 0 e).modCore c fun k =>
      { (k.settle (max e k.cyc)) with trailing := k.trailing.eraseIdx i }).clearMarks c t.queue t.op).sendSignal n c t.desc).finishExec n) := by
  show execOperationCompletion c i s = _
  simp [execOperationCompletion, hticks, hrecl, htrail, hctx, hat, hdue]

end ended

/-! ### Signals -/

/-- A signal reaches its counter; an ack takes its increment off the channel it acknowledges (R183, R189). -/
theorem exec_signalArrival {i : Nat} {s : State} {n : CtxId} {k : Fin 64} {c : CoreId} {inc : Nat} {g : Option DieId} {b : Option CoreId}
    (hticks : s.ticking = true) (hsig : s.fabric.vc4[i]? = some (.signal n k c inc g b)) :
    exec (.signalArrival i) s = .next ((s.modFabric fun f => { f with vc4 := f.vc4.eraseIdx i }).applySignal n k c inc) := by
  show execSignalArrival i s = _
  simp [execSignalArrival, hticks, hsig]

section arrival
variable {s : State} {n : CtxId} {x : Ctx} (hx : s.ctx? n = some x) (k : Fin 64) (c : CoreId) (inc : Nat)
include hx

theorem State.applySignal_plain (h : findChan (fun h => h.ack == k && h.producer == c) x.channels 0 = none) :
    s.applySignal n k c inc = s.putCtx n (x.setCounter c k (x.counter c k + inc)) := by
  have h' : findChan (fun h => h.ack == k && h.producer == c) (x.setCounter c k (x.counter c k + inc)).channels 0 = none := h
  simp only [State.applySignal, hx, h']

theorem State.applySignal_ack {j : Nat} {h : Channel} (hf : findChan (fun h => h.ack == k && h.producer == c) x.channels 0 = some (j, h))
    (hocc : inc ≤ h.occ) :
    s.applySignal n k c inc = s.putCtx n ((x.setCounter c k (x.counter c k + inc)).setChan j { h with occ := h.occ - inc }) := by
  have hf' : findChan (fun h => h.ack == k && h.producer == c) (x.setCounter c k (x.counter c k + inc)).channels 0 = some (j, h) := hf
  simp only [State.applySignal, hx, hf', hocc, if_true]

end arrival

/-! ### The obligation -/

/-- Settles O47. A dispatch of a free core issues its picked head (`exec_dispatch_new`) or goes on with a suspended one
(`exec_dispatch_again`); the other rows are the lemma named after each. -/
theorem controlOperationsComplete : Obligations.ControlOperationsComplete := by
  unfold Obligations.ControlOperationsComplete
  refine ⟨?dispatch, fun c s u he => ⟨exec_signal he, exec_wait he, fun p => exec_stopMark he⟩, ?ended,
    fun c s u f => exec_operationEnd_fault, ?completion, ?arrival⟩
  case dispatch =>
    intro c dt s n x e q d ds hact hcurrent hcur hpick hlend hlost hops at_
    have hat : at_ = max ((s.core c).cyc + dt) (s.core c).freeAt := rfl
    clear_value at_
    have honly := OnlyCore.atDispatch s c x at_
    refine ⟨?first, ?again⟩
    case first =>
      intro chan hchan hrun hroom w v r
      obtain ⟨f, hissued⟩ := core_issued (s.atDispatch c x at_) c n e q d.op r chan d.sigInc at_
      refine ⟨_, exec_dispatch_new hact hcurrent hcur hpick hlend hlost hat hops hrun hchan hroom, congrArg Core.cur hissued, ?next,
        congrArg Core.cyc hissued, fun hl => ?queue, fun l hl => ?barrier, fun k hk => ?others,
        (congrArg Core.plates hissued).trans (atDispatch_plates s c x at_), ?only⟩
      case next => exact (congrArg Core.nextOp hissued).trans (congrArg (· + 1) (atDispatch_nextOp s c x at_))
      case queue => rw [← atDispatch_queue s c x at_ q]; exact State.issued_queue _ c n e q r chan d.sigInc at_ hl
      case barrier => rw [← atDispatch_queue s c x at_ q]; exact State.issued_queue_barrier _ c n e q r chan d.sigInc at_ hl
      case others =>
        rw [← atDispatch_queue s c x at_ k]
        exact (congrArg (Core.queue · k) hissued).trans ((queue_modQueue_other _ f hk).trans (Core.issue_queue_other _ q r at_ _ hk))
      case only =>
        have hv : v = (s.setRaster n e).fillChan n chan d.sigInc := rfl
        exact hv ▸ honly.issued n e q d.op r chan d.sigInc at_
    case again =>
      intro r hrun
      refine ⟨_, exec_dispatch_again hact hcurrent hcur hpick hlend hlost hat hops hrun, ?_⟩
      rw [State.reissue_eq, core_modCore_same, core_haltXfer, ← atDispatch_queue s c x at_ q]
      exact ⟨rfl, rfl, Core.issue_queue_same _ q _ at_ _, fun k hk => (Core.issue_queue_other _ q _ at_ _ hk).trans (atDispatch_queue s c x at_ k),
        atDispatch_plates s c x at_, (honly.beside (State.Beside.haltXfer r.xfer false)).trans (OnlyCore.modCore _ c _)⟩
  case ended =>
    intro c s q n x d ds r e hticks hrecl hcur hctx hops hrun hok hend why
    obtain ⟨_, _, _, _, hcore, hcount⟩ := core_opEnded s c q ds ((((s.core c).queue q).count + 1) % 2 ^ 32)
      ⟨r.op, q, d, r.xfer, completionAt d.op r e⟩ x e why
    obtain ⟨_, _, _, hleft⟩ := ((s.core c).queue q).retire_haltedBy ds ((((s.core c).queue q).count + 1) % 2 ^ 32) x c s.regs.waitLimit s.timeNs why
    have hqueue := ((congrArg (Core.queue · q) hcore).trans (queue_modQueue_same _ q _)).trans hleft
    exact ⟨_, exec_operationEnd_ok hticks hrecl hcur hctx hops hrun hok hend, congrArg Core.cur hcore, congrArg Core.trailing hcore,
      congrArg Queue.ops hqueue, congrArg Queue.run hqueue, congrArg Queue.count hqueue, congrArg Queue.index hqueue,
      (congrArg (·.ctr.ops) hcore).trans hcount, congrArg Core.stopping hcore, fun k hk => (congrArg Core.stopBy hcore).trans (by rw [hk]; rfl),
      fun k hk => (congrArg (Core.queue · k) hcore).trans (queue_modQueue_other _ _ hk), (congrArg Core.plates hcore :),
      OnlyCore.opEnded s c q ds _ _ x e why⟩
  case completion =>
    intro c i s n x t e hticks hrecl htrail hctx hat hdue
    exact exec_operationCompletion hticks hrecl htrail hctx hat hdue
  case arrival =>
    intro i s n x k c inc g b hticks hsig hx u y
    have hu : u.ctx? n = some x := hx
    rw [exec_signalArrival hticks hsig]
    exact ⟨fun h => congrArg _ (State.applySignal_plain hu k c inc h), fun j h hf hocc => congrArg _ (State.applySignal_ack hu k c inc hf hocc)⟩

end Sys2Proof.Machine
end

section
/-! PROOFS. A MOVE of one tile within a die: its transfer opens, its one piece is issued, lands and is acknowledged (R170, R175, R206, R240,
R257). -/

namespace Sys2Proof.Machine

open Sys2Proof

/-! ### Transfers and pieces that change -/

/-- A change of the transfer of an id that keeps ids is a change of what is found under that id. -/
theorem State.xfer?_modXfer {s : State} {i : Nat} {x : Xfer} {f : Xfer → Xfer} (hx : s.xfer? i = some x) (hf : ∀ y, (f y).id = y.id) :
    (s.modXfer i f).xfer? i = some (f x) := by
  have hid : x.id = i := by simpa using List.find?_some hx
  have hkeys : ((fun y => y.id == i) ∘ fun y : Xfer => if y.id = i then f y else y) = fun y => y.id == i :=
    funext fun y => by by_cases h : y.id = i <;> simp [h, hf]
  show (s.fabric.xfers.map _).find? _ = _
  rw [List.find?_map, hkeys, show s.fabric.xfers.find? (fun y => y.id == i) = some x from hx, Option.map_some, if_pos hid]

/-- A transfer with its piece of a number changed. -/
def Xfer.modPiece (x : Xfer) (seq : Nat) (f : Piece → Piece) : Xfer := { x with pieces := x.pieces.map fun p => if p.seq = seq then f p else p }

theorem State.xfer?_modPiece {s : State} {i : Nat} {x : Xfer} (hx : s.xfer? i = some x) (seq : Nat) (f : Piece → Piece) :
    (s.modPiece i seq f).xfer? i = some (x.modPiece seq f) :=
  State.xfer?_modXfer (f := fun x => x.modPiece seq f) hx fun _ => rfl

/-- A change of the piece of a number that keeps numbers is a change of what is found under that number. -/
theorem Xfer.piece?_modPiece {x : Xfer} {seq : Nat} {p : Piece} {f : Piece → Piece} (hp : x.piece? seq = some p) (hf : ∀ q, (f q).seq = q.seq) :
    (x.modPiece seq f).piece? seq = some (f p) := by
  have hseq : p.seq = seq := by simpa using List.find?_some hp
  have hkeys : ((fun q => q.seq == seq) ∘ fun q : Piece => if q.seq = seq then f q else q) = fun q => q.seq == seq :=
    funext fun q => by by_cases h : q.seq = seq <;> simp [h, hf]
  show (x.pieces.map _).find? _ = _
  rw [List.find?_map, hkeys, show x.pieces.find? (fun q => q.seq == seq) = some p from hp, Option.map_some, if_pos hseq]

/-- A transfer under a new id is found under it. -/
theorem State.xfer?_addXfer {s : State} {x : Xfer} (h : ∀ y ∈ s.fabric.xfers, y.id < x.id) : (s.addXfer x).xfer? x.id = some x := by
  show (s.fabric.xfers ++ [x]).find? _ = _
  rw [List.find?_append, List.find?_eq_none.mpr fun y hy => by simpa using (h y hy).ne]
  simp

/-! ### The operation of a transfer -/

/-- The head of a queue with its run is a matter of the cores, the contexts and which one runs. -/
theorem State.headOf_congr {s t : State} (hc : t.cores = s.cores) (hx : t.ctxs = s.ctxs) (hr : t.running = s.running) (c : CoreId) (q : QueueId) :
    t.headOf c q = s.headOf c q := by
  simp only [State.headOf, State.runCtx, State.ctx?, State.core, hc, hx, hr]

/-- What the head of a queue is, read off its parts. -/
theorem State.headOf_eq_some {s : State} {c : CoreId} {q : QueueId} {u : Cur} :
    s.headOf c q = some u ↔ s.runCtx = some (u.ctx, u.x) ∧ u.x.exec = some u.exec ∧ (∃ ds, ((s.core c).queue q).ops = u.desc :: ds) ∧
      ((s.core c).queue q).run = some u.run ∧ u.q = q := by
  obtain ⟨n, x, e, k, d, r⟩ := u
  unfold State.headOf
  constructor
  · intro h
    split at h
    next n' x' hrun =>
      split at h
      next e' d' ds r' hexec hops hr =>
        cases h
        exact ⟨hrun, hexec, ⟨ds, hops⟩, hr, rfl⟩
      next => cases h
    next => cases h
  · rintro ⟨hrun, hexec, ⟨ds, hops⟩, hr, rfl⟩
    dsimp only at hrun hexec hops hr
    simp only [hrun, hexec, hops, hr]

/-! ### The engine of a core -/

/-- The operation in hand may take further units: nothing asks its core or its program to stop, and no read or fault of it is held
(R154, R178, R179, R226). -/
structure State.Going (s : State) (c : CoreId) (u : Cur) : Prop where
  head : s.headOf c u.q = some u
  outcome : u.run.outcome = none
  program : u.exec.stopSt = none
  core : (s.core c).stopping = false
  debug : s.dbg.debugMode = false
  dry : ∀ l, ((s.core c).queue u.q).wait ≠ .wet l
  unheld : ∀ i, ((s.core c).queue u.q).wait ≠ .held i

theorem State.current_head {s : State} {c : CoreId} {u : Cur} (h : s.current c = some u) : s.headOf c u.q = some u ∧ u.run.outcome = none := by
  unfold State.current at h
  split at h
  · cases h
  · split at h
    next q n x hcur hrun =>
      split at h
      next e d ds r hexec hops hr =>
        obtain ⟨hout, h⟩ := Option.ite_none_right_eq_some.mp h
        cases h
        exact ⟨State.headOf_eq_some.mpr ⟨hrun, hexec, ⟨ds, hops⟩, hr, rfl⟩, Option.isNone_iff_eq_none.mp hout⟩
      next => cases h
    next => cases h

theorem State.going_of_currentIs {s : State} {c : CoreId} {op : AkiOp} {u : Cur} (h : s.currentIs c op = some u) : s.Going c u := by
  obtain ⟨hcur, -⟩ := State.current_of_currentIs h
  obtain ⟨hhead, hout⟩ := State.current_head hcur
  obtain ⟨hticks, -⟩ := State.ticking_of_current hcur
  simp only [State.currentIs, hcur] at h
  obtain ⟨h, -⟩ := Option.ite_none_right_eq_some.mp h
  simp only [Bool.and_eq_true, decide_eq_true_eq, Bool.not_eq_true', Option.isNone_iff_eq_none] at h
  obtain ⟨⟨⟨-, hcore⟩, hprog⟩, hwait⟩ := h
  refine ⟨hhead, hout, hprog, hcore, ?_, fun l hl => by simp [hl] at hwait, fun i hi => by simp [hi] at hwait⟩
  simp only [State.ticking, Bool.and_eq_true, Bool.not_eq_true'] at hticks
  exact hticks.2

theorem State.unfenced_of_current {s : State} {c : CoreId} {u : Cur} (h : s.current c = some u) : s.fenced (.c c.die) = false := by
  unfold State.current at h
  split at h
  · cases h
  next hn =>
    simp only [Bool.or_eq_true, not_or, Bool.not_eq_true] at hn
    exact hn.1.2

theorem State.Going.congr {s t : State} {c : CoreId} {u : Cur} (h : s.Going c u) (hc : t.cores = s.cores) (hx : t.ctxs = s.ctxs)
    (hr : t.running = s.running) (hd : t.dbg = s.dbg) : t.Going c u := by
  have hcore : t.core c = s.core c := congrArg (·.get c) hc
  exact ⟨(State.headOf_congr hc hx hr c u.q).trans h.head, h.outcome, h.program, hcore ▸ h.core, hd ▸ h.debug, hcore ▸ h.dry, hcore ▸ h.unheld⟩

/-- The operation in hand with another run. -/
theorem State.Going.setRun {s : State} {c : CoreId} {u : Cur} (h : s.Going c u) {r : Run} (hr : r.outcome = none) :
    (s.setRun c u.q r).Going c { u with run := r } := by
  obtain ⟨hrun, hexec, ⟨ds, hops⟩, -, -⟩ := State.headOf_eq_some.mp h.head
  refine ⟨State.headOf_eq_some.mpr ⟨hrun, hexec, ⟨ds, ?_⟩, setRun_run s c u.q r, rfl⟩, hr, h.program, ?_, h.debug, fun l => ?_, fun i => ?_⟩
  · simp [State.setRun, hops]
  · simpa [State.setRun, Core.modQueue] using h.core
  · simpa [State.setRun] using h.dry l
  · simpa [State.setRun] using h.unheld i

/-- The transfer of the operation in hand knows its operation. -/
theorem State.Going.opOf {s : State} {c : CoreId} {u : Cur} {x : Xfer} (h : s.Going c u) (hk : x.cmd? = none) (he : x.ended = false) (hx : x.ctx = u.ctx)
    (hc : x.core = c) (hq : x.queue = u.q) (ho : x.op = u.run.op) : s.opOf x = some u := by
  obtain ⟨hrun, -⟩ := State.headOf_eq_some.mp h.head
  have hctx : s.running = some u.ctx := by
    obtain ⟨n, hn, hm⟩ := Option.bind_eq_some_iff.mp hrun
    obtain ⟨y, -, hy⟩ := Option.map_eq_some_iff.mp hm
    cases hy
    exact hn
  simp [State.opOf, hk, he, hx, hctx, hc, hq, ho, h.head, h.outcome]

/-- A transfer whose next piece can be issued issues it. -/
theorem State.pump_issues {s v : State} {c : CoreId} {u : Cur} {i : Nat} {x : Xfer} (h : s.Going c u) (hs : u.run.suspended = false)
    (hi : u.run.xfer = some i) (hx : s.xfer? i = some x) (hq : s.atQuarter c u x = false) (hv : s.issuePiece (some (c, u)) x = some v) (n : Nat) :
    s.pump c u.q (n + 1) = v.pump c u.q n := by
  rw [State.pump, h.head]
  simp only [hs, h.outcome, h.program, h.core, h.debug, hi, Option.bind_some, hx, hq, hv, Option.isSome_none, Bool.or_self, Bool.false_or]
  cases hw : ((s.core c).queue u.q).wait
  case wet l => exact absurd hw (h.dry l)
  case held k => exact absurd hw (h.unheld k)
  all_goals rfl

theorem Xfer.total_move {x : Xfer} (h : x.kind = .move) : x.total = x.len := by simp only [Xfer.total, h]

/-- A transfer whose bytes have all been issued issues nothing further. -/
theorem State.issuePiece_all {s : State} {x : Xfer} (who : Option (CoreId × Cur)) (h : x.total ≤ x.next) : s.issuePiece who x = none := by
  simp [State.issuePiece, h]

theorem State.pump_all {s : State} {c : CoreId} {q : QueueId} (h : ∀ u i x, s.headOf c q = some u → u.run.xfer = some i → s.xfer? i = some x →
    x.total ≤ x.next) (n : Nat) : s.pump c q n = s := by
  cases n with
  | zero => rfl
  | succ n =>
    rw [State.pump]
    cases hu : s.headOf c q with
    | none => rfl
    | some u =>
      cases hx : u.run.xfer.bind fun i => s.xfer? i with
      | none => simp only [hx, ite_self]
      | some x =>
        obtain ⟨i, hi, hx'⟩ := Option.bind_eq_some_iff.mp hx
        simp only [hx, State.issuePiece_all _ (h u i x hu hi hx'), ite_self]

/-! ### A piece between scratchpads -/

/-- The marks of an issue are the old ones or the operation's own. -/
theorem State.markWet_wet (s : State) (c : CoreId) (u : Cur) (d : DieId) (tag : Word32) (t : Nat) (ls : List (Nat × Option Nat)) :
    ∀ m ∈ ((s.markWet d c u.q u.run.op tag t ls).slice c.die).wet, m ∈ (s.slice c.die).wet ∨ m.own c u.q u.run.op = true := by
  intro m hm
  by_cases hd : c.die = d
  · subst hd
    rw [State.markWet, slice_modSlice_same] at hm
    refine (List.mem_append.mp hm).imp_right fun hm => ?_
    obtain ⟨l, -, rfl⟩ := List.mem_map.mp hm
    exact WetMark.own_markWet
  · rw [State.markWet, slice_modSlice_other _ _ hd] at hm
    exact .inl hm

/-- The first piece of a transfer is issued where it lies between scratchpads and its lines are dry (R175, R206). -/
theorem State.issuePiece_pads {s : State} {c : CoreId} {u : Cur} {x : Xfer} {d e : DieId} {as bs : List Nat} (hk : x.kind = .move) (hs : x.stop = false)
    (hf : x.fault = none) (hn : x.next < x.total) (hw : x.pieces = [])
    (he : s.endsOf x x.next (s.cut x) = some (.pad d as, .pad e bs)) (hd : s.dry c u (linesOf as)) :
    s.issuePiece (some (c, u)) x = some (s.addPiece u.run.accept x (s.cut x) (.pad d as) (.scratch d as) (.scratch e bs)) := by
  have hold : x.oldest = x.next / 4096 := by simp [Xfer.oldest, hw]
  simp only [State.issuePiece, hk, hs, hf, hn.not_ge, hold, he, State.lookUpEnds, List.foldl, State.placeEnd, hd.wetHit]
  simp

/-- The piece of a transfer at its next byte, between scratchpads. -/
def Xfer.padPiece (x : Xfer) (d e : DieId) (as bs : List Nat) (n now : Nat) : Piece :=
  { seq := x.nextSeq, off := x.next, len := n, src := .scratch d as, dst := .scratch e bs, st := .waitRead, data := [], left := [e],
    issuedNs := now, limitNs := 0 }

/-- A transfer with one more piece. -/
def Xfer.withPiece (x : Xfer) (p : Piece) : Xfer := { x with next := x.next + p.len, nextSeq := x.nextSeq + 1, pieces := x.pieces ++ [p] }

/-- A piece between scratchpads joins its MOVE and starts at its source. -/
theorem State.addPiece_pads (s : State) (accept : List Nat) {x : Xfer} (hk : x.kind = .move) (n : Nat) (d e : DieId) (as bs : List Nat) :
    s.addPiece accept x n (.pad d as) (.scratch d as) (.scratch e bs) =
      (s.modXfer x.id fun y => y.withPiece (x.padPiece d e as bs n s.timeNs)).startPiece x.id x.nextSeq none := by
  simp only [State.addPiece, hk, Bool.false_and, Bool.false_eq_true, if_false, reduceCtorEq, false_and]
  rfl

/-- A piece between scratchpads of one bed die leaves its source and lands at once (R240). -/
theorem State.startPiece_pads {s : State} {i seq : Nat} {x : Xfer} {p : Piece} {d e : DieId} {as bs : List Nat} (hx : s.xfer? i = some x)
    (hp : x.piece? seq = some p) (hk : x.kind = .move) (hs : p.src = .scratch d as) (hd : p.dst = .scratch e bs) (hb : d.bed = e.bed) :
    s.startPiece i seq none = s.landOn x seq e bs (padTo p.len (as.map fun a => sget 0 (s.slice d).mem a)) := by
  simp [State.startPiece, State.toDest, State.ship, State.arrive, hx, hp, hk, hs, hd, Place.stop, hb]

/-- A destination that a piece has reached. -/
def Piece.reach (p : Piece) (d : DieId) : Piece := { p with left := p.left.filter fun e => e ≠ d }
/-- A piece that has landed. -/
def Piece.land (p : Piece) : Piece := { p with st := .landed, data := [] }

/-- Bytes that reach the last destination of a piece, on a die that serves, complete the piece (R257). -/
theorem State.landOn_last {s : State} {x y : Xfer} {seq : Nat} {d : DieId} {as : List Nat} {p : Piece} (bs : List Byte)
    (hf : s.fenced (.c d) = false) (hr : (s.die (.c d)).resetting = false) (hy : s.xfer? x.id = some y) (hp : y.piece? seq = some p)
    (hl : p.left = [d]) :
    s.landOn x seq d as bs =
      ((((s.landPad d as bs).modPiece x.id seq fun p => p.reach d).modPiece x.id seq Piece.land).clearLanded x d as).afterPiece x.id := by
  have hreach : (p.reach d).left = [] := by simp [Piece.reach, hl]
  have hfound : (((s.landPad d as bs).modPiece x.id seq fun p => p.reach d).xfer? x.id).bind (fun y => y.piece? seq) = some (p.reach d) := by
    have hpad : (s.landPad d as bs).xfer? x.id = some y := by
      rw [← hy]
      exact State.xfer?_congr (by unfold State.landPad; split <;> rfl) _
    rw [State.xfer?_modPiece hpad]
    exact Xfer.piece?_modPiece hp fun _ => rfl
  unfold State.landOn
  rw [hf, hr]
  simp only [Bool.false_and, Bool.false_eq_true, if_false]
  rw [show (fun p : Piece => { p with left := p.left.filter fun e => e ≠ d }) = fun p => p.reach d from rfl, hfound]
  simp only [hreach, List.isEmpty_nil, if_true]
  rfl

/-- The operation of a transfer notes the bytes that are complete (R179). -/
def State.noteDone (s : State) (x : Xfer) : State :=
  match s.opOf x with
  | some u => s.modQueue x.core u.q fun q => { q with run := q.run.map fun r => { r with doneBytes := x.doneAt } }
  | none => s

/-- The acknowledgement of a destination of a transfer leaves (R257). -/
def State.sendAck (s : State) (i k : Nat) (n : CtxId) : State :=
  (s.modXfer i fun x => { x with acked := x.acked ++ [k] }).modFabric fun f => { f with vc4 := f.vc4 ++ [.ack i n k] }

@[simp] theorem sendAck_cores (s : State) (i k : Nat) (n : CtxId) : (s.sendAck i k n).cores = s.cores := rfl
@[simp] theorem sendAck_slices (s : State) (i k : Nat) (n : CtxId) : (s.sendAck i k n).slices = s.slices := rfl

/-- Where one destination of a MOVE without a fault has become complete, its acknowledgement leaves (R257). -/
theorem State.afterPiece_acks {s : State} {i k : Nat} {x : Xfer} (hx : s.xfer? i = some x) (hk : x.kind = .move) (he : x.ended = false)
    (hf : x.fault = none) (hp : ∀ p ∈ x.pieces, p.st ≠ .posted) (hd : x.ackDue = [k]) : s.afterPiece i = (s.noteDone x).sendAck i k x.ctx := by
  have hflush : s.flushFar x = s := by
    have hnone : x.pieces.filter (fun p => p.st == .posted) = [] := List.filter_eq_nil_iff.mpr fun p h => by simpa using hp p h
    simp [State.flushFar, hnone]
  unfold State.afterPiece
  simp only [hx, hflush, he, hf, hk, hd]
  rfl

/-! ### What a transfer of a core leaves alone -/

/-- Everything but cores, slices and the fabric is as before. -/
def SameOutside (s t : State) : Prop := t = { s with cores := t.cores, slices := t.slices, fabric := t.fabric }

theorem SameOutside.trans {s t u : State} (a : SameOutside s t) (b : SameOutside t u) : SameOutside s u := by
  unfold SameOutside at a b ⊢
  rw [a] at b
  exact b

section marks
variable (s : State) (x : Xfer) (d : DieId) (as : List Nat)

/-- Lines that clear change marks alone. -/
theorem OnlyCore.clearLanded (c : CoreId) : OnlyCore s (s.clearLanded x d as) c := by
  unfold State.clearLanded
  split
  · exact OnlyCore.same _ _
  · exact OnlyCore.marks _ _ _ _ fun _ => rfl

@[simp] theorem clearLanded_cores : (s.clearLanded x d as).cores = s.cores := by unfold State.clearLanded; split <;> rfl
@[simp] theorem clearLanded_fabric : (s.clearLanded x d as).fabric = s.fabric := by unfold State.clearLanded; split <;> rfl
theorem SameOutside.clearLanded : SameOutside s (s.clearLanded x d as) := by unfold State.clearLanded; split <;> rfl

@[simp] theorem noteDone_slices : (s.noteDone x).slices = s.slices := by unfold State.noteDone; split <;> rfl
@[simp] theorem noteDone_fabric : (s.noteDone x).fabric = s.fabric := by unfold State.noteDone; split <;> rfl
theorem SameOutside.noteDone : SameOutside s (s.noteDone x) := by unfold State.noteDone; split <;> rfl

/-- The bytes noted leave every operation its transfer. -/
theorem noteDone_xfer (c : CoreId) (q : QueueId) :
    (((s.noteDone x).core c).queue q).run.map (fun r => r.xfer) = (((s.core c).queue q).run.map fun r => r.xfer) := by
  unfold State.noteDone
  cases s.opOf x with
  | none => rfl
  | some u =>
    by_cases hc : c = x.core
    · subst hc
      by_cases hq : q = u.q
      · subst hq; simp [Function.comp_def]
      · rw [core_modQueue_same, queue_modQueue_other _ _ hq]
    · exact congrArg (fun k : Core => (k.queue q).run.map fun r => r.xfer) (core_modCore_other s _ hc)

end marks

/-! ### A MOVE of one piece -/

/-- Bytes `data` have come to the addresses `bs` of the die of a core as the whole of a transfer, whose acknowledgement has left. -/
structure MovedWhole (s t : State) (c : CoreId) (x : Xfer) (bs : List Nat) (data : List Byte) : Prop where
  outside : SameOutside s t
  pad : (t.slice c.die).mem = (bs.zip data).foldl (fun m e => sset 0 m e.1 e.2) (s.slice c.die).mem
  pads : ∀ d, d ≠ c.die → (t.slice d).mem = (s.slice d).mem
  ack : t.fabric.vc4 = s.fabric.vc4 ++ [.ack x.id x.ctx c.die.val]
  pkts : t.fabric.pkts = s.fabric.pkts
  nextId : t.fabric.nextId = s.fabric.nextId
  all : ∃ y, t.xfer? x.id = some y ∧ y.total ≤ y.next
  runs : ∀ q, ((t.core c).queue q).run.map (fun r => r.xfer) = (((s.core c).queue q).run.map fun r => r.xfer)

/-- The only destination of a transfer whose bytes have all come there is due its acknowledgement (R257). -/
theorem Xfer.ackDue_whole {x : Xfer} {p : Piece} (hn : x.next = x.total) (hp : x.pieces = [p]) (hd : p.done = true) (ha : x.acked = []) :
    x.ackDue = [p.dst.station] := by
  simp [Xfer.ackDue, Xfer.stations, hn, hp, hd, ha]

/-- A change of the only piece of a transfer. -/
theorem Xfer.modPiece_only {x : Xfer} {p : Piece} (hp : x.pieces = [p]) (f : Piece → Piece) : (x.modPiece p.seq f).pieces = [f p] := by
  simp [Xfer.modPiece, hp]

section whole
variable {s : State} {c : CoreId} {x : Xfer} (hx : s.xfer? x.id = some x) (hk : x.kind = .move) (hack : x.acked = []) (he : x.ended = false)
  (hf : x.fault = none) (hfence : s.fenced (.c c.die) = false) (hreset : (s.die (.c c.die)).resetting = false)
include hx hk hack he hf hfence hreset

/-- The only piece of a MOVE lands in the scratchpad of a core's die. -/
theorem State.landOn_whole {p : Piece} {bs : List Nat} (data : List Byte) (hp : x.pieces = [p]) (hn : x.next = x.total) (hl : p.left = [c.die])
    (hd : p.dst = .scratch c.die bs) : MovedWhole s (s.landOn x p.seq c.die bs data) c x bs data := by
  let y := (x.modPiece p.seq fun p => p.reach c.die).modPiece p.seq Piece.land
  let v := s.modSlice c.die fun k => { k with mem := (bs.zip data).foldl (fun m e => sset 0 m e.1 e.2) k.mem }
  let w := (v.modPiece x.id p.seq fun p => p.reach c.die).modPiece x.id p.seq Piece.land
  have hpad : s.landPad c.die bs data = v := if_neg (by rw [hfence]; exact Bool.false_ne_true)
  have hland : s.landOn x p.seq c.die bs data = (w.clearLanded x c.die bs).afterPiece x.id :=
    (State.landOn_last data hfence hreset hx (by simp [Xfer.piece?, hp]) hl).trans (by rw [hpad])
  have hpy : y.pieces = [(p.reach c.die).land] := Xfer.modPiece_only (Xfer.modPiece_only hp _) _
  have hw : (w.clearLanded x c.die bs).xfer? x.id = some y :=
    (State.xfer?_congr (clearLanded_fabric ..) _).trans (State.xfer?_modPiece (State.xfer?_modPiece (s := v) hx _ _) _ _)
  have hdue : y.ackDue = [c.die.val] := by
    rw [Xfer.ackDue_whole (x := y) hn hpy rfl hack]
    exact congrArg (fun d : Place => [d.station]) hd
  let t := ((w.clearLanded x c.die bs).noteDone y).sendAck x.id c.die.val x.ctx
  have hafter : (w.clearLanded x c.die bs).afterPiece x.id = t :=
    State.afterPiece_acks hw hk he hf (by rw [hpy]; simp [Piece.land]) hdue
  have hslices : t.slices = (w.clearLanded x c.die bs).slices := (sendAck_slices ..).trans (noteDone_slices ..)
  have hmem : ∀ d, (t.slice d).mem = (v.slice d).mem := fun d =>
    (congrArg (fun l => (l.get d).mem) hslices).trans ((OnlyCore.clearLanded w x c.die bs c).pads d)
  have hfab : ((w.clearLanded x c.die bs).noteDone y).fabric = w.fabric := (noteDone_fabric ..).trans (clearLanded_fabric ..)
  have hin : SameOutside s w := rfl
  rw [hland, hafter]
  exact {
    outside := ((hin.trans (.clearLanded w x c.die bs)).trans (.noteDone _ y)).trans rfl
    pad := (hmem c.die).trans (congrArg Slice.mem (slice_modSlice_same s c.die _))
    pads := fun d hd => (hmem d).trans (congrArg Slice.mem (slice_modSlice_other s _ hd))
    ack := congrArg (fun f : Fabric => f.vc4 ++ [.ack x.id x.ctx c.die.val]) hfab
    pkts := (congrArg Fabric.pkts hfab :)
    nextId := (congrArg Fabric.nextId hfab :)
    all := ⟨_, State.xfer?_modXfer ((State.xfer?_congr (noteDone_fabric ..) _).trans hw) fun _ => rfl, hn.ge⟩
    runs := fun q => (congrArg (fun l => ((l.get c).queue q).run.map fun r => r.xfer) (sendAck_cores ..)).trans
      ((noteDone_xfer _ y c q).trans (congrArg (fun l => ((l.get c).queue q).run.map fun r => r.xfer) (clearLanded_cores ..))) }

/-- A first piece that is the whole of a MOVE between scratchpads of a core's die moves it. -/
theorem State.addPiece_whole (accept as bs : List Nat) (hn : x.next = 0) (hp : x.pieces = []) :
    MovedWhole s (s.addPiece accept x x.len (.pad c.die as) (.scratch c.die as) (.scratch c.die bs)) c x bs
      (padTo x.len (as.map fun a => sget 0 (s.slice c.die).mem a)) := by
  let p := x.padPiece c.die c.die as bs x.len s.timeNs
  let v := s.modXfer x.id fun y => y.withPiece p
  have hv : v.xfer? x.id = some (x.withPiece p) := State.xfer?_modXfer hx fun _ => rfl
  have hps : (x.withPiece p).pieces = [p] := congrArg (· ++ [p]) hp
  have hall : (x.withPiece p).next = (x.withPiece p).total :=
    (congrArg (· + x.len) hn).trans ((Nat.zero_add _).trans (Xfer.total_move (x := x.withPiece p) hk).symm)
  have hfind : (x.withPiece p).piece? p.seq = some p := by simp [Xfer.piece?, hps]
  have hstart : v.startPiece x.id p.seq none = v.landOn (x.withPiece p) p.seq c.die bs (padTo p.len (as.map fun a => sget 0 (v.slice c.die).mem a)) :=
    State.startPiece_pads hv hfind hk rfl rfl rfl
  have hadd := (State.addPiece_pads s accept hk x.len c.die c.die as bs).trans hstart
  rw [hadd]
  have h := State.landOn_whole (s := v) (c := c) (x := x.withPiece p) hv hk hack he hf hfence hreset
    (padTo x.len (as.map fun a => sget 0 (s.slice c.die).mem a)) hps hall rfl rfl
  have hin : SameOutside s v := rfl
  exact ⟨hin.trans h.outside, h.pad, h.pads, h.ack, h.pkts, h.nextId, h.all, h.runs⟩

end whole

/-- A transfer that has come as a whole issues nothing further. -/
theorem MovedWhole.pump {s t : State} {c : CoreId} {x : Xfer} {bs : List Nat} {data : List Byte} {q : QueueId} {r : Run}
    (h : MovedWhole s t c x bs data) (hr : ((s.core c).queue q).run = some r) (hi : r.xfer = some x.id) (n : Nat) : t.pump c q n = t := by
  refine State.pump_all (fun u i y hu hxf hy => ?_) n
  obtain ⟨-, -, -, hrun, -⟩ := State.headOf_eq_some.mp hu
  have hsame : u.run.xfer = some x.id := by
    have hruns := h.runs q
    rw [hrun, hr] at hruns
    exact (Option.some.inj hruns).trans hi
  obtain rfl : x.id = i := Option.some.inj (hsame.symm.trans hxf)
  obtain ⟨z, hz, hall⟩ := h.all
  obtain rfl : z = y := Option.some.inj (hz.symm.trans hy)
  exact hall

/-! ### A MOVE between operands of its die -/

section move
variable {s : State} {c : CoreId} {u : Cur} {p : MoveP} {a b : OperandRec} {x : Xfer} (hu : u.desc.op = .move p) (hsv : p.srcVirt = false)
  (hdv : p.dstVirt = false) (hdr : p.dstRemote = false) (hsrc : p.src = some a) (hdst : p.dst = some b) (hk : x.kind = .move)
include hu hsv hdv hdr hsrc hdst

/-- The ends of a MOVE between operands of its die: the bytes of both in walk order (R170). -/
theorem Cur.ends_move (off n : Nat) : u.ends x off n = some (.pad x.core.die (walkBytes a off n), .pad x.core.die (walkBytes b off n)) := by
  simp [Cur.ends, hu, hsv, hdv, hdr, hsrc, hdst]

include hk
theorem State.endsOf_move (hop : s.opOf x = some u) (off n : Nat) :
    s.endsOf x off n = some (.pad x.core.die (walkBytes a off n), .pad x.core.die (walkBytes b off n)) := by
  simp only [State.endsOf, hk, hop, Option.bind_some]
  exact Cur.ends_move hu hsv hdv hdr hsrc hdst off n

/-- A MOVE of at most one tile between operands of its die is one piece (R206). -/
theorem State.cut_move (hop : s.opOf x = some u) (hn : x.next = 0) (hl : x.len ≤ 4096) : s.cut x = x.len := by
  simp only [State.cut, hk, State.cut.go, State.endsOf_move hu hsv hdv hdr hsrc hdst hk hop, State.roomAt, hn]
  omega

end move

/-! ### The obligation -/

/-- Settles O52. The MOVE opens its transfer (`exec_move_opens`, `State.openXfer_of_own`); its one piece is issued (`State.pump_issues`,
`State.issuePiece_pads`) and lands (`State.addPiece_whole`), and nothing is left to issue (`MovedWhole.pump`). -/
theorem moveWithinADieCopies : Obligations.MoveWithinADieCopies := by
  unfold Obligations.MoveWithinADieCopies
  intro c p s u a b hu hend hxf hreset hdone hsus hsv hdv hdr hsrc hdst hl1 hl hids hda hdb
  obtain ⟨hcur, hop⟩ := State.current_of_currentIs hu
  have hlines : moveDestLines p c u.run.doneBytes = [(c.die, linesOf (walkBytes b 0 p.len))] := by simp [moveDestLines, hdst, hdv, hdr, hdone]
  let dests := [(c.die, linesOf (walkBytes b 0 p.len))]
  let v := s.markDests c u dests
  let x := v.opXfer c u .move .fp32 p.flow p.len 0 []
  let u' : Cur := { u with run := { u.run with xfer := some x.id } }
  let w := (v.addXfer x).setRun c u.q u'.run
  have hown : ∀ d ∈ dests, ∀ m ∈ (s.slice d.1).wet, m.line ∈ d.2 → m.own c u.q u.run.op = true := List.forall_mem_singleton.mpr hdb
  have hexec : exec (.move c p) s = .next (w.pump c u.q 256) := by
    rw [exec_move_opens hend hxf hu (by simp [hdr]), hlines, hdone, State.openXfer_of_own _ _ _ _ _ _ hown]
  have hgo : (v.addXfer x).Going c u := (State.going_of_currentIs hu).congr rfl rfl rfl rfl
  have hw : w.Going c u' := hgo.setRun hgo.outcome
  have hx : w.xfer? x.id = some x := State.xfer?_addXfer (s := v) hids
  have hopx : w.opOf x = some u' := hw.opOf rfl rfl rfl rfl rfl rfl
  have hdry : w.dry c u' (linesOf (walkBytes a 0 p.len)) := State.dry.mono (t := w) hda (State.markWet_wet s c u c.die u.desc.opTag _ _)
  have hcut : w.cut x = p.len := State.cut_move (u := u') hop hsv hdv hdr hsrc hdst rfl hopx rfl hl
  have hends : w.endsOf x x.next (w.cut x) = some (.pad c.die (walkBytes a 0 p.len), .pad c.die (walkBytes b 0 p.len)) := by
    rw [hcut]; exact State.endsOf_move (u := u') hop hsv hdv hdr hsrc hdst rfl hopx 0 p.len
  have hissue := State.issuePiece_pads (x := x) rfl rfl rfl hl1 rfl hends hdry
  rw [hcut] at hissue
  let t := w.addPiece u.run.accept x p.len (.pad c.die (walkBytes a 0 p.len)) (.scratch c.die (walkBytes a 0 p.len)) (.scratch c.die (walkBytes b 0 p.len))
  have ht : MovedWhole w t c x (walkBytes b 0 p.len) (padTo p.len ((walkBytes a 0 p.len).map fun i => sget 0 (w.slice c.die).mem i)) :=
    State.addPiece_whole hx rfl rfl rfl rfl (State.unfenced_of_current (s := s) hcur) hreset u.run.accept _ _ rfl rfl
  have hpump : w.pump c u.q 256 = t :=
    (State.pump_issues hw hsus rfl hx rfl hissue 255).trans (ht.pump (setRun_run (v.addXfer x) c u.q u'.run) rfl 255)
  have hmem : ∀ d, (w.slice d).mem = (s.slice d).mem := (OnlyCore.markWet s c c c.die u.q u.run.op u.desc.opTag _ _).pads
  refine ⟨t, hexec.trans (by rw [hpump]), ?_, fun d hd => (ht.pads d hd).trans (hmem d), ?_, ?_, ?_, ?_, ht.ack, ht.pkts, ht.nextId⟩
  · rw [ht.pad, hmem]
  all_goals rw [ht.outside]; rfl

end Sys2Proof.Machine
end

section
/-! PROOFS. The commands on programs: COUNTER_SET, BARRIER_CONFIG, STOP_AT, EXEC and RESUME_FAULT (R160, R181, R182, R190, R226, R365, R374,
R375, R466). -/

namespace Sys2Proof.Machine

open Sys2Proof

/-! ### Counters, lines and held faults of a context that does not run -/

/-- COUNTER_SET writes a counter of an idle context (R182, R365). -/
theorem exec_counterSet_idle {h : CmdHdr} {p : CounterSetP} {x : Ctx} {s : State} (hs : s.starts h (.counterSet p)) (hx : s.namesIdle p.ctx x) :
    exec (.counterSet h p) s = .next ((s.putCtx (ctxOf p.ctx) (x.setCounter p.core p.counter p.value.toNat)).complete h .done 0) := by
  obtain ⟨hname, hidle⟩ := hx
  exact congrArg _ ((State.host1_starts hs).trans ((State.onCtx_names hname).trans (if_neg hidle)))

theorem Ctx.setCounter_word (x : Ctx) (c : CoreId) (k : Fin 64) (v : Word32) :
    (x.setCounter c k v.toNat).counters = sset 0 x.counters (64 * c.val + k.val) v := by
  simp [Ctx.setCounter, ctrKey]

/-- A context with a line set, or removed where the mask is empty (R190). -/
def Ctx.configLine (x : Ctx) (p : BarrierConfigP) : Ctx :=
  { x with lines := if p.mask = 0 then assocDel p.line.val x.lines else assocSet p.line.val ⟨p.mask, p.count, false, [], [], false, []⟩ x.lines }

/-- BARRIER_CONFIG sets or removes a line of an idle context, where no participant's die is fenced (R190). -/
theorem exec_barrierConfig_idle {h : CmdHdr} {p : BarrierConfigP} {x : Ctx} {s : State} (hs : s.starts h (.barrierConfig p))
    (hx : s.namesIdle p.ctx x) (hn : popcount p.mask 68 = p.count) (hd : ∀ d : DieId, field p.mask (4 * d.val) 4 ≠ 0 → s.fenced (.c d) = false)
    (hm : ∀ m : BedId, bit p.mask (64 + m.val) = true → s.fenced (.m m) = false) :
    exec (.barrierConfig h p) s = .next ((s.putCtx (ctxOf p.ctx) (x.configLine p)).complete h .done 0) := by
  obtain ⟨hname, hidle⟩ := hx
  have hcores : (allDies.any fun d => field p.mask (4 * d.val) 4 ≠ 0 && s.fenced (.c d)) = false :=
    List.any_eq_false.mpr fun d _ => by simpa using hd d
  have hmedia : (allBeds.any fun m => bit p.mask (64 + m.val) && s.fenced (.m m)) = false :=
    List.any_eq_false.mpr fun m _ => by simpa using hm m
  refine congrArg _ ((State.host1_starts hs).trans ((State.onCtx_names hname).trans ((if_neg hidle).trans ((if_neg (not_not.mpr hn)).trans ?_))))
  rw [hcores, hmedia]
  rfl

/-- A held fault with the answer that RESUME_FAULT gives it (R226). -/
def Ctx.answer (x : Ctx) (f : HeldFault) (endIt : Bool) : Ctx :=
  { x with held := x.held.map fun (e : HeldFault) => if e.id = f.id then { e with answer := some endIt } else e }

/-- RESUME_FAULT records its answer to a held operation of an idle context (R226). -/
theorem exec_resumeFault_idle {h : CmdHdr} {p : ResumeFaultP} {x : Ctx} {f : HeldFault} {c : CoreId} {q : QueueId} {tag : Word32} {s : State}
    (hs : s.starts h (.resumeFault p)) (hx : s.namesIdle p.ctx x) (hf : x.held.find? (fun f => f.id == p.faultId) = some f) (hb : f.by_ = .op c q tag) :
    exec (.resumeFault h p) s = .next ((s.putCtx (ctxOf p.ctx) (x.answer f p.endIt)).complete h .done 0) := by
  obtain ⟨hname, hidle⟩ := hx
  refine congrArg _ ((State.host1_starts hs).trans ((State.onCtx_names hname).trans ?_))
  simp only [hf, hb, if_neg hidle]
  rfl

/-! ### STOP_AT of a context without a program -/

section stopAt
variable {h : CmdHdr} {p : StopAtP} {x : Ctx} {s : State} (hs : s.starts h (.stopAt p)) (hx : s.names p.ctx x) (he : x.exec = none) (hv : x.saved = none)
include hs hx he hv

/-- A STOP_AT that clears removes the count of its queue (R466). -/
theorem exec_stopAt_clears (hc : p.clear = true) (hn : p.count = 0) : exec (.stopAt h p) s =
    .next ((s.putCtx (ctxOf p.ctx) { x with stops := assocDel (4 * p.core.val + p.queue.val) x.stops }).complete h .done 0) := by
  refine congrArg _ ((State.host1_starts hs).trans ((State.onCtx_names hx).trans ?_))
  simp [hc, hn, he, hv]

/-- Any other STOP_AT stores the count of its queue (R181, R466). -/
theorem exec_stopAt_stores (hc : p.clear = false) : exec (.stopAt h p) s =
    .next (((s.putCtx (ctxOf p.ctx) { x with stops := assocSet (4 * p.core.val + p.queue.val) p.count x.stops }).putCtx (ctxOf p.ctx)
      { x with stops := assocSet (4 * p.core.val + p.queue.val) p.count x.stops }).complete h .done 0) := by
  refine congrArg _ ((State.host1_starts hs).trans ((State.onCtx_names hx).trans ?_))
  simp [hc, he, hv, State.modCtx, State.ctx?]

end stopAt

/-- A completion after a context has been put leaves that context and the cores. -/
theorem State.complete_putCtx (s : State) (n : CtxId) (x : Ctx) (h : CmdHdr) (st : Status) (progress fid : Nat) :
    ((s.putCtx n x).complete h st progress fid).ctx? n = some x ∧ ((s.putCtx n x).complete h st progress fid).cores = s.cores := by
  have hframe := State.complete_frame (s.putCtx n x) h st progress fid
  exact ⟨(congrArg (assoc? n) hframe.ctxs).trans (assoc?_assocSet_same n x s.ctxs), hframe.cores⟩

/-! ### EXEC -/

/-- The first waiting EXEC of the running context, whose container passes its checks, loads its queues (R160, R352, R378). -/
theorem exec_execProgram_loads {h : CmdHdr} {p : ExecP} {env : Env} {x : Ctx} {bs : List Byte} {prog : Program} {s u : State}
    (hs : s.starts h (.exec p)) (h0 : ctxOf p.ctx ≠ 0) (hx : s.names p.ctx x) (he : x.exec = none) (hf : x.faulted = false)
    (hrun : s.running = some (ctxOf p.ctx)) (hfirst : s.firstExec h (ctxOf p.ctx) = true) (hstay : s.preempting (ctxOf p.ctx) = false)
    (hread : s.readContainer (ctxOf p.ctx) env p.container = .ok (bs, u)) (hload : u.loadProgram x p.container bs = .ok prog) :
    exec (.execProgram h p env) s = .next (u.beginProgram (ctxOf p.ctx) h p prog) := by
  refine congrArg _ ((State.host1_starts hs).trans ?_)
  simp only [if_neg h0, State.onCtx_names hx, he, hf, hrun, hfirst, hstay, hread, hload, Option.isSome_none, Bool.not_true, Bool.or_self,
    Bool.false_eq_true, not_true, if_false, ne_eq, decide_false]

/-! ### The obligation -/

/-- Settles O15, one command after the other by the lemma that says what it does in the case named. -/
theorem programCommandsComplete : Obligations.ProgramCommandsComplete := by
  unfold Obligations.ProgramCommandsComplete
  refine ⟨fun h p x s hs hx => ⟨exec_counterSet_idle hs hx, Ctx.setCounter_word x p.core p.counter p.value⟩,
    fun h p x s hs hx hn hd hm => exec_barrierConfig_idle hs hx hn hd hm, ?stopAt,
    fun h p env x bs prog s u hs h0 hx he hf hrun hfirst hstay hread hload =>
      exec_execProgram_loads hs h0 hx he hf hrun hfirst hstay hread hload,
    fun h p x f c q tag s hs hx hf hb => exec_resumeFault_idle hs hx hf hb⟩
  case stopAt =>
    intro h p x s hs hx he hv hcount
    cases hc : p.clear with
    | true =>
      have hn : p.count = 0 := hcount.resolve_left (by simp [hc])
      obtain ⟨hctx, hcores⟩ := State.complete_putCtx s (ctxOf p.ctx) { x with stops := assocDel (4 * p.core.val + p.queue.val) x.stops } h .done 0 0
      exact ⟨_, _, exec_stopAt_clears hs hx he hv hc hn, hctx, hcores, rfl⟩
    | false =>
      obtain ⟨hctx, hcores⟩ := State.complete_putCtx (s.putCtx (ctxOf p.ctx) _) (ctxOf p.ctx)
        { x with stops := assocSet (4 * p.core.val + p.queue.val) p.count x.stops } h .done 0 0
      exact ⟨_, _, exec_stopAt_stores hs hx he hv hc, hctx, hcores, rfl⟩

end Sys2Proof.Machine
end

section
/-! PROOFS. Barriers, held reads, time-outs and the quiesce of cores (R178, R179, R181, R191 to R193, R196 to R200, R203, R378, R380, R428,
R452, R453). -/

namespace Sys2Proof.Machine

open Sys2Proof

/-! ### What a fault record leaves alone -/

/-- The contexts, the scratchpads, the fabric and the queues of every core are as before, and which context runs. -/
structure SameQueues (s t : State) : Prop where
  ctxs : t.ctxs = s.ctxs
  slices : t.slices = s.slices
  fabric : t.fabric = s.fabric
  running : t.running = s.running
  queue : ∀ c q, (t.core c).queue q = (s.core c).queue q

theorem SameQueues.same (s : State) : SameQueues s s := ⟨rfl, rfl, rfl, rfl, fun _ _ => rfl⟩

theorem SameQueues.trans {s t u : State} (a : SameQueues s t) (b : SameQueues t u) : SameQueues s u :=
  ⟨b.ctxs.trans a.ctxs, b.slices.trans a.slices, b.fabric.trans a.fabric, b.running.trans a.running, fun c q => (b.queue c q).trans (a.queue c q)⟩

theorem SameQueues.ofBlock {s t : State} (h : SameBlock s t) : SameQueues s t :=
  ⟨h.ctxs, h.slices, h.fabric, h.running, fun c q => congrArg (fun l => (l.get c).queue q) h.cores⟩

theorem SameBlock.raiseInt {s : State} (b : Nat) : SameBlock s (s.raiseInt b) := by
  unfold State.raiseInt
  split
  · exact .rfl
  · dsimp only
    split
    · exact (SameBlock.modHost _).trans (SameBlock.sendMsix _ _)
    · exact .modHost _

theorem SameQueues.log (s : State) (l : FaultLog) : SameQueues s { s with log := l } := ⟨rfl, rfl, rfl, rfl, fun _ _ => rfl⟩

/-- A core under a change of all. -/
theorem core_mapCores (s : State) (f : CoreId → Core → Core) (c : CoreId) : (s.mapCores f).core c = f c (s.core c) := by
  rw [State.core, State.mapCores_cores, Vector.get_ofFn]
  rfl

/-- A fault record touches the log, the counts of its die, device time and the host interface. -/
theorem SameQueues.logFault (s : State) (f : FaultInfo) (body : List (List Byte)) : SameQueues s (s.logFault f body).2 := by
  unfold State.logFault
  refine .trans ?_ (.ofBlock (SameBlock.raiseInt intFault))
  split <;> exact ⟨rfl, rfl, rfl, rfl, fun _ _ => rfl⟩

/-! ### Lags (R203, R452, R453) -/

theorem SameQueues.flagLaggard (s : State) (d : DieId) : SameQueues s (s.flagLaggard d) := by
  unfold State.flagLaggard
  dsimp only
  split
  · split
    · exact .same s
    · exact .trans (t := { s with log := { s.log with lagFlags := s.log.lagFlags ++ [d] } }) (.log s _) (.logFault _ _ _)
  · exact .log s _

theorem SameQueues.scoreLags (s : State) (mask : Nat) : SameQueues s (s.scoreLags mask) := by
  unfold State.scoreLags
  split
  · exact .same s
  · refine List.foldlRecOn (motive := SameQueues s) allDies _ (.log s _) fun v h d _ => ?_
    split
    · exact h
    · exact h.trans (.flagLaggard v d)

theorem SameQueues.pushLags (s : State) (mask : Nat) (times : List (Nat × Nat)) : SameQueues s (s.pushLags mask times) := by
  unfold State.pushLags
  refine .trans ⟨State.mapCores_ctxs .., State.mapCores_slices .., State.mapCores_fabric .., State.mapCores_running .., fun c q => ?_⟩ (.log _ _)
  rw [core_mapCores]
  split <;> rfl

/-! ### Arrivals and releases -/

section barrier
variable {c : CoreId} {q : QueueId} {s : State} {n : CtxId} {x : Ctx} {e : Exec} {d : Desc} {ds : List Desc} {l : LineId} {h : HatchLine}
  (hact : s.acting c = some (n, x, e)) (hops : ((s.core c).queue q).ops = d :: ds) (hrun : ((s.core c).queue q).run = none)
  (hop : d.op = .barrier l) (hwait : ((s.core c).queue q).wait = .none ∨ ((s.core c).queue q).wait = .counter) (hmet : x.met c d = true)
  (hl : x.line? l = some h) (hb : h.broken = false) (hm : bit h.mask c.val = true)
include hact hops hrun hop hwait hmet hl hb hm

/-- A BARRIER at the head of its queue arrives at a line of which its core is a participant (R191 to R193). -/
theorem exec_barrier_arrives : exec (.barrier c q) s =
    .next ((s.putCtx n (x.setLine l (h.arrive c.val s.timeNs).1)).modQueue c q fun w =>
      { w.beginWait (if (h.arrive c.val s.timeNs).2 = 0 then .barrier else .reentry) s.regs.waitLimit s.timeNs with
        barGens := (h.arrive c.val s.timeNs).2 }) := by
  have hready : (decide (((s.core c).queue q).wait ≠ .none) && decide (((s.core c).queue q).wait ≠ .counter) || !x.met c d) = false := by
    rcases hwait with hw | hw <;> simp [hw, hmet]
  refine congrArg Host.Outcome.next ?_
  simp only [hact, hops, hrun, hop, hl, hb, hm, hready]
  rfl

/-- The first arrival of a core in a generation (R192). -/
theorem exec_barrier_first (ha : c.val ∉ h.arrived) : exec (.barrier c q) s =
    .next ((s.putCtx n (x.setLine l { h with arrived := h.arrived ++ [c.val], times := h.times ++ [(c.val, s.timeNs)] })).modQueue c q fun w =>
      { w.beginWait .barrier s.regs.waitLimit s.timeNs with barGens := 0 }) := by
  rw [exec_barrier_arrives hact hops hrun hop hwait hmet hl hb hm, HatchLine.arrive, if_neg ha]
  rfl

/-- A later arrival is held for the next generation it has none for (R193). -/
theorem exec_barrier_again (ha : c.val ∈ h.arrived) :
    let ahead := (h.held.filter fun e => e.1 = c.val).length + 1
    exec (.barrier c q) s = .next ((s.putCtx n (x.setLine l { h with held := h.held ++ [(c.val, ahead)] })).modQueue c q fun w =>
      { w.beginWait .reentry s.regs.waitLimit s.timeNs with barGens := ahead }) := by
  rw [exec_barrier_arrives hact hops hrun hop hwait hmet hl hb hm, HatchLine.arrive, if_pos ha]
  rfl

end barrier

section release
variable {l : LineId} {s : State} {n : CtxId} {x : Ctx} {h : HatchLine} (ht : s.ticking = true) (hctx : s.runCtx = some (n, x))
include ht hctx

/-- Where the count of arrivals disagrees, the waiters of the line end (R428). -/
theorem exec_hatchRelease_mismatch : exec (.hatchRelease l true) s = .next (s.failWaiters n fun k => k == l) := by
  refine congrArg Host.Outcome.next ?_
  simp only [ht, hctx]
  rfl

/-- A line at which every participant has arrived releases (R192). -/
theorem exec_hatchRelease_full (hl : x.line? l = some h) (hm : h.mask ≠ 0) (hb : h.broken = false) (ha : ∀ p ∈ participants h.mask, p ∈ h.arrived) :
    exec (.hatchRelease l false) s =
      .next (((((s.stamp.putCtx n (x.setLine l (h.release s.stamp.timeNs))).mapCores fun _ k =>
        { k with queues := k.queues.map fun w => w.released l }).pushLags h.mask h.times).scoreLags h.mask)) := by
  have hopen : (decide (h.mask = 0) || h.broken || !(participants h.mask).all fun p => decide (p ∈ h.arrived)) = false := by
    simpa [hm, hb] using ha
  refine congrArg Host.Outcome.next ?_
  simp only [ht, hctx, hl, hopen]
  rfl

/-- What the release of a line leaves: the line of the next generation with the re-entries held for it, and the queues it releases
(R192, R193). -/
theorem exec_hatchRelease_next (hl : x.line? l = some h) (hm : h.mask ≠ 0) (hb : h.broken = false)
    (ha : ∀ p ∈ participants h.mask, p ∈ h.arrived) :
    ∃ t, exec (.hatchRelease l false) s = .next t ∧ t.ctx? n = some (x.setLine l (h.release s.stamp.timeNs)) ∧
      (∀ c q, (t.core c).queue q = ((s.core c).queue q).released l) ∧ t.slices = s.slices ∧ t.fabric = s.fabric ∧ t.running = s.running := by
  refine ⟨_, exec_hatchRelease_full ht hctx hl hm hb ha, ?_⟩
  let v := s.stamp.putCtx n (x.setLine l (h.release s.stamp.timeNs))
  let w := v.mapCores fun _ k => { k with queues := k.queues.map fun w => w.released l }
  have hsame : SameQueues w ((w.pushLags h.mask h.times).scoreLags h.mask) := (SameQueues.pushLags w _ _).trans (.scoreLags _ _)
  refine ⟨?_, fun c q => ?_, hsame.slices.trans (State.mapCores_slices ..), hsame.fabric.trans (State.mapCores_fabric ..),
    hsame.running.trans (State.mapCores_running ..)⟩
  · exact (congrArg (assoc? n) (hsame.ctxs.trans (State.mapCores_ctxs ..))).trans (assoc?_assocSet_same n _ _)
  · rw [hsame.queue, core_mapCores]
    exact Vector.getElem_map ..

end release

/-! ### Held reads -/

theorem exec_wetLineClear_leaves {c : CoreId} {dt : Nat} {s : State} {u : Cur} {line : Nat} (hu : s.current c = some u)
    (hw : ((s.core c).queue u.q).wait = .wet line) (hdry : s.lineWet c ((s.core c).cyc + dt) line = false)
    (hat : s.clearsAt c line ≠ [] → (s.core c).cyc + dt = (s.clearsAt c line).foldl max (s.core c).cyc) :
    exec (.wetLineClear c dt) s = .next ((s.stallTo c 15 ((s.core c).cyc + dt)).modQueue c u.q fun q =>
      { q with wait := .none, run := q.run.map fun r => { r with leaveAt := some ((s.core c).cyc + dt) } }) := by
  have hnow : ((s.clearsAt c line).isEmpty || (s.core c).cyc + dt == (s.clearsAt c line).foldl max (s.core c).cyc) = true := by
    by_cases he : s.clearsAt c line = []
    · simp [he]
    · simp [← hat he]
  refine congrArg Host.Outcome.next ?_
  simp only [hu, hw, hnow, hdry]
  rfl

/-! ### Time-outs -/

section timeout
variable {c : CoreId} {q : QueueId} {elapsed : Nat} {s : State} {n : CtxId} {x : Ctx} {e : Exec}
/-- The state at the moment at which a wait of a queue has lasted `elapsed` ns (R196). -/
def State.waitedUntil (s : State) (c : CoreId) (q : QueueId) (elapsed : Nat) : State :=
  { s with timeNs := (s.core c).timeOf s.timeNs ((s.core c).queue q) elapsed }

variable (hact : s.acting c = some (n, x, e)) (hlong : 100000 * ((s.core c).queue q).waitLimit < elapsed)
  (hsoon : elapsed ≤ 100000 * ((s.core c).queue q).waitLimit + 10000)
  (hpast : min ((s.core c).measured s.timeNs ((s.core c).queue q)) (100000 * ((s.core c).queue q).waitLimit + 10000) ≤ elapsed)
  (hent : ((s.waitedUntil c q elapsed).waitEntry x c q).isSome = true)
include hact hlong hsoon hpast hent

/-- A held read past its limit ends with HAZARD_WET_READ (R178, R197). -/
theorem exec_waitTimeout_wet {line : Nat} {u : Cur} (hw : ((s.core c).queue q).wait = .wet line) (hu : s.current c = some u) (hq : u.q = q) :
    exec (.waitTimeout c q elapsed) s = .next ((s.waitedUntil c q elapsed).failOp c u (u.info c .hazardWetRead 0x10 (128 * line))
      ((s.waitedUntil c q elapsed).waitEntries x)) := by
  obtain ⟨b, hent⟩ := Option.isSome_iff_exists.mp hent
  unfold State.waitedUntil at hent
  refine congrArg Host.Outcome.next ?_
  simp only [hact, hlong.not_ge, hsoon.not_gt, hpast.not_gt, hent, hw, hu, hq]
  rfl

/-- A wait of the operation in hand past its limit ends it with SYNC_TIMEOUT (R196, R197). -/
theorem exec_waitTimeout_op {u : Cur} (hw : ∀ line, ((s.core c).queue q).wait ≠ .wet line) (hu : s.current c = some u) (hq : u.q = q) :
    exec (.waitTimeout c q elapsed) s = .next (((s.waitedUntil c q elapsed).setSync syncTimeout).failOp c u (u.info c .syncTimeout 0x10 0)
      ((s.waitedUntil c q elapsed).waitEntries x)) := by
  obtain ⟨b, hent⟩ := Option.isSome_iff_exists.mp hent
  unfold State.waitedUntil at hent
  refine congrArg Host.Outcome.next ?_
  simp only [hact, hlong.not_ge, hsoon.not_gt, hpast.not_gt, hent, hu, hq]
  cases hk : ((s.core c).queue q).wait
  case wet line => exact absurd hk (hw line)
  all_goals rfl

/-- A wait of a head that has not issued past its limit ends it with SYNC_TIMEOUT (R196, R197). -/
theorem exec_waitTimeout_head (hw : ∀ line, ((s.core c).queue q).wait ≠ .wet line) (hu : ∀ u, s.current c = some u → u.q ≠ q) :
    exec (.waitTimeout c q elapsed) s = .next (((s.waitedUntil c q elapsed).setSync syncTimeout).failHead n c q .syncTimeout 0x10
      ((s.waitedUntil c q elapsed).waitEntries x)) := by
  obtain ⟨b, hent⟩ := Option.isSome_iff_exists.mp hent
  unfold State.waitedUntil at hent
  refine congrArg Host.Outcome.next ?_
  simp only [hact, hlong.not_ge, hsoon.not_gt, hpast.not_gt, hent]
  cases hk : ((s.core c).queue q).wait
  case wet line => exact absurd hk (hw line)
  all_goals
    cases hcur : s.current c with
    | none => rfl
    | some u => simp only [if_neg (hu u hcur)]; rfl

end timeout

/-! ### Quiesce -/

section quiesce
variable {s : State} {n : CtxId} {x : Ctx} {e : Exec} (ht : s.ticking = true) (hctx : s.runCtx = some (n, x)) (he : x.exec = some e)
include ht hctx he

/-- A program that stops for good ends its EXEC (R179, R380). -/
theorem exec_quiesce_ends (hstop : e.stopSt.isSome = true) (hc : s.canQuiesce n (inMap e.coreMap) = true) :
    exec .quiesce s = .next ((((allCores.filter (inMap e.coreMap)).foldl (fun s c => s.parkCore n c) s).dropFlow n).endExec n) := by
  refine congrArg Host.Outcome.next ?_
  simp only [ht, hctx, he, hstop, hc]
  rfl

/-- A program that is switched out parks its cores (R179, R384). -/
theorem exec_quiesce_parks (hstop : e.stopSt = none) (hp : s.preempting n = true) (hx : x.program = true)
    (hc : s.canQuiesce n (inMap e.coreMap) = true) :
    exec .quiesce s = .next ((allCores.filter (inMap e.coreMap)).foldl (fun s c => s.parkCore n c) s) := by
  refine congrArg Host.Outcome.next ?_
  simp only [ht, hctx, he, hstop, hp, hx, hc]
  rfl

/-- Cores that are asked to stop, of a program that goes on, enter the stopped state (R181, R466). -/
theorem exec_quiesce_stops (hstop : e.stopSt = none) (hp : (s.preempting n && x.program) = false)
    (hany : allCores.any (fun c => inMap e.coreMap c && (s.core c).stopping) = true)
    (hc : s.canQuiesce n (fun c => inMap e.coreMap c && (s.core c).stopping) = true) :
    exec .quiesce s = .next ((allCores.filter fun c => inMap e.coreMap c && (s.core c).stopping).foldl
      (fun s c => (s.quiesceCore n c).stopCore n c (stopQueue x (s.core c) c)) s) := by
  refine congrArg Host.Outcome.next ?_
  simp only [ht, hctx, he, hstop, hp, hany, hc]
  rfl

end quiesce

/-! ### The obligation -/

/-- Settles O48, one clause after the other by the lemma that says what the row does in the case named; a release is
`exec_hatchRelease_next`. -/
theorem barriersAndWaitsComplete : Obligations.BarriersAndWaitsComplete := by
  unfold Obligations.BarriersAndWaitsComplete
  refine ⟨?barrier, ?release, fun l s n x h ht hctx _ => exec_hatchRelease_mismatch ht hctx,
    fun c dt s u line hu hw hdry hat => exec_wetLineClear_leaves hu hw hdry hat, ?timeout, ?quiesce⟩
  case barrier =>
    intro c q s n x e d ds l h hact hops hrun hop hwait hmet hl hb hm
    exact ⟨exec_barrier_first hact hops hrun hop hwait hmet hl hb hm, exec_barrier_again hact hops hrun hop hwait hmet hl hb hm⟩
  case release =>
    intro l s n x h ht hctx hl hm hb ha
    obtain ⟨t, hexec, hline, hqueues, hslices, hfabric, hrunning⟩ := exec_hatchRelease_next ht hctx hl hm hb ha
    exact ⟨t, _, _, hexec, hline, assoc?_assocSet_same l.val _ x.lines, rfl, rfl, hb, rfl, hqueues, hslices, hfabric, hrunning⟩
  case timeout =>
    intro c q elapsed s n x e hact w limit v hlong hsoon hpast hent
    exact ⟨fun line u hw hu hq => exec_waitTimeout_wet hact hlong hsoon hpast hent hw hu hq, fun hw =>
      ⟨fun u hu hq => exec_waitTimeout_op hact hlong hsoon hpast hent hw hu hq, exec_waitTimeout_head hact hlong hsoon hpast hent hw⟩⟩
  case quiesce =>
    intro s n x e ht hctx he on
    refine ⟨exec_quiesce_ends ht hctx he, exec_quiesce_parks ht hctx he, ?_⟩
    rintro hstop hp one rfl hany hc
    exact exec_quiesce_stops ht hctx he hstop hp hany hc

end Sys2Proof.Machine
end

section
/-! PROOFS. Waits on counters, and the values that a cold reset leaves (R85, R185, R204, R219, R237, R433, R454, R456, R459, R472, R475, R483,
R489). -/

namespace Sys2Proof.Machine

open Sys2Proof

/-! ### The wrap-safe comparison (R185) -/

section waits
variable {c t : Nat} (hc : c < 2 ^ 32) (ht : t < 2 ^ 32)
include hc ht

/-- The comparison is that of the difference modulo 2^32. -/
theorem waitMet_iff_emod : waitMet c t = true ↔ ((c : Int) - t) % 2 ^ 32 < 2 ^ 31 := by
  simp only [waitMet, decide_eq_true_eq]
  omega

/-- The comparison is that of the 32-bit difference as a signed number. -/
theorem waitMet_iff_toInt : waitMet c t = true ↔ 0 ≤ (BitVec.ofNat 32 c - BitVec.ofNat 32 t).toInt := by
  have hdiff : (BitVec.ofNat 32 c - BitVec.ofNat 32 t).toNat = (2 ^ 32 - t + c) % 2 ^ 32 := by
    rw [BitVec.toNat_sub, BitVec.toNat_ofNat, BitVec.toNat_ofNat, Nat.mod_eq_of_lt hc, Nat.mod_eq_of_lt ht]
  rw [BitVec.toInt_eq_toNat_cond, hdiff]
  simp only [waitMet, decide_eq_true_eq]
  split <;> omega

end waits

section target
variable {t k : Nat} (ht : t < 2 ^ 32)
include ht

/-- From its target on a wait is met for 2^31 counts. -/
theorem waitMet_past (hk : k < 2 ^ 31) : waitMet ((t + k) % 2 ^ 32) t = true := by
  simp only [waitMet, decide_eq_true_eq]
  omega

/-- For the 2^31 counts before its target a wait is not met. -/
theorem waitMet_ahead (h1 : 1 ≤ k) (hk : k ≤ 2 ^ 31) : waitMet ((t + 2 ^ 32 - k) % 2 ^ 32) t = false := by
  simp only [waitMet, decide_eq_false_iff_not]
  omega

end target

/-- The wait condition of a descriptor compares its context's counter on its core, where it has one. -/
theorem Ctx.met_iff (x : Ctx) (c : CoreId) (d : Desc) :
    x.met c d = true ↔ d.waitEn = false ∨ waitMet (x.counter c d.waitCtr) d.waitTarget.toNat = true := by
  simp [Ctx.met]

/-- A queue that waits on a counter is eligible where the wait condition of its head is met and the head is no BARRIER (R152, R192). -/
theorem Queue.eligible_counter {w : Queue} {x : Ctx} {c : CoreId} {d : Desc} {ds : List Desc} (hops : w.ops = d :: ds) (hrun : w.run = none)
    (hwait : w.wait = .counter) (hop : ∀ l, d.op ≠ .barrier l) : w.eligible x c = x.met c d := by
  simp only [Queue.eligible, hops, hwait, hrun]

/-- Settles O58 by the lemmas about the comparison; the queue's clause is `Queue.eligible_counter`. -/
theorem waitsCountModulo : Obligations.WaitsCountModulo := by
  unfold Obligations.WaitsCountModulo
  exact ⟨fun c t hc ht => ⟨waitMet_iff_emod hc ht, waitMet_iff_toInt hc ht, fun k => waitMet_past ht, fun k => waitMet_ahead ht⟩,
    Ctx.met_iff, fun x c k q d ds hops hrun hwait hop => Queue.eligible_counter hops hrun hwait hop⟩

/-! ### A cold reset -/

theorem reset_core (c : CoreId) : State.reset.core c = Core.reset := by simp [State.core, State.reset, Vector.get]
theorem reset_slice (d : DieId) : State.reset.slice d = Slice.reset := by simp [State.slice, State.reset, Vector.get]
theorem reset_bed (b : BedId) : State.reset.bed b = Bed.reset := by simp [State.bed, State.reset, Vector.get]

/-- Settles O3: the parts of the reset state are literals, and every core, slice and bed is one and the same. -/
theorem resetLeavesTheSpecifiedValues : Obligations.ResetLeavesTheSpecifiedValues := by
  unfold Obligations.ResetLeavesTheSpecifiedValues
  refine ⟨rfl, rfl, rfl, rfl, by decide, rfl, rfl, rfl, rfl, rfl, rfl, rfl, rfl, fun b => ?beds, rfl, rfl, fun c k => ?plates, fun d a => ?pads,
    rfl, rfl, rfl⟩
  case beds => rw [reset_bed]; rfl
  case plates => rw [reset_core]; rfl
  case pads => rw [reset_slice]; rfl

end Sys2Proof.Machine
end

section
/-! PROOFS. Power management: POWER_POLICY, TELEMETRY_READ, AVS_TRIM, POWER_MEASURE, POWER_LEND and POWER_RECLAIM (R201, R202, R471, R475,
R477, R489). -/

namespace Sys2Proof.Machine

open Sys2Proof

/-! ### POWER_POLICY (R475, R477) -/

/-- The power limit and lending as POWER_POLICY sets them. -/
def State.setPolicy (s : State) (p : PowerPolicyP) : State := { s with pw := { s.pw with limitW := p.limit, lend := p.lend } }

/-- No core lends or waits for its share. -/
def State.endLoans (s : State) : State := s.mapCores fun _ k => { k with pw := { k.pw with lending := false, reclaiming := false } }

theorem State.endLoans_rest (s : State) : s.endLoans = { s with cores := s.endLoans.cores } := by
  unfold State.endLoans State.mapCores
  rfl

/-- A POWER_POLICY in range sets the policy, and ends the loans where it disables lending. -/
theorem exec_powerPolicy_inRange {h : CmdHdr} {p : PowerPolicyP} {s : State} (hs : s.starts h (.powerPolicy p)) (hlo : 500 ≤ p.limit)
    (hhi : p.limit ≤ 2000) :
    exec (.powerPolicy h p) s = .next ((if p.lend then s.setPolicy p else (s.setPolicy p).endLoans).complete h .done) := by
  have hrange : ¬(p.limit < 500 ∨ 2000 < p.limit) := by omega
  exact congrArg Host.Outcome.next ((State.host1_starts hs).trans (if_neg hrange))

/-! ### TELEMETRY_READ (R489) -/

theorem State.teleImage_length (s : State) : s.teleImage.length = 1024 := by
  simp only [State.teleImage, List.length_flatMap, leBytes_length, List.map_const', List.sum_replicate, List.length_range, smul_eq_mul, Nat.reduceMul]

/-- TELEMETRY_READ reports the image, of a new snapshot if asked. -/
theorem exec_telemetryRead_reports {h : CmdHdr} {p : TelemetryReadP} {s u : State} (hs : s.starts h (.telemetryRead p))
    (hu : (if p.latch then s.latchTele else s) = u) :
    exec (.telemetryRead h p) s = .next ((if u.teleImage.take p.length = [] then u
      else u.send (.hostWrite (u.funcOf h.ctx) (u.pasidOf h.ctx) p.buffer (u.teleImage.take p.length) true)).complete h
        (if p.length < 1024 then .donePartial else .done) (u.teleImage.take p.length).length) := by
  subst hu
  refine congrArg _ ((State.host1_starts hs).trans ?_)
  simp only [State.report, State.teleImage_length, List.isEmpty_iff]

/-! ### AVS_TRIM (R471) -/

/-- The voltage to which a trim moves a rail: 5 mV up or down, unless that lies outside its range. -/
def trimmedRail (r : Rail) (up : Bool) (mv : Nat) : Nat :=
  if up then (if mv + 5 ≤ (Rail.range r).2 then mv + 5 else mv) else if (Rail.range r).1 + 5 ≤ mv then mv - 5 else mv

section trim
variable {r : Rail} {up : Bool} {n : Nat} {s : State} (hm : s.managing = true)
include hm

/-- A transaction that failed with all three retries leaves the rail. -/
theorem exec_avsTrim_fails (hn : 4 ≤ n) : exec (.avsTrim r up n) s = .next { s with pw := { s.pw with avsErr := true } } := by
  refine congrArg Host.Outcome.next ?_
  simp [hm, hn]

/-- A trim that moves its rail sends the new voltage; else it changes nothing. -/
theorem exec_avsTrim_moves (hn : n < 4) {mv : Nat} (hmv : trimmedRail r up (s.pw.railMv.get r.index) = mv) :
    exec (.avsTrim r up n) s = .next (if mv = s.pw.railMv.get r.index then s
      else ({ s with pw := { s.pw with railMv := vmod s.pw.railMv r.index fun _ => mv } } : State).send (.avs r mv)) := by
  subst hmv
  refine congrArg Host.Outcome.next ?_
  simp only [hm, Nat.not_le.mpr hn]
  rfl

/-- A trim sets its rail and no other, and changes neither cores nor HBM. -/
theorem exec_avsTrim_sets (hn : n < 4) : ∃ t, exec (.avsTrim r up n) s = .next t ∧
    t.pw.railMv.get r.index = trimmedRail r up (s.pw.railMv.get r.index) ∧ (∀ k, k ≠ r.index → t.pw.railMv.get k = s.pw.railMv.get k) ∧
    t.cores = s.cores ∧ t.hbm = s.hbm := by
  refine ⟨_, exec_avsTrim_moves hm hn rfl, ?_⟩
  split
  case isTrue hsame => exact ⟨hsame.symm, fun k _ => rfl, rfl, rfl⟩
  case isFalse => exact ⟨vmod_get_same _ _ _, fun k hk => vmod_get_other _ _ _ _ hk, rfl, rfl⟩

end trim

/-! ### POWER_MEASURE (R475, R489) -/

/-- A die whose temperature a measurement replaces, with its peak and the mean of its allowances. -/
def DieSt.measure (k : DieSt) (v : Nat) : DieSt :=
  { k with temp := v, peak := max k.peak v, ration := if k.rationCount = 0 then k.ration else 16 * k.rationSum / k.rationCount,
           rationSum := 0, rationCount := 0 }

/-- A measurement replaces the telemetry and measures every die. -/
theorem exec_powerMeasure_replaces {m : Telemetry} {s : State} (hm : s.managing = true) : ∃ t, exec (.powerMeasure m) s = .next t ∧
    t.pw.tele = m ∧ t.pw.easelTemp = m.easelTemp ∧
    (∀ i, t.dies.get i = (s.dies.get i).measure (nthD (s.dies.get i).temp m.dieTemp i.val)) ∧
    t.cores = s.cores ∧ t.hbm = s.hbm ∧ t.slices = s.slices := by
  simp only [exec, execPowerMeasure, hm]
  exact ⟨_, rfl, rfl, rfl, fun i => Vector.get_ofFn _ _, rfl, rfl, rfl⟩

/-! ### Lending (R201, R202) -/

section lending
variable {c : CoreId} {n : CtxId} {x : Ctx} {e : Exec} {s : State} (hact : s.acting c = some (n, x, e))
include hact

/-- While lending is on, a core that is idle under R201 lends. -/
theorem exec_powerLend_lends (hlend : s.pw.lend = true) (hnot : (s.core c).pw.lending = false) (hidle : s.idleFor c x = true) :
    exec (.powerLend c) s = .next (s.modCore c fun k => { k with pw := { k.pw with lending := true } }) := by
  refine congrArg Host.Outcome.next ?_
  simp [hact, hlend, hnot, hidle]

/-- A lending core with an eligible head starts to reclaim its share, with its waits kept up to now. -/
theorem exec_powerReclaim_reclaims (hlending : (s.core c).pw.lending = true) (hpick : ((s.core c).pick x c).isSome = true) :
    exec (.powerReclaim c) s = .next (s.modCore c fun k =>
      { k.bankWaits s.timeNs true with pw := { (k.bankWaits s.timeNs true).pw with reclaiming := true } }) := by
  refine congrArg Host.Outcome.next ?_
  simp only [hact, hlending, hpick]
  rfl

end lending

/-! ### The obligation -/

/-- Settles O42, one clause after the other by the lemma that says what the row does in the case named. -/
theorem powerManagementActs : Obligations.PowerManagementActs := by
  unfold Obligations.PowerManagementActs
  intro s
  refine ⟨?policy, ?telemetry, ?trim, ?measure, fun c n x e hact hlend hnot hidle => exec_powerLend_lends hact hlend hnot hidle,
    fun c n x e hact hlending hpick => exec_powerReclaim_reclaims hact hlending hpick⟩
  case policy =>
    intro h p hs hlo hhi
    refine ⟨_, exec_powerPolicy_inRange hs hlo hhi, fun hlend => if_pos hlend, fun hlend => ?_⟩
    rw [if_neg (Bool.eq_false_iff.mp hlend)]
    exact ⟨State.endLoans_rest (s.setPolicy p), fun c => core_mapCores (s.setPolicy p) _ c⟩
  case telemetry =>
    intro h p hs u bs
    refine ⟨State.teleImage_length u, fun hlatch => ?_, exec_telemetryRead_reports hs rfl⟩
    have hu : u = s.latchTele := if_pos hlatch
    rw [hu]
    exact ⟨rfl, rfl, rfl⟩
  case trim =>
    intro r up n hm
    rcases Nat.lt_or_ge n 4 with hn | hn
    · obtain ⟨t, hexec, hrail, hothers, hcores, hhbm⟩ := exec_avsTrim_sets (r := r) (up := up) hm hn
      exact ⟨t, hexec, fun hge => absurd hn (Nat.not_lt.mpr hge), fun _ => hrail, hothers, hcores, hhbm⟩
    · exact ⟨_, exec_avsTrim_fails hm hn, fun _ => rfl, fun hlt => absurd hn (Nat.not_le.mpr hlt), fun k _ => rfl, rfl, rfl⟩
  case measure =>
    intro m hm
    obtain ⟨t, hexec, htele, heasel, hdies, hcores, hhbm, hslices⟩ := exec_powerMeasure_replaces (m := m) hm
    refine ⟨t, hexec, htele, heasel, fun i v hv => ?_, hcores, hhbm, hslices⟩
    have hread : nthD (s.dies.get i).temp m.dieTemp i.val = v := by simp [nthD, hv]
    rw [hdies, hread]
    exact ⟨rfl, rfl⟩

end Sys2Proof.Machine
end

section
/-! PROOFS. Contexts: CTX_CREATE, the context reset of CTX_RESUME, and CTX_DESTROY (R182, R314, R363, R374, R375, R379, R448). -/

namespace Sys2Proof.Machine

open Sys2Proof

/-! ### Lists by key, and a context changed -/

theorem assoc?_eq_none_iff {κ β : Type} [DecidableEq κ] {k : κ} {l : List (κ × β)} : assoc? k l = none ↔ ∀ e ∈ l, e.1 ≠ k := by
  induction l with
  | nil => simp [assoc?]
  | cons e l ih => by_cases h : e.1 = k <;> simp [assoc?, h, ih]

theorem assoc?_filter_of_none {κ β : Type} [DecidableEq κ] {k : κ} {l : List (κ × β)} (f : κ × β → Bool) (h : assoc? k l = none) :
    assoc? k (l.filter f) = none :=
  assoc?_eq_none_iff.mpr fun e he => assoc?_eq_none_iff.mp h e (List.mem_filter.mp he).1

theorem State.ctx?_modCtx_same {s : State} {n : CtxId} {x : Ctx} (h : s.ctx? n = some x) (f : Ctx → Ctx) : (s.modCtx n f).ctx? n = some (f x) := by
  simp only [State.modCtx, h]
  exact assoc?_assocSet_same _ _ _

theorem State.ctx?_modCtx_other {n m : CtxId} (h : m ≠ n) (s : State) (f : Ctx → Ctx) : (s.modCtx n f).ctx? m = s.ctx? m := by
  unfold State.modCtx
  split
  · exact assoc?_assocSet_other h _ _
  · rfl

/-! ### Completions, and what they leave of the host interface -/

/-- Completions of a list of commands. -/
theorem SameBlock.completeAll {α : Type} (l : List α) (f : α → CmdHdr) (st : Status) (s : State) :
    SameBlock s (l.foldl (fun s a => s.complete (f a) st) s) :=
  List.foldlRecOn (motive := SameBlock s) l _ .rfl fun v h a _ => h.trans (State.complete_frame v (f a) st 0 0)

/-- The event rings and the windows are as before, and no ring pair is there that was not there before. -/
structure NoNewRings (s t : State) : Prop where
  events : t.host.events = s.host.events
  windows : t.host.windows = s.host.windows
  rings : ∀ c r, s.host.ring? c r = none → t.host.ring? c r = none

theorem NoNewRings.ofHost {s t : State} (h : t.host = s.host) : NoNewRings s t :=
  ⟨by rw [h], by rw [h], fun c r hr => by rw [h, hr]⟩

theorem NoNewRings.trans {s t u : State} (a : NoNewRings s t) (b : NoNewRings t u) : NoNewRings s u :=
  ⟨b.events.trans a.events, b.windows.trans a.windows, fun c r h => b.rings c r (a.rings c r h)⟩

theorem vwrite_host {c : CtxId} : ∀ {bs : List Byte} {s t : State} {v : Nat}, s.vwrite c v bs = .ok t → t.host = s.host
  | [], s, t, v, h => by
    simp only [State.vwrite] at h
    cases h
    rfl
  | x :: xs, s, t, v, h => by
    unfold State.vwrite at h
    split at h
    · cases h
    · exact (vwrite_host h).trans rfl
    · split at h
      · cases h
      · rename_i e
        obtain ⟨f, rfl⟩ := hbmWrite_frame e
        exact (vwrite_host h).trans rfl

@[simp] theorem ringWrite_host (s : State) (c : CtxId) (hbm : Bool) (a : Nat) (bs : List Byte) : (s.ringWrite c hbm a bs).host = s.host := by
  unfold State.ringWrite
  split
  · split
    · exact vwrite_host ‹_›
    · rfl
  · rfl

theorem NoNewRings.sendMsix (s : State) (f v : Nat) : NoNewRings s (s.sendMsix f v) := by
  unfold State.sendMsix
  split
  · exact ⟨rfl, rfl, fun _ _ h => h⟩
  · exact .ofHost rfl

/-- A ring pair that is there is put back changed. -/
theorem NoNewRings.putRing {s u : State} {c : CtxId} {r : Fin 64} {x : Ring} (hu : u.host = s.host) (hx : s.host.ring? c r = some x) (y : Ring) :
    NoNewRings s (u.putRing c r y) := by
  refine .trans (.ofHost hu) ⟨rfl, rfl, fun d q hnone => ?_⟩
  have hother : (d, q) ≠ (c, r) := fun e => by
    cases e
    rw [hu, hx] at hnone
    cases hnone
  exact (assoc?_assocSet_other hother _ _).trans hnone

theorem NoNewRings.writeRecord (s : State) (h : CmdHdr) (st : Status) (progress fid : Nat) :
    NoNewRings s (s.writeRecord h st progress fid) := by
  unfold State.writeRecord
  simp only []
  refine .trans (t := s.stamp.modHost fun i => { i with fetched := eraseFetched h i.fetched }) ⟨rfl, rfl, fun _ _ hr => hr⟩ ?_
  split
  · exact .ofHost rfl
  · rename_i r hr
    split
    · exact .trans (.putRing (ringWrite_host _ _ _ _ _) hr _) (.sendMsix _ _ _)
    · exact .putRing (ringWrite_host _ _ _ _ _) hr _

theorem NoNewRings.dropRing (s : State) (c : CtxId) (r : Fin 64) :
    NoNewRings s (s.modHost fun i => { i with rings := i.rings.filter fun p => p.1 ≠ (c, r) }) :=
  ⟨rfl, rfl, fun _ _ h => assoc?_filter_of_none _ h⟩

theorem NoNewRings.closeRing (s : State) (c : CtxId) (r : Fin 64) : NoNewRings s (s.closeRing c r) := by
  unfold State.closeRing
  split
  · exact .ofHost rfl
  · simp only []
    split
    · split
      · exact .trans (.writeRecord _ _ _ _ _) (.dropRing _ c r)
      · exact .ofHost rfl
    · split
      · exact .dropRing _ c r
      · exact .ofHost rfl

/-- A completion configures nothing on the host interface. -/
theorem NoNewRings.complete (s : State) (h : CmdHdr) (st : Status) (progress fid : Nat) : NoNewRings s (s.complete h st progress fid) := by
  unfold State.complete
  exact .trans (.writeRecord _ _ _ _ _) (.closeRing _ _ _)

/-! ### The end of a context's media jobs (R314) -/

/-- Jobs may have left, and every context is still there, with its pages and its EXEC in progress. -/
structure JobsLeave (s t : State) : Prop where
  jobs : ∀ j ∈ t.media.jobs, j ∈ s.media.jobs
  ctx : ∀ n x, s.ctx? n = some x → ∃ y, t.ctx? n = some y ∧ y.pages = x.pages ∧ y.exec = x.exec

theorem JobsLeave.of {s t : State} (hjobs : ∀ j ∈ t.media.jobs, j ∈ s.media.jobs) (hctxs : t.ctxs = s.ctxs) : JobsLeave s t :=
  ⟨hjobs, fun n x h => ⟨x, (congrArg (assoc? n) hctxs).trans h, rfl, rfl⟩⟩

theorem JobsLeave.same (s : State) : JobsLeave s s := .of (fun _ h => h) rfl

theorem JobsLeave.ofBlock {s t : State} (h : SameBlock s t) : JobsLeave s t := .of (fun j hj => by rwa [h.media] at hj) h.ctxs

theorem JobsLeave.trans {s t u : State} (a : JobsLeave s t) (b : JobsLeave t u) : JobsLeave s u := by
  refine ⟨fun j hj => a.jobs j (b.jobs j hj), fun n x hx => ?_⟩
  obtain ⟨y, hy, hypages, hyexec⟩ := a.ctx n x hx
  obtain ⟨z, hz, hzpages, hzexec⟩ := b.ctx n y hy
  exact ⟨z, hz, hzpages.trans hypages, hzexec.trans hyexec⟩

/-- A change of a context that leaves its pages and its EXEC in progress. -/
theorem JobsLeave.modCtx (s : State) (n : CtxId) {f : Ctx → Ctx} (hpages : ∀ x, (f x).pages = x.pages) (hexec : ∀ x, (f x).exec = x.exec) :
    JobsLeave s (s.modCtx n f) := by
  refine ⟨fun j hj => by rwa [State.modCtx_media] at hj, fun m x hx => ?_⟩
  by_cases hm : m = n
  · subst hm
    exact ⟨f x, State.ctx?_modCtx_same hx f, hpages x, hexec x⟩
  · exact ⟨x, (State.ctx?_modCtx_other hm s f).trans hx, rfl, rfl⟩

theorem JobsLeave.modShuffle (s : State) (n : CtxId) (f : Reservoir → Reservoir) : JobsLeave s (s.modShuffle n f) :=
  .modCtx s n (fun _ => rfl) fun _ => rfl

theorem JobsLeave.modMedia (s : State) {f : Media → Media} (h : ∀ j ∈ (f s.media).jobs, j ∈ s.media.jobs) : JobsLeave s (s.modMedia f) :=
  .of h rfl

theorem JobsLeave.complete (s : State) (h : CmdHdr) (st : Status) (progress fid : Nat) : JobsLeave s (s.complete h st progress fid) :=
  .ofBlock (State.complete_frame s h st progress fid)

theorem JobsLeave.putCtx {s : State} {n : CtxId} {x y : Ctx} (h : s.ctx? n = some x) (hpages : y.pages = x.pages) (hexec : y.exec = x.exec) :
    JobsLeave s (s.putCtx n y) := by
  refine ⟨fun j hj => hj, fun m z hz => ?_⟩
  by_cases hm : m = n
  · subst hm
    obtain rfl : x = z := Option.some.inj (h.symm.trans hz)
    exact ⟨y, assoc?_assocSet_same _ _ _, hpages, hexec⟩
  · exact ⟨z, (assoc?_assocSet_other hm _ _).trans hz, rfl, rfl⟩

theorem JobsLeave.mediaArrive (s : State) (n : CtxId) (line : LineId) (mask : Nat) : JobsLeave s (s.mediaArrive n line mask) := by
  unfold State.mediaArrive
  refine List.foldlRecOn (motive := JobsLeave s) (maskDies mask) _ (.same s) fun v h d _ => h.trans ?_
  split
  · exact .same v
  · rename_i x hx
    split
    · split
      · exact .putCtx hx rfl rfl
      · exact .modMedia v fun _ hj => hj
    · exact .modMedia v fun _ hj => hj

/-- The arrivals of a feed whose last job has ended (R317). -/
def State.feedArrives (s : State) (f : FeedRec) : State :=
  match s.stream? f.ctx f.p.stream with
  | some t => if f.p.arrive then s.mediaArrive f.ctx t.p.arriveLine t.p.mediaMask else s
  | none => s

theorem JobsLeave.feedArrives (s : State) (f : FeedRec) : JobsLeave s (s.feedArrives f) := by
  unfold State.feedArrives
  split
  · split
    · exact .mediaArrive _ _ _ _
    · exact .same s
  · exact .same s

theorem State.endFeed_cases (s : State) (i : Nat) : s.endFeed i = s ∨ ∃ f st, s.endFeed i =
    ((s.feedArrives f).modMedia fun m => { m with feeds := m.feeds.filter fun g => g.id ≠ i }).complete f.hdr st f.output := by
  unfold State.endFeed
  split
  · exact .inl rfl
  · rename_i f hf
    split
    · exact .inl rfl
    · exact .inr ⟨f, _, rfl⟩

theorem JobsLeave.endFeed (s : State) (i : Nat) : JobsLeave s (s.endFeed i) := by
  rcases s.endFeed_cases i with h | ⟨f, st, h⟩
  · rw [h]
    exact .same s
  · rw [h]
    exact .trans (.trans (.feedArrives s f) (.modMedia _ fun _ hj => hj)) (.complete _ _ _ _ _)

theorem JobsLeave.endStream (s : State) (n : CtxId) (k : Nat) : JobsLeave s (s.endStream n k) := by
  unfold State.endStream
  split
  · exact .same s
  · split
    · exact .same s
    · split
      · exact .same s
      · exact .trans (.modMedia s fun _ hj => hj) (.complete _ _ _ _ _)

/-- Jobs leave, and with them every job of a number. -/
structure JobGone (i : Nat) (s t : State) : Prop extends JobsLeave s t where
  gone : ∀ k ∈ t.media.jobs, k.id ≠ i

/-- A job that has left stays away. -/
theorem JobGone.stays {s u t : State} {i : Nat} (a : JobsLeave s u) (b : JobsLeave u t) (h : ∀ k ∈ u.media.jobs, k.id ≠ i) : JobGone i s t :=
  ⟨a.trans b, fun k hk => h k (b.jobs k hk)⟩

theorem JobGone.after {s u t : State} {i : Nat} (a : JobsLeave s u) (b : JobGone i u t) : JobGone i s t := ⟨a.trans b.toJobsLeave, b.gone⟩

/-- A job that is removed leaves, and what follows from that adds no job (R294, R312). -/
theorem JobGone.removeJob (s : State) (j : Job) (st : Status) (dropped : Nat) : JobGone j.id s (s.removeJob j st dropped) := by
  unfold State.removeJob
  dsimp only
  refine .stays ?left (.trans (.trans (.modCtx _ _ ?pages ?exec) (.endFeed _ _)) (.endStream _ _ _)) ?gone
  case left => exact .trans (.modShuffle _ _ _) (.modMedia _ fun k hk => (List.mem_filter.mp hk).1)
  case gone => exact fun k hk => of_decide_eq_true (List.mem_filter.mp hk).2
  case pages => exact fun _ => rfl
  case exec => exact fun _ => rfl

/-- A job that is ended for good leaves, whatever of its report can be written (R311, R314). -/
theorem JobGone.endJob (s : State) (i : Nat) (st : Status) (code : Nat) : JobGone i s (s.endJob i st code true) := by
  unfold State.endJob
  split
  · rename_i hnone
    exact ⟨.same s, fun k hk => by simpa using List.find?_eq_none.mp hnone k hk⟩
  · rename_i j hj
    obtain rfl : j.id = i := by simpa using List.find?_some hj
    split
    · rw [if_neg (by simp)]
      dsimp only
      split
      · rename_i u hput
        split at hput
        · cases hput
        · rename_i v hfirst
          exact .after (.ofBlock ((SameBlock.vwrite hfirst).trans (SameBlock.vwrite hput))) (.removeJob u j st _)
      · exact .removeJob s j st _
      · exact .removeJob s j st _
    · exact ⟨.modMedia s fun _ hk => (List.mem_filter.mp hk).1, fun k hk => of_decide_eq_true (List.mem_filter.mp hk).2⟩

/-- Jobs that are stopped one after the other all leave. -/
theorem State.stopJobs_leave (st : Status) : ∀ (ids : List Nat) (s : State),
    JobsLeave s (ids.foldl (fun s i => s.stopJob i st true) s) ∧
    ∀ k ∈ (ids.foldl (fun s i => s.stopJob i st true) s).media.jobs, k.id ∉ ids
  | [], s => ⟨.same s, fun _ _ => List.not_mem_nil⟩
  | i :: ids, s => by
    have hfirst : JobGone i s (s.stopJob i st true) := .endJob s i st _
    obtain ⟨hrest, hgone⟩ := State.stopJobs_leave st ids (s.stopJob i st true)
    exact ⟨hfirst.toJobsLeave.trans hrest, fun k hk => List.not_mem_cons_of_ne_of_not_mem (hfirst.gone k (hrest.jobs k hk)) (hgone k hk)⟩

/-- No stream and no job of a context is left. -/
structure State.NoMedia (s : State) (n : CtxId) : Prop where
  streams : ∀ k ∈ s.media.streams, k.ctx ≠ n
  jobs : ∀ j ∈ s.media.jobs, j.ctx ≠ n

theorem State.NoMedia.congr {s t : State} {n : CtxId} (h : s.NoMedia n) (ht : t.media = s.media) : t.NoMedia n :=
  ⟨by rw [ht]; exact h.streams, by rw [ht]; exact h.jobs⟩

/-- The media of a context end: its jobs and streams are gone, and its pages and its EXEC in progress are as before. -/
theorem State.endMedia_ends (s : State) (n : CtxId) : JobsLeave s (s.endMedia n) ∧ (s.endMedia n).NoMedia n := by
  obtain ⟨hleave, hgone⟩ := State.stopJobs_leave .contextEnded ((s.media.jobs.filter fun j => j.ctx == n).map fun j => j.id) s
  have hjobs : ∀ j ∈ (((s.media.jobs.filter fun j => j.ctx == n).map fun j => j.id).foldl (fun s i => s.stopJob i .contextEnded true) s).media.jobs,
      j.ctx ≠ n := fun j hj hn =>
    hgone j hj (List.mem_map_of_mem (List.mem_filter.mpr ⟨hleave.jobs j hj, by simp [hn]⟩))
  unfold State.endMedia
  dsimp only
  refine ⟨.trans (hleave.trans (.modMedia _ fun _ hj => hj)) (.ofBlock (SameBlock.completeAll _ (fun h => h) .done _)),
    .congr ?_ (SameBlock.completeAll _ (fun h => h) .done _).media⟩
  exact ⟨fun k hk => of_decide_eq_true (List.mem_filter.mp hk).2, hjobs⟩

/-! ### The context reset (R379) -/

/-- The EXEC in progress of a context ends with CONTEXT_ENDED. -/
def State.cancelExec (s : State) (n : CtxId) : State :=
  match (s.ctxD n).exec with
  | some e => (s.modCtx n fun x => { x with exec := none }).complete e.hdr .contextEnded
  | none => s

theorem State.cancelExec_ends {s : State} {n : CtxId} {x : Ctx} (hx : s.ctx? n = some x) :
    (s.cancelExec n).ctx? n = some { x with exec := none } := by
  have hctx : s.ctxD n = x := by rw [State.ctxD, hx, Option.getD_some]
  unfold State.cancelExec
  split
  · exact (congrArg (assoc? n) (State.complete_frame _ _ _ _ _).ctxs).trans (State.ctx?_modCtx_same hx _)
  · rename_i hnone
    rw [hctx] at hnone
    rw [← hnone]
    exact hx

theorem State.resetCtx_eq (s : State) (n : CtxId) :
    s.resetCtx n = ((((s.cancelExec n).endMedia n).dropFlow n).dropGroups n).modCtx n Ctx.cleared := by
  unfold State.resetCtx State.cancelExec
  rfl

@[simp] theorem dropFlow_media (s : State) (n : CtxId) : (s.dropFlow n).media = s.media := rfl
@[simp] theorem dropFlow_ctx? (s : State) (n m : CtxId) : (s.dropFlow n).ctx? m = s.ctx? m := rfl
@[simp] theorem dropGroups_media (s : State) (n : CtxId) : (s.dropGroups n).media = s.media := rfl
@[simp] theorem dropGroups_ctx? (s : State) (n m : CtxId) : (s.dropGroups n).ctx? m = s.ctx? m := rfl

/-- The context reset clears a context without an EXEC in progress, which keeps its pages, and ends its media. -/
theorem State.resetCtx_clears {s : State} {n : CtxId} {x : Ctx} (hx : s.ctx? n = some x) :
    (∃ y : Ctx, (s.resetCtx n).ctx? n = some y.cleared ∧ y.exec = none ∧ y.pages = x.pages) ∧ (s.resetCtx n).NoMedia n := by
  obtain ⟨hleave, hmedia⟩ := (s.cancelExec n).endMedia_ends n
  obtain ⟨y, hy, hpages, hexec⟩ := hleave.ctx n _ (State.cancelExec_ends hx)
  rw [State.resetCtx_eq]
  refine ⟨⟨y, State.ctx?_modCtx_same ?_ _, hexec, hpages⟩, hmedia.congr ?_⟩
  · rw [dropGroups_ctx?, dropFlow_ctx?, hy]
  · rw [State.modCtx_media, dropGroups_media, dropFlow_media]

theorem Ctx.cleared_channels (x : Ctx) : ∀ k ∈ x.cleared.channels, k.occ = 0 := by
  intro k hk
  obtain ⟨c, _, rfl⟩ := List.mem_map.mp hk
  rfl

theorem Ctx.cleared_lines (x : Ctx) : ∀ l ∈ x.cleared.lines, l.2.gen = false ∧ l.2.arrived = [] ∧ l.2.broken = false := by
  intro l hl
  obtain ⟨c, _, rfl⟩ := List.mem_map.mp hl
  exact ⟨rfl, rfl, rfl⟩

/-- CTX_RESUME of an idle context resets it (R375, R379). -/
theorem exec_ctxResume_idle {h : CmdHdr} {c : Nat} {x : Ctx} {s : State} (hs : s.starts h (.ctxResume c)) (h0 : ctxOf c ≠ 0)
    (hx : s.namesIdle c x) : exec (.ctxResume h c) s = .next ((s.resetCtx (ctxOf c)).complete h .done 0) := by
  obtain ⟨hname, hidle⟩ := hx
  exact congrArg Host.Outcome.next ((State.host1_starts hs).trans ((if_neg h0).trans ((State.onCtx_names hname).trans (if_neg hidle))))

/-! ### Creation (R363, R374) -/

/-- A context with the fields of its CTX_CREATE and the default partners (R448). -/
def Ctx.created (p : CtxCreateP) : Ctx :=
  { Ctx.fresh with func := p.func, vfSlot := p.vfSlot, pasid := if p.pasidEn then some p.pasid else none, srKey := p.srKey,
                   stackBase := p.stackBase, stackSize := p.stackSize * 2 ^ 23, stackMask := p.stackMask, saveOff := p.saveOff,
                   saveSize := p.saveSize, partner := allDies.map fun d => (d.val, (d.val + 8) % 16) }

/-- CTX_CREATE of a free number, slot, stack and save area creates the context without a quota. -/
theorem exec_ctxCreate_creates {h : CmdHdr} {p : CtxCreateP} {s : State} (hs : s.starts h (.ctxCreate p)) (hlo : 0 < p.ctx) (hhi : p.ctx < 4096)
    (hnew : s.ctx? (ctxOf p.ctx) = none) (hfunc : s.funcEnabled p.func = true)
    (hslot : ∀ e ∈ s.ctxs, p.func ≠ 0 → ¬ (e.2.func = p.func ∧ e.2.vfSlot = p.vfSlot)) (hpf : p.func = 0 → p.vfSlot = 0)
    (hbase : p.stackBase % 2097152 = 0) (hsize : 1 ≤ p.stackSize) (hmost : p.stackSize ≤ 8192)
    (hend : p.stackBase + 16 * (p.stackSize * 2 ^ 23) ≤ 2 ^ 48) (hsave : s.saveAreaOk p = true) :
    exec (.ctxCreate h p) s = .next
      (((s.modHbm fun m => { m with quotas := m.quotas.filter fun q => q.1 ≠ p.ctx }).putCtx (ctxOf p.ctx) (Ctx.created p)).complete h .done 0) := by
  have hnumber : ¬(p.ctx = 0 ∨ 4096 ≤ p.ctx ∨ (s.ctx? (ctxOf p.ctx)).isSome = true) := by simp [hnew]; omega
  have hfree : (!s.funcEnabled p.func || (p.func ≠ 0 && s.ctxs.any fun e => e.2.func == p.func && e.2.vfSlot == p.vfSlot)) = false := by
    simpa [hfunc, ← imp_iff_not_or] using fun h0 n x hx he => hslot (n, x) hx h0 he
  have hlegal : ¬((p.func = 0 ∧ p.vfSlot ≠ 0) ∨ p.stackBase % 2097152 ≠ 0 ∨ p.stackSize = 0 ∨ 8192 < p.stackSize ∨
      2 ^ 48 < p.stackBase + 16 * (p.stackSize * 2 ^ 23) ∨ (!s.saveAreaOk p) = true) := by
    simp only [hsave, Bool.not_true, Bool.false_eq_true, or_false]
    omega
  have hval : (ctxOf p.ctx).val = p.ctx := Nat.mod_eq_of_lt hhi
  refine congrArg Host.Outcome.next ((State.host1_starts hs).trans ((if_neg hnumber).trans ((if_neg (Bool.eq_false_iff.mp hfree)).trans
    ((if_neg hlegal).trans ?_))))
  simp only [hval]
  rfl

/-! ### Destruction (R363) -/

/-- A context and what names it leave the host interface and the contexts, and its sealed frames wait to be scrubbed. -/
def State.forget (s : State) (n : CtxId) : State :=
  { (s.scrubCtx n).modHost fun i => { i with
      rings := i.rings.filter fun e => e.1.1 ≠ n, events := i.events.filter fun e => e.1 ≠ n, windows := i.windows.filter fun w => w.2.ctx ≠ n } with
    ctxs := s.ctxs.filter fun e => e.1 ≠ n }

/-- A removed context is reset, its transfers and translations are dropped, its commands complete, and then it is forgotten. -/
theorem State.removeCtx_forgets (s : State) (n : CtxId) :
    ∃ u, SameBlock (((s.resetCtx n).dropCmds n).dropEntries n fun _ => true) u ∧ s.removeCtx n = u.forget n := by
  unfold State.removeCtx
  dsimp only
  generalize hu : List.foldl _ _ _ = u
  refine ⟨u, ?_, rfl⟩
  rw [← hu]
  exact SameBlock.completeAll _ (fun f : Fetched => f.hdr) .contextEnded _

/-- Nothing names a context: it is no context and has no ring pair, event ring, window, stream, job or cached translation. -/
structure State.Without (s : State) (n : CtxId) : Prop extends s.NoMedia n where
  ctx : s.ctx? n = none
  rings : ∀ r, s.host.ring? n r = none
  events : s.events? n = none
  windows : ∀ w ∈ s.host.windows, w.2.ctx ≠ n
  tlb : ∀ b, ∀ e ∈ (s.bed b).tlb, e.1 ≠ n

/-- A completion brings nothing of a context back. -/
theorem State.Without.complete {s : State} {n : CtxId} (hw : s.Without n) (h : CmdHdr) (st : Status) (progress fid : Nat) :
    (s.complete h st progress fid).Without n := by
  have hblock := State.complete_frame s h st progress fid
  have hhost := NoNewRings.complete s h st progress fid
  exact {
    toNoMedia := hw.toNoMedia.congr hblock.media
    ctx := (congrArg (assoc? n) hblock.ctxs).trans hw.ctx
    rings := fun r => hhost.rings n r (hw.rings r)
    events := (congrArg (assoc? n) hhost.events).trans hw.events
    windows := by rw [hhost.windows]; exact hw.windows
    tlb := by simp only [State.bed, hblock.beds]; exact hw.tlb }

@[simp] theorem dropCmds_media (s : State) (n : CtxId) : (s.dropCmds n).media = s.media := rfl
@[simp] theorem dropEntries_media (s : State) (n : CtxId) (gone : Nat → Bool) : (s.dropEntries n gone).media = s.media := rfl
@[simp] theorem forget_media (s : State) (n : CtxId) : (s.forget n).media = s.media := rfl
@[simp] theorem forget_beds (s : State) (n : CtxId) : (s.forget n).beds = s.beds := rfl

theorem State.dropEntries_tlb (s : State) (n : CtxId) (b : BedId) : ∀ e ∈ ((s.dropEntries n fun _ => true).bed b).tlb, e.1 ≠ n := by
  simp [State.dropEntries, State.bed, Vector.get]

/-- A removed context leaves nothing that names it. -/
theorem State.removeCtx_without {s : State} {n : CtxId} {x : Ctx} (hx : s.ctx? n = some x) : (s.removeCtx n).Without n := by
  obtain ⟨-, hmedia⟩ := State.resetCtx_clears hx
  obtain ⟨u, hblock, hforget⟩ := s.removeCtx_forgets n
  rw [hforget]
  exact {
    toNoMedia := hmedia.congr (by rw [forget_media, hblock.media, dropEntries_media, dropCmds_media])
    ctx := assoc?_filter_key_ne n u.ctxs
    rings := fun r => assoc?_eq_none_iff.mpr fun e he hk => of_decide_eq_true (List.mem_filter.mp he).2 (congrArg Prod.fst hk)
    events := assoc?_filter_key_ne n u.host.events
    windows := fun w hw => of_decide_eq_true (List.mem_filter.mp hw).2
    tlb := fun b => by
      rw [State.bed, forget_beds, hblock.beds]
      exact State.dropEntries_tlb _ n b }

/-- CTX_DESTROY of an idle context removes it (R363, R375). -/
theorem exec_ctxDestroy_idle {h : CmdHdr} {c : Nat} {x : Ctx} {s : State} (hs : s.starts h (.ctxDestroy c)) (h0 : ctxOf c ≠ 0)
    (hx : s.namesIdle c x) : exec (.ctxDestroy h c) s = .next ((s.removeCtx (ctxOf c)).complete h .done 0) := by
  obtain ⟨hname, hidle⟩ := hx
  exact congrArg Host.Outcome.next ((State.host1_starts hs).trans ((if_neg h0).trans ((State.onCtx_names hname).trans (if_neg hidle))))

/-! ### The obligation -/

/-- Settles O13: the three commands by their lemmas, what a destroyed context leaves by `State.removeCtx_without`, and what the reset
leaves by `State.resetCtx_clears`, both kept by the completion that follows. -/
theorem contextsAreCreatedAndCleared : Obligations.ContextsAreCreatedAndCleared := by
  unfold Obligations.ContextsAreCreatedAndCleared
  refine ⟨⟨?created, fun h c x s hs h0 hx => exec_ctxResume_idle hs h0 hx, ?destroyed⟩, ?cleared⟩
  case created =>
    intro h p s hs hlo hhi hnew hfunc hslot hpf hbase hsize hmost hend hsave
    exact exec_ctxCreate_creates hs hlo hhi hnew hfunc hslot hpf hbase hsize hmost hend hsave
  case destroyed =>
    intro h c x s hs h0 hx
    have hexec := exec_ctxDestroy_idle hs h0 hx
    have hgone := (State.removeCtx_without hx.1).complete h .done 0 0
    exact ⟨hexec, _, hexec, hgone.ctx, hgone.rings, hgone.events, hgone.windows, hgone.streams, hgone.jobs, hgone.tlb⟩
  case cleared =>
    intro h c x s hs h0 hx
    obtain ⟨⟨y, hy, hyexec, hypages⟩, hmedia⟩ := State.resetCtx_clears hx.1
    have hblock := State.complete_frame (s.resetCtx (ctxOf c)) h .done 0 0
    have hdone := hmedia.congr hblock.media
    exact ⟨_, y.cleared, exec_ctxResume_idle hs h0 hx, (congrArg (assoc? (ctxOf c)) hblock.ctxs).trans hy, rfl, hyexec, rfl, rfl, rfl, rfl,
      fun _ _ => rfl, y.cleared_channels, y.cleared_lines, hypages, hdone.streams, hdone.jobs⟩

end Sys2Proof.Machine
end

section
/-! PROOFS. Where HBM lies: the map of a bed, the device-wide region, and what a write of HBM leaves (R210 to R213, R236). -/

namespace Sys2Proof.Machine

open Sys2Proof

/-! ### The map of a bed (R211) -/

/-- What the slot of a bed offset scrambles the pseudo-channel with. -/
def pcMask (slot : Nat) : Nat := slot % 64 ^^^ slot / 64 % 64 ^^^ slot / 4096 % 64

theorem pcMask_lt (slot : Nat) : pcMask slot < 64 :=
  Nat.xor_lt_two_pow (n := 6) (Nat.xor_lt_two_pow (by omega) (by omega)) (by omega)

/-- The pseudo-channel of R211 as a scramble of the low tile number. -/
theorem stackPc_fields (o : Nat) : stackPc o = ((field o 36 2 + field o 18 18) % 3, o / 4096 % 64 ^^^ pcMask (field o 18 18)) := by
  simp [stackPc, pcMask, field, Nat.div_div_eq_div_mul, Nat.xor_assoc]

/-- On a bed the blocks of 64 tiles take the stacks in turn, since 2 ^ 18 blocks are one more than a multiple of three. -/
theorem stackPc_block {o : Nat} (ho : o < bedBytes) : stackPc o = (o / 2 ^ 18 % 3, o / 4096 % 64 ^^^ pcMask (o / 2 ^ 18 % 2 ^ 18)) := by
  have hstack : (field o 36 2 + field o 18 18) % 3 = o / 2 ^ 18 % 3 := by
    have hrow : o / 2 ^ 36 = o / 2 ^ 18 / 2 ^ 18 := by omega
    have hblock : o / 2 ^ 18 < 3 * 2 ^ 18 := by unfold bedBytes at ho; omega
    rw [field, field, hrow, Nat.mod_eq_of_lt (by omega : o / 2 ^ 18 / 2 ^ 18 < 2 ^ 2)]
    omega
  rw [stackPc_fields, hstack, field]

theorem stackPc_tile {n : Nat} (hn : n * 4096 < bedBytes) : stackPc (n * 4096) = (n / 64 % 3, n % 64 ^^^ pcMask (n / 64 % 2 ^ 18)) := by
  have hblock : n * 4096 / 2 ^ 18 = n / 64 := by omega
  rw [stackPc_block hn, hblock, Nat.mul_div_cancel n (by omega)]

/-- A place of the bed has one offset. -/
theorem bedOffset_unique {a b : Nat} (ha : a < bedBytes) (hb : b < bedBytes) (hplace : stackPc a = stackPc b) (hslot : field a 18 18 = field b 18 18)
    (hbyte : a % 4096 = b % 4096) : a = b := by
  rw [stackPc_block ha, stackPc_block hb, Prod.mk.injEq] at hplace
  obtain ⟨hstack, hpc⟩ := hplace
  unfold field at hslot
  rw [hslot, Nat.xor_left_inj] at hpc
  unfold bedBytes at ha hb
  omega

/-- The bed offset of a place: the part of the bed from the stack and the slot, the low tile number from the pseudo-channel (R211). -/
def bedOffset (st pc slot byte : Nat) : Nat := (st + 3 - slot % 3) % 3 * 2 ^ 36 + slot * 2 ^ 18 + (pc ^^^ pcMask slot) * 4096 + byte

theorem bedOffset_place {st pc slot byte : Nat} (hst : st < 3) (hpc : pc < 64) (hslot : slot < 2 ^ 18) (hbyte : byte < 4096) :
    bedOffset st pc slot byte < bedBytes ∧ stackPc (bedOffset st pc slot byte) = (st, pc) ∧ field (bedOffset st pc slot byte) 18 18 = slot ∧
      bedOffset st pc slot byte % 4096 = byte := by
  have hlow : pc ^^^ pcMask slot < 64 := Nat.xor_lt_two_pow (n := 6) hpc (pcMask_lt slot)
  have hin : bedOffset st pc slot byte < bedBytes := by unfold bedOffset bedBytes; omega
  have hstack : bedOffset st pc slot byte / 2 ^ 18 % 3 = st := by unfold bedOffset; omega
  have hblock : bedOffset st pc slot byte / 2 ^ 18 % 2 ^ 18 = slot := by unfold bedOffset; omega
  have htile : bedOffset st pc slot byte / 4096 % 64 = pc ^^^ pcMask slot := by unfold bedOffset; omega
  refine ⟨hin, ?_, hblock, by unfold bedOffset; omega⟩
  rw [stackPc_block hin, hstack, hblock, htile, Nat.xor_xor_cancel_right]

/-- 192 consecutive tiles from a multiple of 64 on take every pseudo-channel of the bed once (R211). -/
theorem bedRun_covers {t : Nat} (ht : t % 64 = 0) (hend : (t + 192) * 4096 ≤ bedBytes) {st pc : Nat} (hst : st < 3) (hpc : pc < 64) :
    ∃! i, i < 192 ∧ stackPc ((t + i) * 4096) = (st, pc) := by
  have htile : ∀ i, i < 192 → stackPc ((t + i) * 4096) = ((t / 64 + i / 64) % 3, i % 64 ^^^ pcMask ((t / 64 + i / 64) % 2 ^ 18)) := by
    intro i hi
    have hblock : (t + i) / 64 = t / 64 + i / 64 := by omega
    have hlow : (t + i) % 64 = i % 64 := by omega
    rw [stackPc_tile (by omega), hblock, hlow]
  obtain ⟨j, hj, hstack⟩ : ∃ j, j < 3 ∧ (t / 64 + j) % 3 = st := ⟨(st + 3 - t / 64 % 3) % 3, by omega, by omega⟩
  have hlow : pc ^^^ pcMask ((t / 64 + j) % 2 ^ 18) < 64 := Nat.xor_lt_two_pow (n := 6) hpc (pcMask_lt _)
  refine ⟨64 * j + (pc ^^^ pcMask ((t / 64 + j) % 2 ^ 18)), ⟨by omega, ?_⟩, ?_⟩
  · have hdiv : (64 * j + (pc ^^^ pcMask ((t / 64 + j) % 2 ^ 18))) / 64 = j := by omega
    have hmod : (64 * j + (pc ^^^ pcMask ((t / 64 + j) % 2 ^ 18))) % 64 = pc ^^^ pcMask ((t / 64 + j) % 2 ^ 18) := by omega
    rw [htile _ (by omega), hdiv, hmod, hstack, Nat.xor_xor_cancel_right]
  · rintro i ⟨hi, hplace⟩
    rw [htile i hi, Prod.mk.injEq] at hplace
    obtain ⟨hst', hpc'⟩ := hplace
    have hdiv : i / 64 = j := by omega
    rw [hdiv] at hpc'
    rw [← hpc', Nat.xor_xor_cancel_right]
    omega

/-- Settles O17: the map by `stackPc_fields`, its inverse by `bedOffset_unique` and `bedOffset_place`, a run of tiles by `bedRun_covers`. -/
theorem bedMapIsABijection : Obligations.BedMapIsABijection := by
  unfold Obligations.BedMapIsABijection
  refine ⟨fun o _ => ?map, fun a b ha hb h => ?unique, fun st pc slot byte hst hpc hslot hbyte => ?reached,
    fun t ht hend st pc hst hpc => bedRun_covers ht hend hst hpc⟩
  case map =>
    rw [stackPc_fields, pcMask]
    simp only [Nat.xor_assoc]
  case unique =>
    obtain ⟨hplace, hslot, hbyte⟩ : stackPc a = stackPc b ∧ field a 18 18 = field b 18 18 ∧ a % 4096 = b % 4096 := by simpa only [Prod.mk.injEq] using h
    exact bedOffset_unique ha hb hplace hslot hbyte
  case reached =>
    obtain ⟨hin, hplace, hfield, hlow⟩ := bedOffset_place hst hpc hslot hbyte
    exact ⟨bedOffset st pc slot byte, hin, by simp only [hplace, hfield, hlow]⟩

/-! ### The device-wide region (R210, R212) -/

/-- What the bed tile of a device-wide tile scrambles its bed with. -/
def bedMask (u : Nat) : Nat := u / 64 % 4 ^^^ u / 16384 % 4

theorem bedMask_lt (u : Nat) : bedMask u < 4 := Nat.xor_lt_two_pow (n := 2) (by omega) (by omega)

theorem bit_of_lt {a i : Nat} (ha : a < 2 ^ i) : bit a i = false := by
  simp only [bit, Nat.div_eq_of_lt ha]
  rfl

/-- Four consecutive tiles of the region are one tile of each bed. -/
theorem placeOf_deviceWide (units : Nat) {x : Nat} (hx : x < 2 ^ 40) : placeOf units (2 ^ 40 + x) =
    (x / 4096 % 4 ^^^ bedMask (x / 16384), dwStart units + x / 16384 * 4096 + x % 4096) := by
  have hbit : bit (2 ^ 40 + x) 40 = true := by
    rw [Nat.add_comm]
    exact bit_add_two_pow hx
  have hoff : (2 ^ 40 + x) % 2 ^ 40 = x := by omega
  simp only [placeOf, hbit, hoff, if_true, bedMask, field, Nat.div_div_eq_div_mul, Nat.xor_assoc]
  rfl

theorem placeOf_bedLocal (units : Nat) {a : Nat} (ha : a < 2 ^ 40) : placeOf units a = (a / 2 ^ 38, a % 2 ^ 38) := by
  have hbed : field a 38 2 = a / 2 ^ 38 := by unfold field; omega
  simp only [placeOf, bit_of_lt ha, hbed, Bool.false_eq_true, if_false]

/-- The bed tile at which a bed's share of the region starts. -/
def dwTile (units : Nat) : Nat := 3 * 2 ^ 24 - units * (3 * 2 ^ 16)

theorem dwStart_tile (units : Nat) : dwStart units = dwTile units * 4096 := by
  unfold dwStart dwTile bedBytes
  omega

/-- A tile of the region, as its place. -/
theorem placeOf_dwTile (units : Nat) {n : Nat} (hn : n * 4096 < 2 ^ 40) :
    placeOf units (2 ^ 40 + n * 4096) = (n % 4 ^^^ bedMask (n / 4), (dwTile units + n / 4) * 4096) := by
  have htile : n * 4096 / 4096 = n := by omega
  have hbed : n * 4096 / 16384 = n / 4 := by omega
  have hbyte : n * 4096 % 4096 = 0 := by omega
  rw [placeOf_deviceWide units hn, htile, hbed, hbyte, dwStart_tile, Nat.add_mul, Nat.add_zero]

/-- 768 consecutive tiles of the region from a multiple of 768 on take every pseudo-channel of the device once (R212): one tile of each bed
for each of the 192 tiles of `bedRun_covers`. -/
theorem dwRun_covers {units k : Nat} (hunits : units ≤ 255) (hend : (768 * k + 768) * 4096 ≤ units * (3 * 2 ^ 30)) {b st pc : Nat} (hb : b < 4)
    (hst : st < 3) (hpc : pc < 64) :
    ∃! i, i < 768 ∧ (placeOf units (2 ^ 40 + (768 * k + i) * 4096)).1 = b ∧
      stackPc (placeOf units (2 ^ 40 + (768 * k + i) * 4096)).2 = (st, pc) := by
  have hplace : ∀ i, i < 768 → placeOf units (2 ^ 40 + (768 * k + i) * 4096) =
      (i % 4 ^^^ bedMask (192 * k + i / 4), (dwTile units + 192 * k + i / 4) * 4096) := by
    intro i hi
    have hlow : (768 * k + i) % 4 = i % 4 := by omega
    have hbed : (768 * k + i) / 4 = 192 * k + i / 4 := by omega
    have hin : (768 * k + i) * 4096 < 2 ^ 40 := by omega
    rw [placeOf_dwTile units hin, hlow, hbed, Nat.add_assoc]
  have halign : (dwTile units + 192 * k) % 64 = 0 := by unfold dwTile; omega
  have hlast : dwTile units + 192 * k + 192 ≤ 3 * 2 ^ 24 := by unfold dwTile; omega
  have hend' : (dwTile units + 192 * k + 192) * 4096 ≤ bedBytes := (Nat.mul_le_mul_right 4096 hlast).trans_eq (by norm_num [bedBytes])
  obtain ⟨j, ⟨hj, hcovers⟩, honly⟩ := bedRun_covers halign hend' hst hpc
  have hlow : b ^^^ bedMask (192 * k + j) < 4 := Nat.xor_lt_two_pow (n := 2) hb (bedMask_lt _)
  refine ⟨4 * j + (b ^^^ bedMask (192 * k + j)), ⟨by omega, ?_⟩, ?_⟩
  · have hdiv : (4 * j + (b ^^^ bedMask (192 * k + j))) / 4 = j := by omega
    have hmod : (4 * j + (b ^^^ bedMask (192 * k + j))) % 4 = b ^^^ bedMask (192 * k + j) := by omega
    rw [hplace _ (by omega), hdiv, hmod, Nat.xor_xor_cancel_right]
    exact ⟨rfl, hcovers⟩
  · rintro i ⟨hi, hbed, hpc'⟩
    rw [hplace i hi] at hbed hpc'
    have hdiv : i / 4 = j := honly _ ⟨by omega, hpc'⟩
    rw [hdiv] at hbed
    rw [← hbed, Nat.xor_xor_cancel_right]
    omega

/-- A populated address below the device-wide region lies below the bed's share of it, and one of the region within it (R210). -/
theorem populated_bedLocal {units a : Nat} (ha : a < 2 ^ 40) (hp : populated units a = true) : a % 2 ^ 38 < dwStart units := by
  simpa [populated, bit_of_lt ha] using hp

/-- Each address below 2 ^ 41 is bed-local or an offset of the device-wide region. -/
theorem dpa_cases {a : Nat} (ha : a < 2 ^ 41) : a < 2 ^ 40 ∨ ∃ x, x < 2 ^ 40 ∧ a = 2 ^ 40 + x := by
  rcases Nat.lt_or_ge a (2 ^ 40) with h | h
  · exact .inl h
  · exact .inr ⟨a - 2 ^ 40, by omega, by omega⟩

theorem placeOf_deviceWide_inj {units x y : Nat} (hx : x < 2 ^ 40) (hy : y < 2 ^ 40)
    (h : placeOf units (2 ^ 40 + x) = placeOf units (2 ^ 40 + y)) : x = y := by
  rw [placeOf_deviceWide units hx, placeOf_deviceWide units hy, Prod.mk.injEq] at h
  obtain ⟨hbed, hoff⟩ := h
  have htile : x / 16384 = y / 16384 := by omega
  rw [htile, Nat.xor_left_inj] at hbed
  omega

/-- The two kinds of populated addresses never meet, and neither names a place twice (R210). -/
theorem placeOf_populated_inj {units a b : Nat} (ha : a < 2 ^ 41) (hb : b < 2 ^ 41) (hpa : populated units a = true) (hpb : populated units b = true)
    (h : placeOf units a = placeOf units b) : a = b := by
  have hapart : ∀ {c x : Nat}, c < 2 ^ 40 → populated units c = true → x < 2 ^ 40 → placeOf units c ≠ placeOf units (2 ^ 40 + x) := by
    intro c x hc hpc hx he
    have hbelow := populated_bedLocal hc hpc
    rw [placeOf_bedLocal units hc, placeOf_deviceWide units hx, Prod.mk.injEq] at he
    omega
  rcases dpa_cases ha with ha' | ⟨x, hx, rfl⟩ <;> rcases dpa_cases hb with hb' | ⟨y, hy, rfl⟩
  · rw [placeOf_bedLocal units ha', placeOf_bedLocal units hb', Prod.mk.injEq] at h
    omega
  · exact absurd h (hapart ha' hpa hy)
  · exact absurd h.symm (hapart hb' hpb hx)
  · rw [placeOf_deviceWide_inj hx hy h]

/-- Settles O18: the formula by `placeOf_deviceWide`, a run of tiles by `dwRun_covers`, that no place has
two populated addresses by `placeOf_populated_inj`. -/
theorem deviceWideRunsCoverEveryChannel : Obligations.DeviceWideRunsCoverEveryChannel := by
  unfold Obligations.DeviceWideRunsCoverEveryChannel
  refine ⟨⟨fun units x hx => ?formula, fun units k hunits hend b st pc hb hst hpc => dwRun_covers hunits hend hb hst hpc⟩,
    fun units a b _ ha hb hpa hpb h => placeOf_populated_inj ha hb hpa hpb h⟩
  rw [placeOf_deviceWide units hx]
  simp only [bedMask, field, Nat.div_div_eq_div_mul, Nat.xor_assoc]
  rfl

/-! ### A write of HBM (R213, R236) -/

/-- A write that succeeds stores its bytes at the key of its place. -/
theorem hbmWrite_mem {s t : State} {b o : Nat} {bs : List Byte} {whole : Bool} (h : s.hbmWrite b o bs whole = some t) :
    t.hbm.mem = writeBytes s.hbm.mem (hbmKey b o) bs := by
  unfold State.hbmWrite at h
  split at h
  · cases h
  · split at h
    · cases h
    · cases h
      rfl

/-- Settles O19: a write changes HBM alone (`hbmWrite_frame`), and its bytes by the laws of `writeBytes`. -/
theorem hbmReadsWhatWasWritten : Obligations.HbmReadsWhatWasWritten := by
  unfold Obligations.HbmReadsWhatWasWritten
  intro s t b o bs whole hwf hwrite
  have hmem := hbmWrite_mem hwrite
  obtain ⟨f, rfl⟩ := hbmWrite_frame hwrite
  rw [hmem]
  exact ⟨writeBytes_wf hwf, readBytes_writeBytes hwf, fun a ha => sget_writeBytes_other hwf ha, SameBlock.modHbm f, rfl, rfl⟩

end Sys2Proof.Machine
end

section
/-! PROOFS. The memory commands: MAP, UNMAP, COPY, FILL, EVICT and MEM_CONFIG_WRITE (R206, R218 to R222, R224, R230, R234, R237, R257, R364, R428,
R507). -/

namespace Sys2Proof.Machine

open Sys2Proof

/-! ### MAP (R220, R221, R507) -/

/-- The configuration of memory locked by the first MAP (R219). -/
def State.lockMem (s : State) : State := s.modHbm fun m => { m with locked := true }

/-- The pages of a mapping record for which the device region has room. -/
def State.roomFor (s : State) (p : MapP) : Nat := min p.count (Config.mapRoom s.hbm.devSize ((s.ctxs.map fun e => e.2.pages.length).sum))

/-- Pages added to a context, each at its place, and their frames sealed where the context is (R221, R412). -/
def State.addPages (s : State) (n : CtxId) (x : Ctx) (ps : List Page) : State :=
  (s.putCtx n { x with pages := ps.foldl (fun l q => insertPage q l) x.pages }).sealPages n x ps

/-- A MAP without a reason to refuse it maps the first of its pages for which there is room. -/
theorem exec_map_maps {h : CmdHdr} {p : MapP} {x : Ctx} {s : State} (hs : s.starts h (.map p)) (hx : s.names p.ctx x)
    (hvaddr : p.vaddr % MapP.size p = 0) (htarget : p.target % MapP.size p = 0) (hend : p.vaddr + p.count * MapP.size p ≤ 2 ^ 48)
    (hfar : p.far = true → p.target + p.count * MapP.size p ≤ 2 ^ 64) (hreason : s.lockMem.mapReason (ctxOf p.ctx) x p = none) :
    exec (.map h p) s = .next ((s.lockMem.addPages (ctxOf p.ctx) x ((List.range (s.roomFor p)).map (MapP.page p))).complete h
      (if s.roomFor p < p.count then .donePartial else .done) (s.roomFor p)) := by
  refine congrArg Host.Outcome.next ((State.host1_starts hs).trans ((State.onCtx_names hx).trans ((if_neg ?limits).trans ?maps)))
  case limits =>
    rintro (hv | ht | he | ⟨hf, he⟩)
    · exact hv hvaddr
    · exact ht htarget
    · omega
    · have := hfar hf
      omega
  case maps =>
    unfold State.lockMem at hreason ⊢
    simp only [hreason]
    rfl

/-! ### UNMAP (R222) -/

/-- A context without the pages that a range touches. -/
def Ctx.unmapped (x : Ctx) (v n : Nat) : Ctx := { x with pages := x.pages.filter fun q => decide (q ∉ x.pagesIn v n) }

/-- No page is left at an address of the range: one that held it would touch the range. -/
theorem Ctx.pageAt_unmapped (x : Ctx) {base n v : Nat} (hlo : base ≤ v) (hhi : v < base + n) : (x.unmapped base n).pageAt v = none := by
  refine List.find?_eq_none.mpr fun q hq hat => ?_
  obtain ⟨hmem, hkept⟩ := List.mem_filter.mp hq
  refine of_decide_eq_true hkept (List.mem_filter.mpr ⟨hmem, ?_⟩)
  simp only [Bool.and_eq_true, decide_eq_true_eq] at hat
  simp only [meets, Bool.and_eq_true, decide_eq_true_eq]
  omega

/-- The pages that a range of a context touches removed from it and from every translation cache (R222, R413). -/
def State.unmapRange (s : State) (n : CtxId) (x : Ctx) (v len : Nat) : State :=
  ((s.putCtx n (x.unmapped v len)).toScrub n (x.pagesIn v len)).dropEntries n fun v' => (x.pagesIn v len).any fun q => q.vaddr == v'

theorem State.unmapRange_ctx? (s : State) (n : CtxId) (x : Ctx) (v len : Nat) : (s.unmapRange n x v len).ctx? n = some (x.unmapped v len) :=
  assoc?_assocSet_same n _ _

section unmap
variable {h : CmdHdr} {p : RangeP} {x : Ctx} {s : State} (hs : s.startsAnew h (.unmap p)) (hx : s.names p.ctx x) (hvaddr : p.vaddr % 65536 = 0)
  (hlen : p.length % 65536 = 0) (hend : p.vaddr + p.length ≤ 2 ^ 48)
  (hpages : ∀ q ∈ x.pagesIn p.vaddr p.length, p.vaddr ≤ q.vaddr ∧ q.vaddr + q.size ≤ p.vaddr + p.length ∧ s.pinned (ctxOf p.ctx) q = false ∧
    s.translating (ctxOf p.ctx) q = false)
include hs hx hvaddr hlen hend hpages

/-- An UNMAP whose pages lie in its range and are free removes them at once. -/
theorem exec_unmap_removes : exec (.unmap h p) s =
    .next ((s.unmapRange (ctxOf p.ctx) x p.vaddr p.length).complete h .done (x.pagesIn p.vaddr p.length).length) := by
  have hfree : ((x.pagesIn p.vaddr p.length).any fun q => s.pinned (ctxOf p.ctx) q || s.translating (ctxOf p.ctx) q) = false :=
    List.any_eq_false.mpr fun q hq => by
      obtain ⟨-, -, hpin, htr⟩ := hpages q hq
      simp [hpin, htr]
  have hwhole : ((x.pagesIn p.vaddr p.length).any fun q => q.vaddr < p.vaddr || p.vaddr + p.length < q.vaddr + q.size) = false :=
    List.any_eq_false.mpr fun q hq => by
      obtain ⟨hlo, hhi, -, -⟩ := hpages q hq
      simp [hlo, hhi]
  refine congrArg Host.Outcome.next ((State.host2_starts hs ?free).trans ((State.onCtx_names hx).trans (if_neg ?limits)))
  case free =>
    unfold State.names at hx
    simp only [hx, hfree, Bool.and_false]
  case limits =>
    simp only [hvaddr, hlen, hwhole, ne_eq, not_true_eq_false, Bool.false_eq_true, or_false, false_or, not_lt]
    exact hend

/-- After it every address of the range is mapped nowhere. -/
theorem exec_unmap_xlate {t : State} (ht : exec (.unmap h p) s = .next t) {v : Nat} (hlo : p.vaddr ≤ v) (hhi : v < p.vaddr + p.length) (a : Access) :
    t.xlate (ctxOf p.ctx) v a = .error .notMapped := by
  cases (exec_unmap_removes hs hx hvaddr hlen hend hpages).symm.trans ht
  have hctx := (congrArg (assoc? (ctxOf p.ctx)) (State.complete_frame _ h .done (x.pagesIn p.vaddr p.length).length 0).ctxs).trans
    (s.unmapRange_ctx? (ctxOf p.ctx) x p.vaddr p.length)
  have hpage : ∀ t : State, t.ctx? (ctxOf p.ctx) = some (x.unmapped p.vaddr p.length) → t.xlate (ctxOf p.ctx) v a = .error .notMapped := by
    intro t ht
    simp only [State.xlate, State.ctxD, ht, Option.getD_some, x.pageAt_unmapped hlo hhi]
  exact hpage _ hctx

end unmap

/-- Settles O20: MAP by `exec_map_maps`, UNMAP by `exec_unmap_removes`, and the addresses of its range by `exec_unmap_xlate`. -/
theorem mapAndUnmapComplete : Obligations.MapAndUnmapComplete := by
  unfold Obligations.MapAndUnmapComplete
  refine ⟨⟨?map, ?unmap⟩, ?nowhere⟩
  case map => exact fun h p x s hs hx hvaddr htarget hend hfar hreason => exec_map_maps hs hx hvaddr htarget hend hfar hreason
  case unmap => exact fun h p x s hs hx hvaddr hlen hend hpages => exec_unmap_removes hs hx hvaddr hlen hend hpages
  case nowhere =>
    exact fun h p x s t hs hx hvaddr hlen hend hpages ht v a hlo hhi => exec_unmap_xlate hs hx hvaddr hlen hend hpages ht hlo hhi a

/-! ### COPY, FILL and EVICT begin (R234, R364, R428) -/

/-- A COPY within its limits, of data that may leave its context, begins its transfer; where the copies of the control state disagree it ends. -/
theorem exec_copy_begins {h : CmdHdr} {p : CopyP} {x : Ctx} {s : State} (check : Bool) (hs : s.starts h (.copy p)) (hx : s.names p.ctx x)
    (hsrc : p.src % 64 = 0) (hdst : p.dst % 64 = 0) (hlen : p.length % 64 = 0) (hlo : 1 ≤ p.length) (hhi : p.length ≤ 2 ^ 40 - 64)
    (hsrcEnd : p.src + p.length ≤ (if p.srcHost then 2 ^ 64 else 2 ^ 48)) (hdstEnd : p.dst + p.length ≤ (if p.dstHost then 2 ^ 64 else 2 ^ 48))
    (hsealed : p.srcHost = false → s.anySealed x p.src p.length = true → p.dstHost = false ∧ ∀ q ∈ x.pagesIn p.dst p.length, q.far = false)
    (hide : x.ideRequired = true → (p.srcHost = true → s.ideCovers p.src = true) ∧
      (p.srcHost = false → ∀ q ∈ x.pagesIn p.src p.length, q.far = true → s.ideCovers (q.target + (max p.src q.vaddr - q.vaddr)) = true)) :
    exec (.copy h p check) s = .next (if check = true then s.cmdCheck h (ctxOf p.ctx) 0x0A 31
      else (s.start h (.copy p)).openCmd (ctxOf p.ctx) (.copy h p) p.length) := by
  refine congrArg Host.Outcome.next ((State.host1_starts hs).trans ((State.onCtx_names hx).trans
    ((if_neg ?limits).trans ((if_neg ?sealed).trans (if_neg ?ide)))))
  case limits =>
    rintro (h1 | h1 | h1 | h1 | h1 | h1 | h1)
    · exact h1 hsrc
    · exact h1 hdst
    · exact h1 hlen
    · omega
    · omega
    · exact absurd hsrcEnd (Nat.not_le.mpr h1)
    · exact absurd hdstEnd (Nat.not_le.mpr h1)
  case sealed =>
    simp only [Bool.and_eq_true, Bool.or_eq_true, Bool.not_eq_true', List.any_eq_true]
    rintro ⟨⟨hvirt, hany⟩, hout⟩
    obtain ⟨hhost, hnear⟩ := hsealed hvirt hany
    rcases hout with hout | ⟨q, hq, hfar⟩
    · exact Bool.false_ne_true (hhost.symm.trans hout)
    · exact Bool.false_ne_true ((hnear q hq).symm.trans hfar)
  case ide =>
    simp only [Bool.and_eq_true, Bool.or_eq_true, Bool.not_eq_true', List.any_eq_true]
    rintro ⟨hreq, hbare⟩
    obtain ⟨hhost, hvirt⟩ := hide hreq
    rcases hbare with ⟨hsrc, hbare⟩ | ⟨hsrc, q, hq, hfar, hbare⟩
    · exact Bool.false_ne_true (hbare.symm.trans (hhost hsrc))
    · exact Bool.false_ne_true (hbare.symm.trans (hvirt hsrc q hq hfar))

/-- A FILL within its limits begins its transfer, or ends where the copies of the control state disagree. -/
theorem exec_fill_begins {h : CmdHdr} {p : FillP} {x : Ctx} {s : State} (check : Bool) (hs : s.starts h (.fill p)) (hx : s.names p.ctx x)
    (hdst : p.dst % 64 = 0) (hlen : p.length % 64 = 0) (hlo : 1 ≤ p.length) (hhi : p.length ≤ 2 ^ 40 - 64) (hend : p.dst + p.length ≤ 2 ^ 48) :
    exec (.fill h p check) s = .next (if check = true then s.cmdCheck h (ctxOf p.ctx) 0x0A 31
      else (s.start h (.fill p)).openCmd (ctxOf p.ctx) (.fill h p) p.length) :=
  congrArg Host.Outcome.next ((State.host1_starts hs).trans ((State.onCtx_names hx).trans (if_neg (by omega))))

/-- An EVICT of a context that does not run and has no job, sealed or pinned page in the range goes to the first page of its range, or ends
where the copies of the control state disagree. -/
theorem exec_evict_begins {h : CmdHdr} {p : EvictP} {x : Ctx} {s : State} (check : Bool) (hs : s.starts h (.evict p)) (hx : s.namesIdle p.ctx x)
    (hvaddr : p.vaddr % 2097152 = 0) (hlen : p.length % 2097152 = 0) (hend : p.vaddr + p.length ≤ 2 ^ 48) (hfar : p.target + p.length ≤ 2 ^ 64)
    (hjob : s.hasJob (ctxOf p.ctx) = false) (hsealed : s.anySealed x p.vaddr p.length = false)
    (hpinned : ∀ q ∈ x.pagesIn p.vaddr p.length, s.pinned (ctxOf p.ctx) q = false) :
    exec (.evict h p check) s = .next (if check = true then s.cmdCheck h (ctxOf p.ctx) 0x03 (16 + s.regionBed.val)
      else (s.start h (.evict p)).evictFrom h (ctxOf p.ctx) p p.vaddr 0 0) := by
  obtain ⟨hname, hidle⟩ := hx
  refine congrArg Host.Outcome.next ((State.host1_starts hs).trans ((State.onCtx_names hname).trans
    ((if_neg (by omega)).trans ((if_neg ?busy).trans ((if_neg ?sealed).trans (if_neg ?pinned))))))
  case busy => simp [hidle, hjob]
  case sealed => simp [hsealed]
  case pinned => simpa using hpinned

/-- What an EVICT that starts at its range's first address takes first: the first HBM page of the range. -/
theorem Ctx.evictNext_first (x : Ctx) (p : EvictP) : x.evictNext p p.vaddr =
    x.pages.find? fun q => !q.far && decide (p.vaddr ≤ q.vaddr) && decide (q.vaddr < p.vaddr + p.length) := by
  simp only [Ctx.evictNext, Bool.and_assoc, Bool.and_self_left]

theorem State.evictFrom_some {s : State} {n : CtxId} {p : EvictP} {v : Nat} {q : Page} (hq : (s.ctxD n).evictNext p v = some q) (h : CmdHdr)
    (done moved : Nat) : s.evictFrom h n p v done moved = s.openCmd n (.evict h p q.vaddr done moved) q.size := by
  simp only [State.evictFrom, hq]

theorem State.evictFrom_none {s : State} {n : CtxId} {p : EvictP} {v : Nat} (hq : (s.ctxD n).evictNext p v = none) (h : CmdHdr) (done moved : Nat) :
    s.evictFrom h n p v done moved = s.complete h .done done := by
  simp only [State.evictFrom, hq]

/-! ### The end of a command's transfer (R234, R257, R364) -/

/-- A page of an EVICT as its transfer leaves it: in the far tier (R234). -/
def evictedPage (p : EvictP) (page : Nat) (q : Page) : Page :=
  if q.vaddr = page then { q with far := true, ns := false, at_ := false, target := p.target + (page - p.vaddr) } else q

section finish
variable {s : State} {h : CmdHdr} {x : Xfer}

theorem State.finishCmd_copy {p : CopyP} (hk : x.kind = .copy h p) : s.finishCmd h x = (s.dropXfer x.id).complete h .done x.len := by
  simp only [State.finishCmd, hk]

theorem State.finishCmd_fill {p : FillP} (hk : x.kind = .fill h p) : s.finishCmd h x = (s.dropXfer x.id).complete h .done x.len := by
  simp only [State.finishCmd, hk]

theorem State.finishCmd_evict {p : EvictP} {page done moved : Nat} (hk : x.kind = .evict h p page done moved) : s.finishCmd h x =
    ((((s.dropXfer x.id).modCtx x.ctx fun y => { y with pages := y.pages.map (evictedPage p page) }).dropEntries x.ctx fun v => v == page).evictFrom
      h x.ctx p (page + x.len) (done + 1) (moved + x.len)) := by
  simp only [State.finishCmd, hk]
  rfl

end finish

/-- Settles O21: the commands begin by their lemmas, an EVICT takes its pages by `State.evictFrom_some` and `State.evictFrom_none`, and the last
acknowledgement ends a transfer as `State.finishCmd` says of its kind. -/
theorem transfersOfCommandsComplete : Obligations.TransfersOfCommandsComplete := by
  unfold Obligations.TransfersOfCommandsComplete
  refine ⟨?copy, ?fill, ?evict, ?acks⟩
  case copy =>
    intro h p x s hs hx hsrc hdst hlen hlo hhi hsrcEnd hdstEnd hsealed hide
    exact ⟨exec_copy_begins false hs hx hsrc hdst hlen hlo hhi hsrcEnd hdstEnd hsealed hide,
      exec_copy_begins true hs hx hsrc hdst hlen hlo hhi hsrcEnd hdstEnd hsealed hide⟩
  case fill =>
    intro h p x s hs hx hdst hlen hlo hhi hend
    exact ⟨exec_fill_begins false hs hx hdst hlen hlo hhi hend, exec_fill_begins true hs hx hdst hlen hlo hhi hend⟩
  case evict =>
    intro h p x s hs hx hvaddr hlen hend hfar hjob hsealed hpinned u
    have hbegins := fun check => exec_evict_begins check hs hx hvaddr hlen hend hfar hjob hsealed hpinned
    have hctx : u.ctxD (ctxOf p.ctx) = x := congrArg (Option.getD · Ctx.fresh) hx.1
    have hfirst := (congrArg (Ctx.evictNext · p p.vaddr) hctx).trans (x.evictNext_first p)
    refine ⟨fun q hq => ?page, fun hnone => ?nothing, hbegins true⟩
    case page => exact (hbegins false).trans (congrArg _ (State.evictFrom_some (hfirst.trans hq) h 0 0))
    case nothing =>
      refine (hbegins false).trans (congrArg _ (State.evictFrom_none (hfirst.trans (List.find?_eq_none.mpr fun q hq hat => ?_)) h 0 0))
      simp only [Bool.and_eq_true, Bool.not_eq_true', decide_eq_true_eq] at hat
      obtain ⟨⟨hnear, hlo⟩, hhi⟩ := hat
      exact absurd (hnone q hq hnear hlo) (Nat.not_le.mpr hhi)
  case acks =>
    intro i k d n h s x hc hv hx hlast v
    have hgot : ∀ e ∈ x.stations, e ∈ x.got ++ [d] := fun e he => by
      rcases hlast e he with rfl | hgot
      · exact List.mem_append_right _ (List.mem_singleton_self _)
      · exact List.mem_append_left _ hgot
    have hends : x.cmd? = some h → exec (.transferCompletionAck i) s = .next ((s.takeVc4 i).finishCmd h x) :=
      exec_transferCompletionAck_command hc hx hv hgot
    refine ⟨fun p hk => ?copied, fun p hk => ?filled, fun p page done moved hk => ?evicted⟩
    case copied => exact (hends (by simp only [Xfer.cmd?, hk])).trans (congrArg _ (State.finishCmd_copy hk))
    case filled => exact (hends (by simp only [Xfer.cmd?, hk])).trans (congrArg _ (State.finishCmd_fill hk))
    case evicted => exact (hends (by simp only [Xfer.cmd?, hk])).trans (congrArg _ (State.finishCmd_evict hk))

/-! ### MEM_CONFIG_WRITE (R219, R237) -/

section config
variable {s : State} {v : Nat}

theorem State.writeMemCfg_dwiSize (hl : s.hbm.locked = false) (hu : field v 0 9 < 256)
    (hok : devRegionOk (field v 0 9) s.hbm.devBase s.hbm.devSize = true) :
    s.writeMemCfg .dwiSize v = s.modHbm fun h => { h with dwi := field v 0 9 } := by
  simp [State.writeMemCfg, hl, hok, Nat.not_le.mpr hu]

theorem State.writeMemCfg_devregBase (hl : s.hbm.locked = false) (hok : devRegionOk s.hbm.dwi (field v 0 19) s.hbm.devSize = true) :
    s.writeMemCfg .devregBase v = s.modHbm fun h => { h with devBase := field v 0 19 } := by
  simp [State.writeMemCfg, hl, hok]

theorem State.writeMemCfg_devregSize (hl : s.hbm.locked = false) (hok : devRegionOk s.hbm.dwi s.hbm.devBase (field v 0 14) = true) :
    s.writeMemCfg .devregSize v = s.modHbm fun h => { h with devSize := field v 0 14 } := by
  simp [State.writeMemCfg, hl, hok]

/-- A locked configuration only notes the attempt. -/
theorem State.writeMemCfg_locked (hl : s.hbm.locked = true) (hd : s.hbm.dwLost = false) (r : MemCfgReg) :
    s.writeMemCfg r v = s.modHbm fun h => { h with cfgLocked := true } := by
  cases r <;> simp [State.writeMemCfg, hl, hd]

end config

/-- Settles O24: a write that BAR 0 takes is `State.writeMemCfg`, which has a lemma for each register and one for the lock. -/
theorem memoryConfigurationLocks : Obligations.MemoryConfigurationLocks := by
  unfold Obligations.MemoryConfigurationLocks
  intro v s hopen
  have hwrite : ∀ r, exec (.memConfigWrite r v) s = .next (s.writeMemCfg r v.toNat) := fun r => congrArg Host.Outcome.next (if_pos hopen)
  refine ⟨fun hl hu hok => ?size, fun hl hok => ?base, fun hl hok => ?length, fun hl hd r => ?locked⟩
  case size => rw [hwrite, State.writeMemCfg_dwiSize hl hu hok]
  case base => rw [hwrite, State.writeMemCfg_devregBase hl hok]
  case length => rw [hwrite, State.writeMemCfg_devregSize hl hok]
  case locked => rw [hwrite, State.writeMemCfg_locked hl hd]

end Sys2Proof.Machine
end

section
/-! PROOFS. FILL: the bytes of its pattern, its first tile, and a tile at its controller (R206, R213, R217, R229, R257, R364). -/

namespace Sys2Proof.Machine

open Sys2Proof

/-! ### The pattern (R364) -/

/-- The words of a pattern from the `i`-th on. -/
theorem patternBytes_drop (pat : Nat) {n i : Nat} (hi : i ≤ n) : (patternBytes pat (4 * n)).drop (4 * i) = patternBytes pat (4 * (n - i)) := by
  have hall : ∀ k, patternBytes pat (4 * k) = (List.replicate k (leBytes 4 pat)).flatten := fun k => by
    rw [patternBytes, Nat.mul_div_cancel_left k (by omega)]
    exact List.take_of_length_le (by simp; omega)
  have hsplit : List.replicate n (leBytes 4 pat) = List.replicate i (leBytes 4 pat) ++ List.replicate (n - i) (leBytes 4 pat) := by
    rw [← List.replicate_add]
    congr 1
    omega
  rw [hall, hall, hsplit, List.flatten_append]
  exact List.drop_left' (by simp; omega)

/-- Each word of a pattern spells it. -/
theorem leNat_patternBytes {pat n i : Nat} (hpat : pat < 2 ^ 32) (hi : i < n) : leNat (((patternBytes pat (4 * n)).drop (4 * i)).take 4) = pat := by
  obtain ⟨m, hm⟩ : ∃ m, n - i = m + 1 := ⟨n - i - 1, by omega⟩
  have hfirst : (patternBytes pat (4 * (m + 1))).take 4 = leBytes 4 pat := by
    rw [patternBytes, Nat.mul_div_cancel_left _ (by omega), List.take_take, List.replicate_succ, List.flatten_cons, Nat.min_eq_left (by omega)]
    exact List.take_left' (leBytes_length 4 pat)
  rw [patternBytes_drop pat hi.le, hm, hfirst, leNat_leBytes]
  omega

/-! ### The first tile (R206, R223) -/

section firstTile
variable {u : State} {h : CmdHdr} {p : FillP} {x : Xfer} {q : Page} (hk : x.kind = .fill h p) (hnext : x.next = 0) (hlen : x.len = 64)
  (hq : (u.ctxD x.ctx).pageAt p.dst = some q)
include hk

theorem State.endsOf_fill (n : Nat) : u.endsOf x 0 n = some (.front (patternBytes p.pattern n), .virt p.dst .write) := by
  simp only [State.endsOf, hk, Nat.add_zero]

include hnext hlen hq

/-- A FILL of 64 bytes that its page holds is not cut. -/
theorem State.cut_fill (hroom : p.dst + 64 ≤ q.vaddr + q.size) : u.cut x = 64 := by
  have hpage : u.roomAt x.ctx (.virt p.dst .write) = q.vaddr + q.size - p.dst := by simp only [State.roomAt, hq]
  have hfront : u.roomAt x.ctx (.front (patternBytes p.pattern 1)) = 4096 := rfl
  simp only [State.cut, State.cut.go, hk, State.endsOf_fill hk, hpage, hfront, hnext, hlen]
  omega

/-- The first tile of a FILL of 64 bytes whose page is cached and lies in HBM leaves the command front end with its bytes. -/
theorem State.issuePiece_fill {b : BedId} {o : Nat} (hstop : x.stop = false) (hfault : x.fault = none) (hpieces : x.pieces = [])
    (hroom : p.dst + 64 ≤ q.vaddr + q.size) (htlb : (x.ctx, q.vaddr) ∈ (u.bed u.regionBed).tlb)
    (hplace : u.xlate x.ctx p.dst .write = .ok (.hbm b.val o)) :
    u.issuePiece none x = some (u.addPiece [] x 64 (.front (patternBytes p.pattern 64)) .front (.hbm b o)) := by
  have htotal : x.total = 64 := by simp only [Xfer.total, hk, hlen]
  have hold : x.oldest = 0 := by simp [Xfer.oldest, hpieces, hnext]
  have hcached : u.lookUpEnds u.regionBed x.ctx (.front (patternBytes p.pattern 64)) (.virt p.dst .write) = (u, none) := by
    simp only [State.lookUpEnds, List.foldl, State.lookUp, hq, htlb, if_true]
  have hbed : (⟨b.val % 4, Nat.mod_lt _ (by omega)⟩ : BedId) = b := Fin.ext (Nat.mod_eq_of_lt b.isLt)
  simp [State.issuePiece, hstop, hfault, htotal, hold, hk, hpieces, State.cut_fill hk hnext hlen hq hroom, State.endsOf_fill hk, hcached,
    State.placeEnd, hplace, hbed, hnext]

end firstTile

/-! ### A tile at its controller (R213, R217) -/

/-- A span within a tile of HBM is one run (R211). -/
theorem State.spanWrite_tile (s : State) (b : Nat) {o : Nat} {bs : List Byte} (whole : Nat → Nat → Bool) (h : o % 4096 + bs.length ≤ 4096) :
    s.spanWrite b o bs whole = s.hbmWrite b o bs (whole b o) := by
  have hspan : hbmSpan s.hbm.dwi b o bs.length = [(b, o, bs.length)] := if_pos (by omega)
  rw [State.spanWrite, hspan]
  cases hw : s.hbmWrite b o bs (whole b o) <;> simp [hw]

/-- A write to a place that reads well, in a group that can be corrected, succeeds (R429, R439). -/
theorem State.hbmWrite_succeeds {s : State} {b o : Nat} (bs : List Byte) (whole : Bool) (hr : s.hbmReadable b o = true)
    (hg : s.hbm.groupLost b o = false) : ∃ t, s.hbmWrite b o bs whole = some t := by
  simp only [State.hbmReadable, Bool.and_eq_true, Bool.not_eq_true', decide_eq_true_eq] at hr
  obtain ⟨⟨hlost, -⟩, hbad⟩ := hr
  simp [State.hbmWrite, hlost, hg, Nat.not_lt.mpr hbad]

/-- Only the fabric and the messages sent have changed, and what is found under an id is a command's transfer with all its tiles issued. -/
structure IssuedAll (s t : State) (i : Nat) : Prop where
  rest : t = { s with fabric := t.fabric, out := t.out }
  issued : ∀ y, t.xfer? i = some y → y.cmd?.isSome = true ∧ y.total ≤ y.next

theorem State.xfer?_modXfer_map (s : State) (i : Nat) {f : Xfer → Xfer} (hf : ∀ y, (f y).id = y.id) : (s.modXfer i f).xfer? i = (s.xfer? i).map f := by
  cases hx : s.xfer? i with
  | some x => exact State.xfer?_modXfer hx hf
  | none =>
    have hnone := List.find?_eq_none.mp hx
    refine List.find?_eq_none.mpr fun y hy => ?_
    obtain ⟨z, hz, rfl⟩ := List.mem_map.mp hy
    have hid := hnone z hz
    by_cases h : z.id = i <;> simp_all

namespace IssuedAll
variable {s t : State} {i : Nat}

/-- A change of the transfer that keeps its identity, its size and its next byte. -/
theorem modXfer (h : IssuedAll s t i) {f : Xfer → Xfer} (hid : ∀ y, (f y).id = y.id) (hkind : ∀ y, (f y).kind = y.kind)
    (hlen : ∀ y, (f y).len = y.len) (hnext : ∀ y, (f y).next = y.next) : IssuedAll s (t.modXfer i f) i where
  rest := by rw [h.rest]; rfl
  issued y hy := by
    rw [State.xfer?_modXfer_map t i hid] at hy
    obtain ⟨z, hz, rfl⟩ := Option.map_eq_some_iff.mp hy
    have hz := h.issued z hz
    simp only [Xfer.cmd?, Xfer.total, hkind, hlen, hnext] at hz ⊢
    exact hz

theorem drop (h : IssuedAll s t i) : IssuedAll s (t.dropXfer i) i where
  rest := by rw [h.rest]; rfl
  issued y hy := by
    have hfound := List.find?_some hy
    have hkept := (List.mem_filter.mp (List.mem_of_find?_eq_some hy)).2
    simp_all

theorem send (h : IssuedAll s t i) (m : OutMsg) : IssuedAll s (t.send m) i where
  rest := by rw [h.rest]; rfl
  issued := h.issued

theorem sendVc4 (h : IssuedAll s t i) (l : List Vc4) : IssuedAll s (t.modFabric fun f => { f with vc4 := f.vc4 ++ l }) i where
  rest := by rw [h.rest]; rfl
  issued := h.issued

theorem flushFar (h : IssuedAll s t i) {x : Xfer} (hx : x.id = i) : IssuedAll s (t.flushFar x) i := by
  subst hx
  unfold State.flushFar
  simp only []
  split
  next => exact h
  next p _ =>
    refine iteInduction (motive := fun u => IssuedAll s u x.id) (fun _ => ?_) fun _ => h
    cases p.dst with
    | far a ns at_ pasid => exact .modXfer (.send h _) (fun _ => rfl) (fun _ => rfl) (fun _ => rfl) (fun _ => rfl)
    | _ => exact h

/-- What follows a piece of a command's transfer without a fault: a flush, and the acknowledgements that are due (R229, R257). -/
theorem afterPiece (h : IssuedAll s t i) {x : Xfer} (hx : t.xfer? i = some x) (hfault : x.fault = none) : IssuedAll s (t.afterPiece i) i := by
  obtain ⟨hcmd, -⟩ := h.issued x hx
  have hflush := h.flushFar (x := x) (by simpa using List.find?_some hx)
  have hop : (t.flushFar x).opOf x = none := by simp [State.opOf, hcmd]
  unfold State.afterPiece
  simp only [hx, hop, hfault]
  split
  · split
    · exact hflush.drop
    · exact hflush
  · split
    · exact hflush
    · split
      · exact hflush
      · refine sendVc4 ?_ _
        exact hflush.modXfer (fun _ => rfl) (fun _ => rfl) (fun _ => rfl) fun _ => rfl

theorem pieceLanded (h : IssuedAll s t i) {x : Xfer} (hx : t.xfer? i = some x) (hfault : x.fault = none) (seq : Nat) :
    IssuedAll s (t.pieceLanded i seq) i :=
  (h.modXfer (f := fun x => x.modPiece seq Piece.land) (fun _ => rfl) (fun _ => rfl) (fun _ => rfl) (fun _ => rfl)).afterPiece
    (State.xfer?_modPiece hx seq Piece.land) hfault

/-- The engine has nothing to issue. -/
theorem pumpXfer (h : IssuedAll s t i) : t.pumpXfer i = t := by
  unfold State.pumpXfer
  cases hx : t.xfer? i with
  | none => rfl
  | some x =>
    obtain ⟨hcmd, hall⟩ := h.issued x hx
    simp only [hcmd, if_true, State.pumpCmd, hx, State.issuePiece_all none hall]

end IssuedAll

/-- A tile of a command that has issued all its tiles is stored where its write finds no error; nothing else of HBM and no core or slice
changes. -/
theorem exec_tagRelease_stores {b k : BedId} {stack : Fin 3} {pc : Fin 64} {o : Nat} {s : State} {t : Tag} {x : Xfer} {p : Piece} (hc : s.clocked = true)
    (ht : (s.bed b).tags.find? (fun t => t.stack == stack && t.pc == pc && s.atController t) = some t) (hw : t.wr = true)
    (hx : s.xfer? t.xfer = some x) (hcmd : x.cmd?.isSome = true) (hall : x.next = x.total) (hfault : x.fault = none) (hp : x.piece? t.seq = some p)
    (hd : p.dst = .hbm k o) (htile : o % 4096 + p.data.length ≤ 4096) (hr : s.hbmReadable k.val o = true) (hg : s.hbm.groupLost k.val o = false) :
    ∃ w, exec (.tagRelease b stack pc .clean) s = .next w ∧ w.hbm.mem = writeBytes s.hbm.mem (hbmKey k.val o) p.data ∧ w.cores = s.cores ∧
      w.slices = s.slices := by
  have hgood : s.hbm.groupBad k.val o ≤ 1 := by
    simp only [State.hbmReadable, Bool.and_eq_true, decide_eq_true_eq] at hr
    exact hr.2
  let u := s.stamp.modBed b fun d => d.free t.xfer t.seq t.wr s.stamp.timeNs
  obtain ⟨v, hv⟩ := State.hbmWrite_succeeds (s := u) p.data (u.covers x k.val o) hr hg
  have hstored := hbmWrite_mem hv
  have hspan := (u.spanWrite_tile k.val (u.covers x) htile).trans hv
  obtain ⟨f, rfl⟩ := hbmWrite_frame hv
  have hexec := (exec_tagRelease_finishes (find := .clean) hc ht (State.tagPlace_write hx hp hw hd) (.inl hgood)).trans
    (congrArg _ (State.finishAccess_write (s := s.stamp) hx hp hw hd hspan))
  have hid : x.id = t.xfer := by simpa using List.find?_some hx
  have hfound : (u.modHbm f).xfer? x.id = some x := by rw [hid]; exact hx
  have hissued : IssuedAll (u.modHbm f) (u.modHbm f) x.id :=
    ⟨rfl, fun y hy => by cases hfound.symm.trans hy; exact ⟨hcmd, hall.ge⟩⟩
  have hlanded := hissued.pieceLanded hfound hfault p.seq
  refine ⟨_, hexec.trans (congrArg _ hlanded.pumpXfer), ?_⟩
  rw [hlanded.rest]
  exact ⟨hstored, rfl, rfl⟩

/-- Settles O22: the pattern by `leNat_patternBytes`, the first tile by `State.issuePiece_fill`, and a tile at its controller by
`exec_tagRelease_stores` with the laws of `writeBytes`. -/
theorem fillStoresThePattern : Obligations.FillStoresThePattern := by
  unfold Obligations.FillStoresThePattern
  refine ⟨fun pat n i hpat hi => leNat_patternBytes hpat hi, ?first, ?stored⟩
  case first =>
    rintro h p s n x q b o rfl hq hroom htlb hplace
    exact State.issuePiece_fill rfl rfl rfl hq rfl rfl rfl hroom htlb hplace
  case stored =>
    intro b k stack pc o s t x p hc hwf ht hw hx hcmd hall hfault hp hd _ htile hr hg
    obtain ⟨w, hexec, hmem, hcores, hslices⟩ := exec_tagRelease_stores hc ht hw hx hcmd hall hfault hp hd htile hr hg
    rw [hexec]
    refine ⟨w, rfl, ?_⟩
    rw [hmem]
    exact ⟨readBytes_writeBytes hwf, fun a ha => sget_writeBytes_other hwf ha, hcores, hslices⟩

end Sys2Proof.Machine
end

section
/-! PROOFS. The events of rings: RING_CONFIG, COMMAND_FETCH, RING_ERROR and EVENT_BACKLOG_FLUSH (R348 to R351, R354, R355, R358, R360, R372, R373,
R391, R392, R507). -/

namespace Sys2Proof.Machine

open Sys2Proof

/-! ### RING_CONFIG (R348, R349, R507) -/

/-- A ring configuration not yet used: heads, tails and phase as R349 gives them. -/
def RingConfigP.pair (p : RingConfigP) (pins : List Nat) : Ring :=
  { sqLog := p.sqLog, cqLog := p.cqLog, sqHbm := p.sqHbm, cqHbm := p.cqHbm, vector := p.vector, irqEn := p.irqEn, sqBase := p.sqBase, cqBase := p.cqBase,
    sqHead := 0, sqTail := 0, cqHead := 0, cqTail := 0, reserved := 0, phase := true, err := false, closing := none, closingAdmin := false,
    pins := pins }

/-- An event ring not yet used. -/
def RingConfigP.events (p : RingConfigP) (pins : List Nat) : EventRing :=
  { log := p.cqLog, hbm := p.cqHbm, vector := p.vector, irqEn := p.irqEn, base := p.cqBase, head := 0, tail := 0, phase := true, err := false,
    pins := pins }

section config
variable {h : CmdHdr} {p : RingConfigP} {x : Ctx} {s : State} (hs : s.startsAnew h (.ringConfig p)) (hx : s.names p.ctx x)
include hs hx

/-- A ring pair or an event ring that is not configured, with legal fields and its rings in HBM mapped there, is configured and pinned to their
pages. -/
theorem exec_ringConfig_configures {a b : List Nat} (hadmin : ctxOf p.ctx ≠ 0 ∨ p.ring ≠ 0 ∨ p.event = true) (hdis : p.disable = false)
    (hvec : p.vector < (if s.funcOf (ctxOf p.ctx) = 0 then 2048 else 32)) (hsq : p.event = false → p.sqBase % 4096 = 0) (hcq : p.cqBase % 4096 = 0)
    (hnew : (if p.event then (s.events? (ctxOf p.ctx)).isSome else (s.host.ring? (ctxOf p.ctx) (Fin.ofNat 64 p.ring)).isSome) = false)
    (ha : (if p.sqHbm && !p.event then s.lockMem.ringPages (ctxOf p.ctx) p.sqBase (2 ^ (12 + p.sqLog)) .hbmRead else .ok []) = .ok a)
    (hb : (if p.cqHbm then s.lockMem.ringPages (ctxOf p.ctx) p.cqBase (2 ^ (12 + p.cqLog)) .write else .ok []) = .ok b) :
    exec (.ringConfig h p) s = .next ((if p.event then
        s.lockMem.modHost fun i => { i with events := assocSet (ctxOf p.ctx) (RingConfigP.events p b) i.events }
      else s.lockMem.putRing (ctxOf p.ctx) (Fin.ofNat 64 p.ring) (RingConfigP.pair p (a ++ b))).complete h .done 0) := by
  refine congrArg Host.Outcome.next ((State.hostLong_starts hs).trans ((State.onCtx_names hx).trans ((if_neg ?admin).trans ((if_neg ?enables).trans
    ((if_neg ?vector).trans ((if_neg ?base).trans ((if_neg ?known).trans ?pages)))))))
  case admin =>
    simp only [Bool.and_eq_true, Bool.not_eq_true', decide_eq_true_eq]
    rintro ⟨⟨hctx, hpair⟩, hring⟩
    rcases hadmin with hne | hne | hev
    · exact hne hctx
    · exact hne hring
    · exact Bool.false_ne_true (hpair.symm.trans hev)
  case enables => simp [hdis]
  case vector => exact Nat.not_le.mpr hvec
  case base => simpa [hcq] using hsq
  case known => exact (Bool.not_eq_true _).mpr hnew
  case pages =>
    unfold State.lockMem at ha hb ⊢
    simp only [ringBytes, ha, hb]
    rfl

section disable
variable (hdis : p.disable = true)
include hdis

/-- A disable takes an event ring away at once. -/
theorem exec_ringConfig_dropEvent (hevent : p.event = true) : exec (.ringConfig h p) s =
    .next ((s.lockMem.modHost fun i => { i with events := i.events.filter fun e => e.1 ≠ ctxOf p.ctx }).complete h .done 0) := by
  refine congrArg Host.Outcome.next ((State.hostLong_starts hs).trans ((State.onCtx_names hx).trans ((if_neg ?admin).trans ((if_pos hdis).trans
    (if_pos hevent)))))
  simp [hevent]

theorem exec_ringConfig_disable (hadmin : ctxOf p.ctx ≠ 0 ∨ p.ring ≠ 0) (hevent : p.event = false) : exec (.ringConfig h p) s =
    .next (s.lockMem.disableRing h (ctxOf p.ctx) (Fin.ofNat 64 p.ring) false (.ringConfig p)) := by
  refine congrArg Host.Outcome.next ((State.hostLong_starts hs).trans ((State.onCtx_names hx).trans ((if_neg ?admin).trans ((if_pos hdis).trans
    (if_neg ?pair)))))
  case admin => simpa [hevent, imp_iff_not_or] using hadmin
  case pair => simp [hevent]

end disable

end config

/-- The commands of a list after one of them has started are those of the list. -/
theorem hdr_markStarted {h : CmdHdr} {c : HostCmd} {l : List Fetched} {f : Fetched} (hf : f ∈ markStarted h c l) : ∃ g ∈ l, g.hdr = f.hdr := by
  induction l with
  | nil => cases hf
  | cons g l ih =>
    unfold markStarted at hf
    split at hf
    all_goals rcases List.mem_cons.mp hf with rfl | hf
    · exact ⟨g, List.mem_cons_self, rfl⟩
    · exact ⟨f, List.mem_cons_of_mem _ hf, rfl⟩
    · exact ⟨f, List.mem_cons_self, rfl⟩
    · obtain ⟨k, hk, he⟩ := ih hf
      exact ⟨k, List.mem_cons_of_mem _ hk, he⟩

/-- A ring pair whose disable is the only command that waits for its record is gone (R349). -/
theorem State.closeRing_closing {s : State} {h : CmdHdr} {c : CtxId} {r : Fin 64} {x : Ring} (hx : s.host.ring? c r = some x) (hc : x.closing = some h)
    (hf : ∀ f ∈ s.host.fetched, f.on c r = true → f.hdr = h) : (s.closeRing c r).host.ring? c r = none := by
  have hrest : ((s.host.fetched.filter fun f => f.on c r).all fun f => decide (f.hdr = h)) = true := by simpa [imp_iff_not_or] using hf
  simp only [State.closeRing, hx, hc, hrest, if_true]
  exact assoc?_filter_key_ne _ _

theorem State.disableRing_none {s : State} {c : CtxId} {r : Fin 64} (hr : s.host.ring? c r = none) (h : CmdHdr) (begun : Bool) (cmd : HostCmd) :
    s.disableRing h c r begun cmd = s.complete h .done := by
  simp only [State.disableRing, hr]

/-- A pair from which no other command waits for its record is gone with its disable. -/
theorem State.disableRing_drops {s : State} {h : CmdHdr} {c : CtxId} {r : Fin 64} {x : Ring} (cmd : HostCmd) (hr : s.host.ring? c r = some x)
    (hc : x.closing = none) (ha : x.closingAdmin = false) (hf : ∀ f ∈ s.host.fetched, f.on c r = true → f.hdr = h) :
    (s.disableRing h c r false cmd).host.ring? c r = none := by
  simp only [State.disableRing, hr, hc, ha, Option.isSome_none, Bool.or_self, Bool.false_eq_true, if_false]
  refine State.closeRing_closing (State.putRing_ring?_same _ c r _) rfl fun f hm hon => ?_
  obtain ⟨g, hg, hhdr⟩ := hdr_markStarted hm
  rw [← hhdr]
  exact hf g hg (by rw [Fetched.on, hhdr]; exact hon)

/-! ### COMMAND_FETCH (R350, R351, R354) -/

/-- The number of entries in a packet's first word is that of its third byte (R354). -/
theorem field_leNat (bs : List Byte) : field (leNat bs) 16 5 = fieldAt bs 2 1 % 32 := by
  match bs with
  | [] => rfl
  | [a] => simp [field, fieldAt, leNat]; omega
  | [a, b] => simp [field, fieldAt, leNat]; omega
  | a :: b :: c :: l => simp [field, fieldAt, leNat]; omega

section fetch
variable {c : CtxId} {ring : Fin 64} {env : Env} {r : Ring} {s : State} (hlive : s.live = true) (hr : s.host.ring? c ring = some r) (herr : r.err = false)
  (hc : r.closing = none) (ha : r.closingAdmin = false) (hw : 1 ≤ r.waiting) (hres : r.canReserve = true)
include hlive hr herr hc ha hw hres

/-- A packet of 1 to 16 entries between head and tail is taken whole. -/
theorem exec_commandFetch_takes {first bs : List Byte} (hfirst : s.readEntries c r env 1 0 = .ok first) (hlo : 1 ≤ fieldAt first 2 1 % 32)
    (hhi : fieldAt first 2 1 % 32 ≤ min 16 r.waiting) (hbs : s.readEntries c r env (fieldAt first 2 1 % 32) 0 = .ok bs) :
    exec (.commandFetch c ring env) s = .next ((s.touchEntries c r (fieldAt first 2 1 % 32)).takePacket c ring r (fieldAt first 2 1 % 32) bs) := by
  have hcount : ¬ (fieldAt first 2 1 % 32 = 0 ∨ 16 < fieldAt first 2 1 % 32) := by omega
  have hwhole : ¬ r.waiting < fieldAt first 2 1 % 32 := by omega
  show execCommandFetch c ring env s = _
  simp [execCommandFetch, hr, hlive, herr, hc, ha, hres, Nat.ne_of_gt hw, hfirst, field_leNat, hcount, hwhole, hbs]

/-- A first entry that cannot be read puts the ring in error. -/
theorem exec_commandFetch_fails {addr : Nat} {st : Status} (hfirst : s.readEntries c r env 1 0 = .error (addr, st)) :
    exec (.commandFetch c ring env) s = .next (s.ringFails c (.pair ring) st addr) := by
  show execCommandFetch c ring env s = _
  simp [execCommandFetch, hr, hlive, herr, hc, ha, hres, Nat.ne_of_gt hw, hfirst]

end fetch

/-! ### What messages and event records leave of the host interface -/

theorem sendMsix_host (s : State) (f v : Nat) : ∃ pend, (s.sendMsix f v).host = { s.host with msixPending := pend } := by
  unfold State.sendMsix
  split
  · exact ⟨_, rfl⟩
  · exact ⟨_, rfl⟩

/-- A bit that is clear is set by its value. -/
theorem bit_add_of_clear {w i : Nat} (h : bit w i = false) : bit (w + 2 ^ i) i = true := by
  simp only [bit, beq_eq_false_iff_ne, beq_iff_eq] at h ⊢
  rw [Nat.add_div_right w (Nat.two_pow_pos i)]
  omega

/-- A device interrupt sets its bit of INT_STATUS, and may leave a message pending (R372). -/
theorem raiseInt_host (s : State) (b : Nat) :
    ∃ v pend, (s.raiseInt b).host = { s.host with intStatus := v, msixPending := pend } ∧ bit v b = true := by
  unfold State.raiseInt
  split
  next hset => exact ⟨_, _, rfl, hset⟩
  next hclear =>
    have hbit := bit_add_of_clear (Bool.eq_false_iff.mpr hclear)
    simp only []
    split
    · obtain ⟨pend, hpend⟩ := sendMsix_host (s.modHost fun h => { h with intStatus := h.intStatus + 2 ^ b }) 0 s.host.intVector
      exact ⟨_, pend, hpend, hbit⟩
    · exact ⟨_, _, rfl, hbit⟩

/-- An event ring with one more record (R359, R360). -/
def EventRing.written (r : EventRing) : EventRing :=
  { r with tail := (r.tail + 1) % ringEntries r.log, phase := if r.tail + 1 = ringEntries r.log then !r.phase else r.phase }

theorem writeEvent_host (s : State) (c : CtxId) (r : EventRing) (bs : EventBytes) :
    ∃ pend, (s.writeEvent c r bs).host = { s.host with events := assocSet c r.written s.host.events, msixPending := pend } := by
  unfold State.writeEvent
  simp only []
  split
  · exact (sendMsix_host _ _ _).imp fun pend hpend => hpend.trans (by rw [State.modHost_host, ringWrite_host]; rfl)
  · exact ⟨s.host.msixPending, by rw [State.modHost_host, ringWrite_host]; rfl⟩

/-- An event record writes at most the context's event ring and its message. -/
theorem event_host (s : State) (c : CtxId) (typ : Nat) (st : Status) (fid : Nat) (body : List (Nat × Nat × Nat)) :
    ∃ events pend, (s.event c typ st fid body).host = { s.host with events := events, msixPending := pend } := by
  unfold State.event
  split
  next => exact ⟨_, _, rfl⟩
  next x _ =>
    have hkept : ∀ f g : Ctx → Ctx, ∃ events pend, ((s.stamp.modCtx c f).modCtx c g).host = { s.host with events := events, msixPending := pend } :=
      fun f g => ⟨s.host.events, s.host.msixPending, by rw [State.modCtx_host, State.modCtx_host, State.stamp_host]⟩
    simp only []
    split
    next r _ =>
      split
      · obtain ⟨pend, hpend⟩ := writeEvent_host (s.stamp.modCtx c fun x => { x with eventSeq := (x.eventSeq + 1) % 2 ^ 32 }) c r
          (eventBytes typ st s.stamp.timeNs c.val fid x.eventSeq body)
        rw [State.modCtx_host, State.stamp_host] at hpend
        exact ⟨_, pend, hpend⟩
      · split <;> exact hkept _ _
    next => split <;> exact hkept _ _

/-- A ring in error takes no record. -/
theorem event_host_of_err {s : State} {c : CtxId} {r : EventRing} (hr : s.events? c = some r) (herr : r.err = true) (typ : Nat) (st : Status) (fid : Nat)
    (body : List (Nat × Nat × Nat)) : (s.event c typ st fid body).host = s.host := by
  unfold State.event
  split
  next => rfl
  next x _ =>
    have hr' : ∀ f, (s.stamp.modCtx c f).events? c = some r := fun f => by rw [State.events?, State.modCtx_host]; exact hr
    simp only [hr', herr, Bool.not_true, Bool.and_false, Bool.false_and, Bool.false_eq_true, if_false]
    split <;> rw [State.modCtx_host, State.modCtx_host, State.stamp_host]

/-! ### RING_ERROR (R351, R372, R373) -/

/-- A change of the value of a key is a change of what is found under it. -/
theorem assoc?_map_key {κ α : Type} [DecidableEq κ] (k : κ) (g : α → α) (l : List (κ × α)) :
    assoc? k (l.map fun e => if e.1 = k then (e.1, g e.2) else e) = (assoc? k l).map g := by
  induction l with
  | nil => rfl
  | cons e l ih =>
    by_cases h : e.1 = k
    · simp [assoc?, h]
    · simp [assoc?, h, ih]

/-- A ring pair in error, and RING_ERR_LAST with its number. -/
def HostIf.failPair (i : HostIf) (c : CtxId) (r : Fin 64) : HostIf :=
  { i with rings := i.rings.map fun e => if e.1 = (c, r) then (e.1, { e.2 with err := true }) else e, ringErrLast := c.val + 2 ^ 12 * r.val + 2 ^ 31 }

/-- An event ring in error, and RING_ERR_LAST with the number 63. -/
def HostIf.failEvents (i : HostIf) (c : CtxId) : HostIf :=
  { i with events := i.events.map fun e => if e.1 = c then (e.1, { e.2 with err := true }) else e, ringErrLast := c.val + 2 ^ 12 * 63 + 2 ^ 31 }

theorem HostIf.failPair_ring? {i : HostIf} {c : CtxId} {ring : Fin 64} {r : Ring} (hr : i.ring? c ring = some r) :
    (i.failPair c ring).ring? c ring = some { r with err := true } :=
  (assoc?_map_key (c, ring) (fun r : Ring => { r with err := true }) i.rings).trans (congrArg (Option.map _) hr)

theorem State.failEvents_events? {s : State} {c : CtxId} {r : EventRing} (hr : s.events? c = some r) :
    (s.modHost fun i => i.failEvents c).events? c = some { r with err := true } :=
  (assoc?_map_key c (fun r : EventRing => { r with err := true }) s.host.events).trans (congrArg (Option.map _) hr)

section error
variable {s : State} {c : CtxId} (st : Status) (addr : Nat)

theorem State.ringFails_pair {ring : Fin 64} {r : Ring} (hr : s.host.ring? c ring = some r) : s.ringFails c (.pair ring) st addr =
    ((s.modHost fun i => i.failPair c ring).event c 0x04 st 0 [(24, 1, ring.val), (32, 8, addr)]).raiseInt intRing := by
  simp [State.ringFails, hr, HostIf.failPair]

theorem State.ringFails_event {r : EventRing} (hr : s.events? c = some r) : s.ringFails c .event st addr =
    ((s.modHost fun i => i.failEvents c).event c 0x04 st 0 [(24, 1, 64), (32, 8, addr)]).raiseInt intRing := by
  simp [State.ringFails, hr, HostIf.failEvents]

theorem exec_ringError_fails (hlive : s.live = true) (hst : st = .farTierError ∨ st = .farTierTimeout ∨ st = .uncorrectableData) (sel : RingSel) :
    exec (.ringError c sel st addr) s = .next (s.ringFails c sel st addr) := by
  have hstatus : ringStatus st = true := by rcases hst with rfl | rfl | rfl <;> rfl
  exact congrArg Host.Outcome.next (if_pos (by rw [hlive, hstatus]; rfl))

/-- A failed read of a ring pair marks it, is noted in RING_ERR_LAST and raises INT_STATUS.RING; its event record may fill the event ring. -/
theorem State.ringFails_pair_marks {ring : Fin 64} {r : Ring} (hr : s.host.ring? c ring = some r) :
    let t := s.ringFails c (.pair ring) st addr
    t.host.ring? c ring = some { r with err := true } ∧ t.host.ringErrLast = c.val + 2 ^ 12 * ring.val + 2 ^ 31 ∧ bit t.host.intStatus 2 = true := by
  intro t
  obtain ⟨events, pend, hevent⟩ := event_host (s.modHost fun i => i.failPair c ring) c 0x04 st 0 [(24, 1, ring.val), (32, 8, addr)]
  obtain ⟨v, pend', hraise, hbit⟩ :=
    raiseInt_host ((s.modHost fun i => i.failPair c ring).event c 0x04 st 0 [(24, 1, ring.val), (32, 8, addr)]) intRing
  rw [show t = _ from State.ringFails_pair st addr hr, hraise, hevent]
  exact ⟨HostIf.failPair_ring? hr, rfl, hbit⟩

/-- A failed read of an event ring likewise; the ring in error takes no record of it. -/
theorem State.ringFails_event_marks {r : EventRing} (hr : s.events? c = some r) :
    let t := s.ringFails c .event st addr
    t.events? c = some { r with err := true } ∧ t.host.ringErrLast = c.val + 2 ^ 12 * 63 + 2 ^ 31 ∧ bit t.host.intStatus 2 = true := by
  intro t
  have hmarked := State.failEvents_events? hr
  have hevent := event_host_of_err hmarked rfl 0x04 st 0 [(24, 1, 64), (32, 8, addr)]
  obtain ⟨v, pend, hraise, hbit⟩ := raiseInt_host ((s.modHost fun i => i.failEvents c).event c 0x04 st 0 [(24, 1, 64), (32, 8, addr)]) intRing
  rw [State.events?, show t = _ from State.ringFails_event st addr hr, hraise, hevent]
  exact ⟨hmarked, rfl, hbit⟩

end error

/-! ### EVENT_BACKLOG_FLUSH (R360, R392) -/

/-- Entries of an event ring that hold records (R350). -/
def EventRing.used (r : EventRing) : Nat := (r.tail + ringEntries r.log - r.head) % ringEntries r.log

theorem ringEntries_pos (log : Nat) : 0 < ringEntries log := Nat.mul_pos (by omega) (Nat.two_pow_pos log)

theorem EventRing.room_iff (r : EventRing) : r.room = true ↔ r.used < ringEntries r.log - 1 := decide_eq_true_iff

theorem EventRing.used_lt (r : EventRing) : r.used < ringEntries r.log := Nat.mod_lt _ (ringEntries_pos r.log)

theorem EventRing.used_written {r : EventRing} (hhead : r.head < ringEntries r.log) (hroom : r.used < ringEntries r.log - 1) :
    r.written.used = r.used + 1 := by
  have hnext : r.written.used = (r.used + 1) % ringEntries r.log := by
    simp only [EventRing.used, EventRing.written]
    rw [Nat.add_sub_assoc hhead.le, Nat.mod_add_mod, Nat.mod_add_mod]
    congr 1
    omega
  rw [hnext, Nat.mod_eq_of_lt (by omega)]

theorem SameBlock.writeEvent (s : State) (c : CtxId) (r : EventRing) (bs : EventBytes) : SameBlock s (s.writeEvent c r bs) := by
  unfold State.writeEvent
  simp only []
  split
  · exact ((SameBlock.ringWrite _ _ _ _).trans (SameBlock.modHost _)).trans (SameBlock.sendMsix _ _)
  · exact (SameBlock.ringWrite _ _ _ _).trans (SameBlock.modHost _)

theorem writeEvent_ctx? (s : State) (c n : CtxId) (r : EventRing) (bs : EventBytes) : (s.writeEvent c r bs).ctx? n = s.ctx? n :=
  congrArg (assoc? n) (SameBlock.writeEvent s c r bs).ctxs

theorem writeEvent_events? (s : State) (c : CtxId) (r : EventRing) (bs : EventBytes) : (s.writeEvent c r bs).events? c = some r.written := by
  obtain ⟨pend, hhost⟩ := writeEvent_host s c r bs
  rw [State.events?, hhost]
  exact assoc?_assocSet_same c _ _

/-- A context and its event ring, `x` and `r` before, as `k` records of the backlog leave them. -/
structure State.Flushed (t : State) (c : CtxId) (x y : Ctx) (r w : EventRing) (k : Nat) : Prop where
  ctx : t.ctx? c = some y
  events : t.events? c = some w
  backlog : y.backlog = x.backlog.drop k
  lost : y.lost = x.lost
  log : w.log = r.log
  head : w.head = r.head
  err : w.err = false
  tail : w.tail = (r.tail + k) % ringEntries r.log
  used : w.used = r.used + k

theorem State.Flushed.none {s : State} {c : CtxId} {x : Ctx} {r : EventRing} (hx : s.ctx? c = some x) (hr : s.events? c = some r) (herr : r.err = false)
    (htail : r.tail < ringEntries r.log) : s.Flushed c x x r r 0 where
  ctx := hx
  events := hr
  backlog := rfl
  lost := rfl
  log := rfl
  head := rfl
  err := herr
  tail := (Nat.mod_eq_of_lt htail).symm
  used := rfl

/-- One record written before the others. -/
theorem State.Flushed.first {t : State} {c : CtxId} {x y : Ctx} {r w : EventRing} {k : Nat} {e : EventBytes} {es : List EventBytes}
    (hb : x.backlog = e :: es) (hused : r.written.used = r.used + 1) (h : t.Flushed c { x with backlog := es } y r.written w k) :
    t.Flushed c x y r w (k + 1) where
  ctx := h.ctx
  events := h.events
  backlog := by rw [h.backlog, hb]; rfl
  lost := h.lost
  log := h.log
  head := h.head
  err := h.err
  tail := by
    rw [h.tail]
    simp only [EventRing.written, Nat.mod_add_mod]
    congr 1
    omega
  used := by rw [h.used, hused]; omega

/-- The backlog is written in order, as far as the ring has room. -/
theorem State.flushLoop_writes (c : CtxId) : ∀ (m : Nat) {s : State} {x : Ctx} {r : EventRing}, s.ctx? c = some x → s.events? c = some r →
    r.err = false → r.tail < ringEntries r.log → r.head < ringEntries r.log → x.backlog.length ≤ m →
    ∃ y w, (s.flushLoop c m).Flushed c x y r w (min (ringEntries r.log - 1 - r.used) x.backlog.length)
  | 0, s, x, r, hx, hr, herr, htail, _, hm => by
    rw [Nat.le_zero.mp hm, Nat.min_zero]
    exact ⟨x, r, .none hx hr herr htail⟩
  | m + 1, s, x, r, hx, hr, herr, htail, hhead, hm => by
    simp only [State.flushLoop, hr, State.ctxD, hx, Option.getD_some]
    cases hb : x.backlog with
    | nil =>
      rw [List.length_nil, Nat.min_zero]
      exact ⟨x, r, .none hx hr herr htail⟩
    | cons e es =>
      rw [hb, List.length_cons] at hm
      by_cases hroom : r.used < ringEntries r.log - 1
      · have hused := EventRing.used_written hhead hroom
        have hopen : (r.room && !r.err) = true := by rw [r.room_iff.mpr hroom, herr]; rfl
        have hctx : ((s.writeEvent c r e).modCtx c fun x => { x with backlog := es }).ctx? c = some { x with backlog := es } :=
          State.ctx?_modCtx_same ((writeEvent_ctx? s c c r e).trans hx) _
        have hevents : ((s.writeEvent c r e).modCtx c fun x => { x with backlog := es }).events? c = some r.written := by
          rw [State.events?, State.modCtx_host]
          exact writeEvent_events? s c r e
        obtain ⟨y, w, h⟩ := State.flushLoop_writes c m hctx hevents herr (Nat.mod_lt _ (ringEntries_pos r.log)) hhead (Nat.le_of_succ_le_succ hm)
        have hcount : min (ringEntries r.log - 1 - r.used) (es.length + 1) =
            min (ringEntries r.written.log - 1 - r.written.used) es.length + 1 := by
          rw [hused, show r.written.log = r.log from rfl]
          omega
        simp only [hopen, if_true, List.length_cons, hcount]
        exact ⟨y, w, h.first hb hused⟩
      · have hfull : ¬ (r.room && !r.err) = true := by simpa [herr] using mt r.room_iff.mp hroom
        have hnone : ringEntries r.log - 1 - r.used = 0 := by omega
        simp only [hfull, Bool.false_eq_true, if_false, hnone, Nat.zero_min]
        exact ⟨x, r, .none hx hr herr htail⟩

/-- Whether records were dropped and the backlog leaves room for the record that says so. -/
abbrev Ctx.tellsLost (x : Ctx) (r : EventRing) : Prop := x.backlog.length < ringEntries r.log - 1 - r.used ∧ x.lost ≠ 0

section flush
variable {s t : State} {c : CtxId} {x y : Ctx} {r w : EventRing}

/-- After the backlog EVENTS_LOST is due where records were dropped, nothing waits and an entry is free. -/
theorem State.Flushed.lost_iff (h : t.Flushed c x y r w (min (ringEntries r.log - 1 - r.used) x.backlog.length)) :
    (y.backlog.isEmpty && y.lost ≠ 0 && w.room && !w.err) = true ↔ x.tellsLost r := by
  simp only [Bool.and_eq_true, decide_eq_true_eq, w.room_iff, h.backlog, h.lost, h.err, h.used, h.log, List.isEmpty_iff, List.drop_eq_nil_iff,
    Ctx.tellsLost, Bool.not_false, and_true]
  have hused := r.used_lt
  omega

/-- EVENTS_LOST at the end of a flush, where it is due. -/
def State.tellLost (t : State) (c : CtxId) : State :=
  match t.events? c with
  | some r =>
    if (t.ctxD c).backlog.isEmpty && (t.ctxD c).lost ≠ 0 && r.room && !r.err then
      (t.stamp.writeEvent c r (eventBytes 0x08 .done t.stamp.timeNs c.val 0 (t.ctxD c).eventSeq [(24, 4, (t.ctxD c).lost)])).modCtx c fun x =>
        { x with lost := 0, eventSeq := (x.eventSeq + 1) % 2 ^ 32 }
    else t
  | none => t

theorem State.flushEvents_eq (s : State) (c : CtxId) : s.flushEvents c = (s.flushLoop c 64).tellLost c := rfl

/-- The end of a flush that has written what it could of the backlog. -/
theorem State.Flushed.tellLost (h : t.Flushed c x y r w (min (ringEntries r.log - 1 - r.used) x.backlog.length)) :
    ∃ y' w', (t.tellLost c).ctx? c = some y' ∧ (t.tellLost c).events? c = some w' ∧ y'.backlog = y.backlog ∧
      y'.lost = (if x.tellsLost r then 0 else x.lost) ∧ w'.head = r.head ∧
      w'.tail = (r.tail + min (ringEntries r.log - 1 - r.used) x.backlog.length + if x.tellsLost r then 1 else 0) % ringEntries r.log := by
  have hctx : t.ctxD c = y := by rw [State.ctxD, h.ctx, Option.getD_some]
  simp only [State.tellLost, hctx, h.events]
  by_cases hlost : x.tellsLost r
  · rw [if_pos (h.lost_iff.mpr hlost), if_pos hlost, if_pos hlost]
    generalize eventBytes _ _ _ _ _ _ _ = bs
    have hwritten : (t.stamp.writeEvent c w bs).ctx? c = some y := (writeEvent_ctx? t.stamp c c w bs).trans h.ctx
    refine ⟨_, w.written, State.ctx?_modCtx_same hwritten _, ?events, rfl, rfl, h.head, ?tail⟩
    case events =>
      rw [State.events?, State.modCtx_host]
      exact writeEvent_events? _ c w _
    case tail =>
      show (w.tail + 1) % ringEntries w.log = _
      rw [h.tail, h.log, Nat.mod_add_mod]
  · rw [if_neg (mt h.lost_iff.mp hlost), if_neg hlost, if_neg hlost]
    exact ⟨y, w, h.ctx, h.events, rfl, h.lost, h.head, h.tail⟩

end flush

/-! ### The obligation -/

/-- Settles O27: RING_CONFIG by `exec_ringConfig_configures` and the lemmas on disables, COMMAND_FETCH by its two outcomes, RING_ERROR by what
`State.ringFails` marks, and the flush by `State.flushLoop_writes` and `State.Flushed.tellLost`. -/
theorem ringEventsComplete : Obligations.RingEventsComplete := by
  unfold Obligations.RingEventsComplete
  refine ⟨?config, ?fetch, ?error, ?flush⟩
  case config =>
    intro h p x s hs hx _ hadmin n u
    refine ⟨fun a b hdis hevent hvec hsq hcq hnew ha hb => ?pair, fun b hdis hevent hvec hcq hnew hb => ?event,
      fun hdis hevent => exec_ringConfig_dropEvent hs hx hdis hevent, fun hdis hevent hnone => ?unused,
      fun r hdis hevent hr hc hca hf => ?used⟩
    case pair =>
      have hexec := exec_ringConfig_configures hs hx hadmin hdis hvec (fun _ => hsq) hcq (by rw [hevent]; exact congrArg Option.isSome hnew)
        (by rw [hevent, Bool.not_false, Bool.and_true]; exact ha) hb
      rw [hexec, hevent]
      rfl
    case event =>
      have hexec := exec_ringConfig_configures (a := []) hs hx hadmin hdis hvec (fun he => absurd he (by simp [hevent])) hcq
        (by rw [hevent]; exact congrArg Option.isSome hnew) (by rw [hevent, Bool.not_true, Bool.and_false]; rfl) hb
      rw [hexec, hevent]
      rfl
    all_goals have hpair : ctxOf p.ctx ≠ 0 ∨ p.ring ≠ 0 := by simpa [hevent] using hadmin
    case unused =>
      exact (exec_ringConfig_disable hs hx hdis hpair hevent).trans (congrArg _ (State.disableRing_none (s := s.lockMem) hnone h false _))
    case used => exact ⟨_, exec_ringConfig_disable hs hx hdis hpair hevent, State.disableRing_drops _ hr hc hca hf⟩
  case fetch =>
    intro c ring env r s hlive hr herr hc ha hw hres
    exact ⟨fun first bs hfirst hlo hhi hbs => exec_commandFetch_takes hlive hr herr hc ha hw hres hfirst hlo hhi hbs,
      fun addr st hfirst => exec_commandFetch_fails hlive hr herr hc ha hw hres hfirst⟩
  case error =>
    intro c st addr s hlive hst
    exact ⟨fun ring r hr => ⟨_, exec_ringError_fails st addr hlive hst _, State.ringFails_pair_marks st addr hr⟩,
      fun r hr => ⟨_, exec_ringError_fails st addr hlive hst _, State.ringFails_event_marks st addr hr⟩⟩
  case flush =>
    intro c x r s hlive hx hr herr hlen htail hhead n free k more
    obtain ⟨y, w, hloop⟩ := State.flushLoop_writes c 64 hx hr herr htail hhead hlen
    obtain ⟨y', w', hctx, hevents, hbacklog, hlost, hwhead, hwtail⟩ := hloop.tellLost
    have hmore : more = if x.tellsLost r then 1 else 0 := rfl
    have hexec : exec (.eventBacklogFlush c) s = .next ((s.flushLoop c 64).tellLost c) :=
      congrArg Host.Outcome.next ((if_pos hlive).trans (s.flushEvents_eq c))
    refine ⟨_, y', w', hexec, hctx, hevents, hbacklog.trans hloop.backlog, ?_, hwtail, hwhead⟩
    by_cases h : x.tellsLost r
    · rw [if_pos h] at hlost hmore
      exact hlost.trans (if_pos hmore).symm
    · rw [if_neg h] at hlost hmore
      exact hlost.trans (if_neg (by omega)).symm

end Sys2Proof.Machine
end

section
/-! PROOFS. Start-up: START_UP, CONFIG_READY, HBM_READY and OPERATIONAL (R236, R341, R372, R400, R413, R420, R471, R473, R488). -/

namespace Sys2Proof.Machine

open Sys2Proof

/-! ### START_UP (R400, R420, R471, R473) -/

/-- Without PG_EAS the device stays inert. -/
theorem exec_startUp_inert {s : State} {env : BootEnv} (hr : s.clk.inReset = true) (heas : Feed.eas ∈ env.pgLow) :
    exec (.startUp env) s = .next { s with clk := { s.clk with inReset := false, inert := true } } :=
  congrArg Host.Outcome.next ((if_neg (by simp [hr])).trans (if_pos heas))

/-- The rails are set by messages to the regulators and noted in the power state alone. -/
theorem State.setRails_rest (s : State) (fail : List Rail) : ∃ pw out, s.setRails fail = { s with pw := pw, out := out } := by
  unfold State.setRails
  refine List.foldlRecOn (motive := fun t : State => ∃ pw out, t = { s with pw := pw, out := out }) allRails _ ⟨_, _, rfl⟩ fun t ht r _ => ?_
  obtain ⟨pw, out, rfl⟩ := ht
  by_cases h : r ∈ fail
  · exact ⟨_, _, if_pos h⟩
  · exact ⟨_, _, if_neg h⟩

/-- A selected bank that verifies and is not older than the fused SVN boots (R420). -/
theorem bootBank_selected {env : BootEnv} {k : ImageInfo} {fused : Nat} (hk : (if env.selector = 0 then env.bank0 else env.bank1) = some k)
    (hsvn : fused ≤ k.svn) : bootBank env fused = some (env.selector.val, false, k) := by
  simp [bootBank, hk, Option.filter, hsvn]

/-- A release with every feed and a bank that boots runs that bank. -/
theorem exec_startUp_boots {s : State} {env : BootEnv} {k : ImageInfo} (hr : s.clk.inReset = true) (hfeeds : env.pgLow = [])
    (hk : (if env.selector = 0 then env.bank0 else env.bank1) = some k) (hsvn : s.fuses.svn ≤ k.svn) :
    ∃ t, exec (.startUp env) s = .next t ∧ t.clk.booted = true ∧ t.clk.inReset = false ∧ t.sec.running = some k ∧
      t.sec.activeBank = env.selector.val ∧ t.sec.fallback = false ∧ t.cores = s.cores ∧ t.slices = s.slices ∧ t.hbm = s.hbm := by
  let u : State := { s with clk := { s.clk with inReset := false, devRef := true, pcieRef := true, eLock := true, pLock := true, linkUp := true },
                            dies := s.dies.map fun d => { d with locked := true }, fabric := { s.fabric with aligned := true } }
  obtain ⟨pw, out, hrails⟩ := u.setRails_rest env.avsFail
  have hboot : (u.setRails env.avsFail).boot env =
      ({ u with pw := pw, out := out, sec := { u.sec with activeBank := env.selector.val, fallback := false, running := some k },
                clk := { u.clk with booted := true } } : State).deriveAlias := by
    rw [hrails]
    simp only [State.boot, u, bootBank_selected hk hsvn]
  have hexec : exec (.startUp env) s = .next ((u.setRails env.avsFail).boot env) := by
    show execStartUp env s = _
    simp [execStartUp, hr, hfeeds, u]
  rw [hexec, hboot]
  exact ⟨_, rfl, rfl, rfl, rfl, rfl, rfl, rfl, rfl, rfl⟩

/-! ### CONFIG_READY and HBM_READY (R236, R341, R413) -/

theorem exec_configReady_sends {s : State} (hr : s.clk.inReset = false) (hi : s.clk.inert = false) (hl : s.clk.linkUp = true)
    (hc : s.host.configReady = false) : exec .configReady s = .next ((s.modHost fun h => { h with configReady := true }).send .drs) :=
  congrArg Host.Outcome.next (if_neg (by simp [hr, hi, hl, hc]))

/-- The bytes of HBM with every part that waits for scrubbing zeroed (R413). -/
def Hbm.zeroed (h : Hbm) : Sparse Byte :=
  h.scrubbing.foldl (fun m k => sclear m (hbmKey (k / 2 ^ 24) (k % 2 ^ 24 * 16384)) 16384) h.mem

/-- Trained stacks without a fault make HBM ready, with every sealed part zeroed. -/
theorem exec_hbmReady_ready {s : State} {env : TestEnv} (hb : s.clk.booted = true) (hr : s.clk.inReset = false) (ht : s.clk.tripped = false)
    (hnew : s.hbm.ready = false) (hf : s.dbg.frozen = false) (hgood : env.badStacks = []) :
    exec (.hbmReady env) s = .next (s.modHbm fun h => { h with ready := true, mem := h.zeroed, sealedFrames := [], scrubbing := [] }) := by
  refine congrArg Host.Outcome.next ((if_neg (by simp [hb, hr, ht, hnew, hf])).trans ?_)
  rw [hgood]
  rfl

/-! ### OPERATIONAL (R341, R400, R432, R488) -/

/-- The microcode loaded touches the dies alone. -/
theorem State.loadDies_rest (s : State) (bad : List DieCode) : ∃ dies, s.loadDies bad = { s with dies := dies } := by
  unfold State.loadDies
  refine List.foldlRecOn (motive := fun t : State => ∃ dies, t = { s with dies := dies }) _ _ ⟨_, rfl⟩ fun t ht d _ => ?_
  obtain ⟨dies, rfl⟩ := ht
  split
  · exact ⟨_, rfl⟩
  · split
    · exact ⟨_, rfl⟩
    · exact ⟨_, rfl⟩

theorem raiseInt_hbm (s : State) (b : Nat) : (s.raiseInt b).hbm = s.hbm := by
  have hsend : ∀ (t : State) (f v : Nat), (t.sendMsix f v).hbm = t.hbm := fun t f v => by
    unfold State.sendMsix
    split <;> rfl
  unfold State.raiseInt
  split
  · rfl
  · simp only []
    split
    · exact hsend _ _ _
    · rfl

/-- A device whose configuration space and HBM are ready and whose dies pass their self-tests becomes operational and tells the host. -/
theorem exec_operational_starts {s : State} {env : TestEnv} (hb : s.clk.booted = true) (hr : s.clk.inReset = false) (ht : s.clk.tripped = false)
    (hh : s.clk.halted = false) (hf : s.dbg.frozen = false) (hc : s.host.configReady = true) (hm : s.hbm.ready = true)
    (hnew : s.host.operational = false) (hgood : env.badDies = []) :
    ∃ t, exec (.operational env) s = .next t ∧ t.host.operational = true ∧ t.clk.warming = false ∧ bit t.host.intStatus 0 = true ∧
      t.cores = s.cores ∧ t.hbm = s.hbm := by
  obtain ⟨dies, hload⟩ := s.loadDies_rest env.badCode
  let u : State := { s with dies := dies, clk := { s.clk with warming := false }, fabric := { s.fabric with aligned := true },
                            host := { s.host with operational := true } }
  have hexec : exec (.operational env) s = .next (u.raiseInt intReady) := by
    refine congrArg Host.Outcome.next ((if_neg (by simp [hb, hr, ht, hh, hf, hc, hm, hnew])).trans ?_)
    rw [hgood, hload]
    rfl
  obtain ⟨v, pend, hhost, hbit⟩ := raiseInt_host u intReady
  have hblock := SameBlock.raiseInt (s := u) intReady
  refine ⟨_, hexec, by rw [hhost], by rw [hblock.clk], ?_, hblock.cores, raiseInt_hbm u intReady⟩
  rw [hhost]
  exact hbit

/-- Settles O40, an event of start-up by each of the lemmas above. -/
theorem startUpReachesOperation : Obligations.StartUpReachesOperation := by
  unfold Obligations.StartUpReachesOperation
  intro s
  refine ⟨fun env hr heas => exec_startUp_inert hr heas, fun env k hr hfeeds _ hk hsvn => exec_startUp_boots hr hfeeds hk hsvn,
    fun hr hi hl hc => exec_configReady_sends hr hi hl hc, fun env hb hr ht hnew hf hgood => ?hbm,
    fun env hb hr ht hh hf hc hm hnew hgood => exec_operational_starts hb hr ht hh hf hc hm hnew hgood⟩
  exact ⟨_, exec_hbmReady_ready hb hr ht hnew hf hgood, rfl, rfl, rfl, SameBlock.modHbm _, rfl⟩

end Sys2Proof.Machine
end

section
/-! PROOFS. The shards of a bucket (R266, R267). -/

namespace Sys2Proof.Machine

open Sys2Proof

/-! ### The units of a bucket (R266, R267) -/

/-- The smallest bucket has 2^20 bytes. -/
theorem GradConfigP.bytes_ge (g : GradConfigP) : 2 ^ 20 ≤ GradConfigP.bytes g := Nat.pow_le_pow_right (by omega) (Nat.le_add_right 20 g.sizeCode)

theorem GradConfigP.units_bf16 {g : GradConfigP} (h : GradConfigP.elem g = .bf16) : GradConfigP.units g = GradConfigP.bytes g / 2 / 1024 := by
  rw [GradConfigP.units, h]
  rfl

theorem GradConfigP.units_fp32 {g : GradConfigP} (h : GradConfigP.elem g = .fp32) : GradConfigP.units g = GradConfigP.bytes g / 4 / 1024 := by
  rw [GradConfigP.units, h]
  rfl

/-! ### The bounds of shards (R267) -/

theorem shardStart_mono (u r : Nat) {i j : Nat} (h : i ≤ j) : shardStart u r i ≤ shardStart u r j :=
  Nat.div_le_div_right (Nat.mul_le_mul_right u h)

theorem shardStart_zero (u r : Nat) : shardStart u r 0 = 0 := by rw [shardStart, Nat.zero_mul, Nat.zero_div]

/-- The shards end with the last unit. -/
theorem shardStart_last (u : Nat) {r : Nat} (hr : 1 ≤ r) : shardStart u r r = u := Nat.mul_div_cancel_left u hr

theorem shardUnits_eq (u r j : Nat) : shardUnits u r j = List.range' (shardStart u r j) (shardStart u r (j + 1) - shardStart u r j) := by
  rw [shardUnits, List.range_eq_range', List.drop_range', Nat.zero_add, Nat.mul_one]

theorem mem_shardUnits {u r j k : Nat} : k ∈ shardUnits u r j ↔ shardStart u r j ≤ k ∧ k < shardStart u r (j + 1) := by
  have := shardStart_mono u r (Nat.le_succ j)
  rw [shardUnits_eq, List.mem_range'_1]
  omega

/-- With two units for each position, every shard holds at least two. -/
theorem two_le_shardUnits {u r : Nat} (j : Nat) (hr : 1 ≤ r) (hu : 2 * r ≤ u) : 2 ≤ (shardUnits u r j).length := by
  have hnext : shardStart u r j + 2 ≤ shardStart u r (j + 1) := by
    rw [shardStart, shardStart, ← Nat.add_mul_div_right _ _ hr, Nat.add_one_mul j u]
    exact Nat.div_le_div_right (Nat.add_le_add_left hu _)
  rw [shardUnits_eq, List.length_range']
  omega

/-! ### The shard of a unit (R267) -/

/-- Of two shards that hold the same unit, neither comes before the other. -/
theorem le_of_mem_shardUnits {u r i j k : Nat} (hi : k ∈ shardUnits u r i) (hj : k ∈ shardUnits u r j) : i ≤ j := by
  obtain ⟨hlo, -⟩ := mem_shardUnits.mp hi
  obtain ⟨-, hhi⟩ := mem_shardUnits.mp hj
  by_contra hlt
  have := shardStart_mono u r (i := j + 1) (j := i) (by omega)
  omega

/-- The owner of a unit is the first position whose shard ends past it, so its shard has begun. -/
theorem shardOf_owns {u r k : Nat} (hr : 1 ≤ r) (hk : k < u) : shardOf u r k < r ∧ k ∈ shardUnits u r (shardOf u r k) := by
  have hends : ((List.range r).find? fun j => decide (k < shardStart u r (j + 1))).isSome = true :=
    List.find?_isSome.mpr ⟨r - 1, List.mem_range.mpr (by omega), decide_eq_true (by rwa [Nat.sub_add_cancel hr, shardStart_last u hr])⟩
  obtain ⟨j, hj⟩ := Option.isSome_iff_exists.mp hends
  obtain ⟨hpast, hmem, hfirst⟩ := List.find?_range_eq_some.mp hj
  have howner : shardOf u r k = j := by rw [shardOf, hj, Option.getD_some]
  rw [howner]
  refine ⟨List.mem_range.mp hmem, mem_shardUnits.mpr ⟨?begun, of_decide_eq_true hpast⟩⟩
  case begun =>
    cases j with
    | zero => exact (shardStart_zero u r).trans_le (Nat.zero_le k)
    | succ i => simpa using hfirst i (Nat.lt_succ_self i)

/-- Settles O59: the units of a format by their lemmas, the owner of a unit by `shardOf_owns` and `le_of_mem_shardUnits`. -/
theorem shardsPartitionTheUnits : Obligations.ShardsPartitionTheUnits := by
  unfold Obligations.ShardsPartitionTheUnits
  refine ⟨fun g => ⟨rfl, fun hf => ?bf16, fun hf => ?fp32⟩, fun u r hr => ⟨fun j k => mem_shardUnits, fun k hk => ?owner, fun hu hr' j _ => ?two⟩⟩
  case bf16 =>
    have := GradConfigP.bytes_ge g
    exact ⟨GradConfigP.units_bf16 hf, by rw [GradConfigP.units_bf16 hf]; omega⟩
  case fp32 =>
    have := GradConfigP.bytes_ge g
    exact ⟨GradConfigP.units_fp32 hf, by rw [GradConfigP.units_fp32 hf]; omega⟩
  case owner =>
    obtain ⟨hlt, hmem⟩ := shardOf_owns hr hk
    exact ⟨hlt, hmem, fun j _ hj => Nat.le_antisymm (le_of_mem_shardUnits hj hmem) (le_of_mem_shardUnits hmem hj)⟩
  case two => exact two_le_shardUnits j hr (by omega)

end Sys2Proof.Machine
end

section
/-! PROOFS. The configuration of the gradient exchange, of the reservoir and of ingest (R264, R266, R284, R286, R291 to R295, R320, R327, R330,
R336). -/

namespace Sys2Proof.Machine

open Sys2Proof

/-! ### A command on a context -/

/-- A command that starts on a context that exists acts on that context. -/
theorem State.host1_onCtx {s : State} {h : CmdHdr} {c : HostCmd} {k : Nat} {x : Ctx} {body : State → CtxId → Ctx → State} (hs : s.starts h c)
    (hx : s.names k x) : (s.host1 h c fun t => t.onCtx h k (body t)) = body s (ctxOf k) x :=
  (State.host1_starts hs).trans (State.onCtx_names hx)

/-! ### RING_MAP and GRAD_CONFIG (R264, R266) -/

/-- The dies of a ring map, one for each replica. -/
def RingMapP.dieIds (p : RingMapP) : List DieId := (p.dies.take p.replicas).map fun d => ⟨d % 16, by omega⟩

/-- The gradient state of a ring map: its replicas, which hold no bucket. -/
def Grad.mapped (g : Grad) (p : RingMapP) : Grad :=
  ({ g with ring := some p, replicas := (RingMapP.dieIds p).map fun d => ⟨d, [], 0, 0, 0, [], 0, false⟩ } : Grad).emptied

theorem exec_ringMap_installs {h : CmdHdr} {p : RingMapP} {x : Ctx} {s : State} (hs : s.starts h (.ringMap p)) (hx : s.namesIdle p.ctx x)
    (hlo : 1 ≤ p.replicas) (hhi : p.replicas ≤ 16) (hdup : (RingMapP.dieIds p).Nodup) (hdies : ∀ d ∈ RingMapP.dieIds p, s.fenced (.c d) = false) :
    exec (.ringMap h p) s = .next ((s.putCtx (ctxOf p.ctx) { x with grad := x.grad.mapped p }).complete h .done) := by
  obtain ⟨hctx, hidle⟩ := hx
  refine congrArg Host.Outcome.next ((State.host1_onCtx hs hctx).trans ((if_neg hidle).trans ((if_neg ?legal).trans (if_neg ?unfenced))))
  case legal =>
    rintro (hnone | hmany | hdup')
    · omega
    · omega
    · exact hdup' hdup
  case unfenced =>
    rw [List.any_eq_true]
    rintro ⟨d, hd, hfenced⟩
    exact Bool.false_ne_true ((hdies d hd).symm.trans hfenced)

theorem exec_gradConfig_installs {h : CmdHdr} {p : GradConfigP} {x : Ctx} {s : State} (hs : s.starts h (.gradConfig p)) (hx : s.namesIdle p.ctx x)
    (hcount : p.bucketCount ≠ 0) (hbase : p.recBase % 128 = 0) :
    exec (.gradConfig h p) s = .next ((s.putCtx (ctxOf p.ctx) { x with grad := ({ x.grad with cfg := some p } : Grad).emptied }).complete h .done) := by
  obtain ⟨hctx, hidle⟩ := hx
  exact congrArg Host.Outcome.next ((State.host1_onCtx hs hctx).trans ((if_neg (not_or.mpr ⟨hcount, not_not.mpr hbase⟩)).trans (if_neg hidle)))

/-! ### CASCADE_CONFIG (R284, R286) -/

/-- Replicas of each device of a cascade, as the master learns them. -/
def CascadeConfigP.lengths (p : CascadeConfigP) : List Nat := (p.counts.take p.devices).map fun k => k + 1

/-- The other devices of a cascade. -/
def CascadeConfigP.peers (p : CascadeConfigP) : List Nat := (List.range p.devices).filter fun d => d ≠ p.index

/-- A cascade just configured on a member, or on the master with the ring map known. -/
def CascadeConfigP.joined (p : CascadeConfigP) (counts : List Nat) (master : Bool) (now : Nat) : Cascade :=
  ⟨p, counts, master, false, 0, 0, [], (CascadeConfigP.peers p).map fun d => (d, now)⟩

/-- The replicas that a ring map gives the device itself. -/
def Grad.own (g : Grad) : Nat := (g.ring.map fun r => r.replicas).getD 0

section cascade
variable {h : CmdHdr} {p : CascadeConfigP} {x : Ctx} {s : State} (hs : s.starts h (.cascadeConfig p)) (hx : s.namesIdle p.ctx x)
  (hopen : x.sealing = none) (hrange : CascadeConfigP.inRange p = true) (hinbox : p.devices = 1 ∨ s.inboxOk (ctxOf p.ctx) p.inbox = true)
  (hfits : p.index = p.master → (CascadeConfigP.lengths p).sum ≤ 128 ∧ nthD 0 (CascadeConfigP.lengths p) p.index = x.grad.own)
include hs hx hopen hrange hinbox hfits

/-- A CASCADE_CONFIG without a reason to refuse it installs the cascade that it describes. -/
theorem exec_cascadeConfig_accepted : exec (.cascadeConfig h p) s = .next (if p.devices = 1 then
      (s.putCtx (ctxOf p.ctx) { x with grad := { x.grad with casc := none } }).complete h .done
    else
      let master := p.index == p.master
      let u := s.putCtx (ctxOf p.ctx) { x with
        grad := { x.grad with casc := some (CascadeConfigP.joined p (if master then CascadeConfigP.lengths p else []) master s.timeNs) } }
      (if master then (CascadeConfigP.peers p).foldl (fun s d => s.send (.peerMap (ctxOf p.ctx) d (CascadeConfigP.lengths p))) u else u).complete h
        .done) := by
  obtain ⟨hctx, hidle⟩ := hx
  refine congrArg Host.Outcome.next ((State.host1_onCtx hs hctx).trans ((if_neg ?unsealed).trans ((if_neg hidle).trans ((if_neg ?lengths).trans
    (if_neg ?range)))))
  case unsealed => simp [hopen]
  case lengths =>
    simp only [Bool.and_eq_true, Bool.or_eq_true, beq_iff_eq, decide_eq_true_eq, not_and, not_or, not_lt, ne_eq, not_not]
    exact hfits
  case range =>
    rcases hinbox with hone | hok
    · simp [hrange, hone]
    · simp [hrange, hok]

/-- A device that stands alone is in no cascade. -/
theorem exec_cascadeConfig_alone (hone : p.devices = 1) : exec (.cascadeConfig h p) s =
    .next ((s.putCtx (ctxOf p.ctx) { x with grad := { x.grad with casc := none } }).complete h .done) :=
  (exec_cascadeConfig_accepted hs hx hopen hrange hinbox hfits).trans (congrArg Host.Outcome.next (if_pos hone))

/-- A member waits for the master's map. -/
theorem exec_cascadeConfig_member (hmany : p.devices ≠ 1) (hmember : p.index ≠ p.master) : exec (.cascadeConfig h p) s =
    .next ((s.putCtx (ctxOf p.ctx) { x with grad := { x.grad with casc := some (CascadeConfigP.joined p [] false s.timeNs) } }).complete h .done) := by
  rw [exec_cascadeConfig_accepted hs hx hopen hrange hinbox hfits, if_neg hmany, beq_false_of_ne hmember]
  rfl

/-- The master knows the map and sends it to every member. -/
theorem exec_cascadeConfig_master (hmany : p.devices ≠ 1) (hmaster : p.index = p.master) : exec (.cascadeConfig h p) s =
    .next (((CascadeConfigP.peers p).foldl (fun s d => s.send (.peerMap (ctxOf p.ctx) d (CascadeConfigP.lengths p)))
      (s.putCtx (ctxOf p.ctx) { x with
        grad := { x.grad with casc := some (CascadeConfigP.joined p (CascadeConfigP.lengths p) true s.timeNs) } })).complete h .done) := by
  rw [exec_cascadeConfig_accepted hs hx hopen hrange hinbox hfits, if_neg hmany, beq_iff_eq.mpr hmaster]
  rfl

end cascade

/-! ### TILE_FORMAT, SHUFFLE_CONFIG and SHUFFLE_SEEK (R320, R327, R330, R336) -/

theorem exec_tileFormat_installs {h : CmdHdr} {p : TileFormatP} {x : Ctx} {s : State} {r : Reservoir} (hs : s.starts h (.tileFormat p))
    (hx : s.names p.ctx x) (hrange : p.inRange = true) (hr : x.shuffle = some r) (hfits : p.tiles * 4096 ≤ r.cfg.slotBytes)
    (hfree : ∀ t ∈ s.media.streams, t.ctx = ctxOf p.ctx → t.p.tileFormat ≠ p.handle) :
    exec (.tileFormat h p) s = .next ((s.putCtx (ctxOf p.ctx) { x with formats := assocSet p.handle p x.formats }).complete h .done) := by
  have hunused : ¬ (s.media.streams.any fun t => t.ctx == ctxOf p.ctx && t.p.tileFormat == p.handle) = true := by
    simpa only [List.any_eq_true, Bool.and_eq_true, beq_iff_eq, not_exists, not_and] using hfree
  refine congrArg Host.Outcome.next ((State.host1_onCtx hs hx).trans ((if_neg (by simp [hrange])).trans ?_))
  rw [hr]
  exact (if_neg (Nat.not_lt.mpr hfits)).trans (if_neg hunused)

theorem exec_shuffleConfig_installs {h : CmdHdr} {p : ShuffleConfigP} {x : Ctx} {s : State} (hs : s.starts h (.shuffleConfig p))
    (hx : s.namesIdle p.ctx x) (hend : p.base + p.size * 2 ^ 30 ≤ 2 ^ 48) (hclosed : s.hasStream (ctxOf p.ctx) = false)
    (hrange : shuffleInRange p = true) (hfits : ∀ f ∈ x.formats, f.2.tiles * 4096 ≤ p.slotBytes)
    (hlanes : ∀ c ∈ allCores, nthD 0xFF p.lane c.val < p.lanes → s.fenced (.c c.die) = false) :
    exec (.shuffleConfig h p) s = .next ((s.putCtx (ctxOf p.ctx) { x with shuffle := some (Reservoir.fresh p) }).complete h .done) := by
  obtain ⟨hctx, hidle⟩ := hx
  refine congrArg Host.Outcome.next ((State.host1_onCtx hs hctx).trans ((if_neg (Nat.not_lt.mpr hend)).trans ((if_neg ?quiet).trans
    ((if_neg ?range).trans ((if_neg ?room).trans (if_neg ?fenced))))))
  case quiet => simp [hidle, hclosed]
  case range => simp [hrange]
  case room => simpa only [List.any_eq_true, decide_eq_true_eq, not_exists, not_and, not_lt] using hfits
  case fenced => simpa only [List.any_eq_true, Bool.and_eq_true, decide_eq_true_eq, not_exists, not_and, Bool.not_eq_true] using hlanes

/-- A change of a context's reservoir is what it makes of the reservoir there. -/
theorem State.modShuffle_congr {s : State} {n : CtxId} {x : Ctx} {r : Reservoir} {f g : Reservoir → Reservoir} (hx : s.ctx? n = some x)
    (hr : x.shuffle = some r) (hfg : f r = g r) : s.modShuffle n f = s.modShuffle n g := by
  simp only [State.modShuffle, State.modCtx, hx, hr, Option.map_some, hfg]

section seek
variable {h : CmdHdr} {p : ShuffleSeekP} {x : Ctx} {s : State} {r : Reservoir} (hs : s.starts h (.shuffleSeek p)) (hx : s.names p.ctx x)
  (hr : x.shuffle = some r)
include hs hx hr

/-- A range is voided where the void table has room for it. -/
theorem exec_shuffleSeek_voids (hop : p.voidRange = true) (hne : p.a < p.b) (hroom : (addVoid p.a p.b r.voids).length ≤ voidRoom) :
    exec (.shuffleSeek h p) s =
      .next ((s.modShuffle (ctxOf p.ctx) fun r => { r with voids := addVoid p.a p.b r.voids }).complete h .done) := by
  refine congrArg Host.Outcome.next ((State.host1_onCtx hs hx).trans ?_)
  rw [hr]
  refine (if_pos hop).trans ((if_neg (Nat.not_le.mpr hne)).trans ((if_neg (Nat.not_lt.mpr hroom)).trans ?_))
  exact congrArg (State.complete · h .done) (State.modShuffle_congr hx hr rfl)

/-- Every lane of a context that does not run goes to the position of the seek. -/
theorem exec_shuffleSeek_moves (hop : p.voidRange = false) (hidle : s.running ≠ some (ctxOf p.ctx)) : exec (.shuffleSeek h p) s =
    .next ((s.modShuffle (ctxOf p.ctx) fun r => ({ r with pos := r.pos.map fun _ => p.a } : Reservoir).reseat).complete h .done) := by
  refine congrArg Host.Outcome.next ((State.host1_onCtx hs hx).trans ?_)
  rw [hr]
  exact (if_neg ((Bool.not_eq_true _).mpr hop)).trans (if_neg hidle)

end seek

/-! ### INGEST_OPEN, INGEST_FEED and INGEST_CLOSE (R291 to R295) -/

theorem exec_ingestOpen_opens {h : CmdHdr} {p : IngestOpenP} {x : Ctx} {s : State} (hs : s.starts h (.ingestOpen p)) (hx : s.names p.ctx x)
    (hnew : s.stream? (ctxOf p.ctx) p.stream = none) (hroom : s.media.streams.length < 1024) (hrange : ingestInRange p = true)
    (hwork : p.jobs * workNeed p ≤ p.workSize * 2097152) (hend : p.workBase + p.workSize * 2097152 ≤ 2 ^ 48) (hdies : s.openDies p.mediaMask ≠ [])
    (hfmt : (assoc? p.tileFormat x.formats).isSome = true) : exec (.ingestOpen h p) s =
      .next ((s.modMedia fun m => { m with streams := m.streams ++ [⟨ctxOf p.ctx, p, none⟩] }).complete h .done) := by
  refine congrArg Host.Outcome.next ((State.host1_onCtx hs hx).trans ((if_neg ?new).trans ((if_neg (Nat.not_le.mpr hroom)).trans ((if_neg ?range).trans
    ((if_neg ?slices).trans ((if_neg ?dies).trans (if_neg ?format)))))))
  case new => simp [hnew]
  case range => simp [hrange]
  case slices => exact not_or.mpr ⟨Nat.not_lt.mpr hwork, Nat.not_lt.mpr hend⟩
  case dies => simpa using hdies
  case format => simpa [← Option.isSome_iff_ne_none] using hfmt

/-- The fields of an INGEST_FEED to a stream of `programs` programs are in their ranges (R293, R317, R507). -/
structure IngestFeedP.Legal (p : IngestFeedP) (programs : Nat) : Prop where
  length : 1 ≤ p.length ∧ p.length ≤ 2 ^ 30
  frames : 1 ≤ p.maxFrames ∧ p.maxFrames ≤ 4096
  stride : 1 ≤ p.clipStride ∧ p.clipStride ≤ 2 ^ 24
  aux : p.auxBase % 64 = 0 ∧ p.auxSize % 64 = 0
  source : p.source + p.length ≤ 2 ^ 48
  auxEnd : p.auxBase + p.auxSize ≤ 2 ^ 48
  report : p.report + 64 * programs ≤ 2 ^ 48

/-- The feed that an INGEST_FEED opens, with one job for each program, none of which has started. -/
def Media.fed (m : Media) (h : CmdHdr) (n : CtxId) (p : IngestFeedP) (programs : Nat) : Media :=
  { m with feeds := m.feeds ++ [⟨m.nextId, h, n, p, programs, [], 0⟩], jobs := m.jobs ++ feedJobs n p m.nextId (m.nextId + 1) programs,
           nextId := m.nextId + 1 + programs }

/-- A stream, closing where it is the one that an INGEST_CLOSE names (R295). -/
def Stream.shut (t : Stream) (h : CmdHdr) (n : CtxId) (k : Nat) : Stream := if t.ctx == n && t.p.stream == k then { t with closing := some h } else t

section stream
variable {h : CmdHdr} {x : Ctx} {s : State} {t : Stream} (hopen : t.closing = none)
include hopen

/-- A legal feed of an open stream that has no arrivals to make queues its jobs. -/
theorem exec_ingestFeed_queues {p : IngestFeedP} (hs : s.starts h (.ingestFeed p)) (hx : s.names p.ctx x)
    (ht : s.stream? (ctxOf p.ctx) p.stream = some t) (hlegal : IngestFeedP.Legal p t.p.programs) (harrive : p.arrive = false)
    (hroom : s.media.queued + t.p.programs ≤ 4096) :
    exec (.ingestFeed h p) s = .next (((s.start h (.ingestFeed p)).modMedia fun m => m.fed h (ctxOf p.ctx) p t.p.programs).reapJobs) := by
  refine congrArg Host.Outcome.next ((State.host1_onCtx hs hx).trans ?_)
  rw [ht]
  refine (if_neg ?opened).trans ((if_neg ?legal).trans ((if_neg ?armed).trans ((if_neg ?held).trans (if_neg (Nat.not_lt.mpr hroom)))))
  case opened => simp [hopen]
  case legal =>
    obtain ⟨hlength, hframes, hstride, haux, hsource, hauxEnd, hreport⟩ := hlegal
    omega
  case armed => simp [harrive]
  case held => simp [harrive]

/-- An open stream closes: it is free once its last job has left. -/
theorem exec_ingestClose_closes {p : IngestCloseP} (hs : s.starts h (.ingestClose p)) (hx : s.names p.ctx x)
    (ht : s.stream? (ctxOf p.ctx) p.stream = some t) : exec (.ingestClose h p) s =
      .next (((s.start h (.ingestClose p)).modMedia fun m => { m with
        streams := m.streams.map (Stream.shut · h (ctxOf p.ctx) p.stream) }).endStream (ctxOf p.ctx) p.stream) := by
  refine congrArg Host.Outcome.next ((State.host1_onCtx hs hx).trans ?_)
  rw [ht]
  exact if_neg (by simp [hopen])

end stream

/-- Settles O54, one command after the other by the lemma that says what it does on a context in the ranges of its rule. -/
theorem flowConfigurationCompletes : Obligations.FlowConfigurationCompletes := by
  unfold Obligations.FlowConfigurationCompletes
  intro h x s
  refine ⟨fun p hs hx hlo hhi hdup hdies => exec_ringMap_installs hs hx hlo hhi hdup hdies,
    fun p hs hx hcount hbase => exec_gradConfig_installs hs hx hcount hbase, fun p hs hx hopen hrange hinbox => ⟨?alone, ?member, ?master⟩,
    fun p r hs hx hrange hr hfits hfree => exec_tileFormat_installs hs hx hrange hr hfits hfree,
    fun p hs hx hend hclosed hrange hfits hlanes => exec_shuffleConfig_installs hs hx hend hclosed hrange hfits hlanes,
    fun p r hs hx hr => ⟨fun hop hne hroom => exec_shuffleSeek_voids hs hx hr hop hne hroom, fun hop hidle => exec_shuffleSeek_moves hs hx hr hop hidle⟩,
    fun p hs hx hnew hroom hrange hwork hend hdies hfmt => exec_ingestOpen_opens hs hx hnew hroom hrange hwork hend hdies hfmt, ?feed,
    fun p t hs hx ht hopen => exec_ingestClose_closes hopen hs hx ht⟩
  case alone => exact fun hone hfits => exec_cascadeConfig_alone hs hx hopen hrange hinbox hfits hone
  case member => exact fun hmany hmember => exec_cascadeConfig_member hs hx hopen hrange hinbox (absurd · hmember) hmany hmember
  case master => exact fun hmany hmaster hsum hown => exec_cascadeConfig_master hs hx hopen hrange hinbox (fun _ => ⟨hsum, hown⟩) hmany hmaster
  case feed =>
    intro p t hs hx ht hopen hlen hlen' hframes hframes' hstride hstride' hauxBase hauxSize hsource hauxEnd hreport harrive hroom
    exact exec_ingestFeed_queues hopen hs hx ht
      ⟨⟨hlen, hlen'⟩, ⟨hframes, hframes'⟩, ⟨hstride, hstride'⟩, ⟨hauxBase, hauxSize⟩, hsource, hauxEnd, hreport⟩ harrive hroom

end Sys2Proof.Machine
end

section
/-! PROOFS. The events of the gradient exchange and of the cascade (R270, R272, R273, R275 to R278, R285 to R288). -/

namespace Sys2Proof.Machine

open Sys2Proof

/-! ### Events of a context that runs -/

section running
variable {n : CtxId} {s : State} {x : Ctx} {g : GradConfigP} (hticks : s.ticking = true) (hrun : s.running = some n) (hx : s.ctx? n = some x)
  (hcfg : x.grad.cfg = some g) (hstop : ∀ e, x.exec = some e → e.stopSt = none)
include hticks hrun hx hcfg hstop

/-- A gradient event of a context that runs and does not stop acts. -/
theorem State.gradOn_runs (f : Ctx → GradConfigP → State) : s.gradOn n f = f x g := by
  have hgoes : ((x.exec.map fun e => e.stopSt.isSome).getD false) = false := by
    cases he : x.exec with
    | none => rfl
    | some e => exact congrArg Option.isSome (hstop e he)
  refine (if_neg (by simp [hticks, hrun])).trans ?_
  simp only [hx, hcfg, hgoes]
  rfl

/-! ### BUCKET_ENTER (R270, R275, R286, R287) -/

/-- A replica whose next bucket has entered reduction. -/
def Replica.entered (r : Replica) (b : SentBucket) (a : ActiveBucket) (id : Nat) : Replica :=
  { r with queue := r.queue.erase b, active := r.active ++ [a], nextEnter := id + 1 }

/-- The next accepted bucket enters where the ring is known and fewer than four buckets are ahead of it. -/
theorem exec_bucketEnter_enters {pos : Nat} {r : Replica} {b : SentBucket} (hr : x.grad.replica? pos = some r)
    (hnext : r.queue.find? (fun b => b.id == r.nextEnter) = some b) (hmap : ∀ k, x.grad.casc = some k → k.mapReceived = true ∧ k.broken = false)
    (hdepth : 4 ≤ r.nextEnter → r.nextEnter - 4 < r.nextDone) :
    exec (.bucketEnter n pos) s = .next (((s.modGrad n fun q => (q.modReplica pos fun v =>
      v.entered b ⟨b, r.round, [], 0, false, []⟩ r.nextEnter).pace r.nextEnter).markRecord g b).startShard n pos ⟨b, r.round, [], 0, false, []⟩) := by
  have hmapped : ((x.grad.casc.map fun k => k.mapReceived && !k.broken).getD true) = true := by
    cases hk : x.grad.casc with
    | none => rfl
    | some k =>
      obtain ⟨hreceived, hwhole⟩ := hmap k hk
      simp [hreceived, hwhole]
  refine congrArg Host.Outcome.next ((State.gradOn_runs hticks hrun hx hcfg hstop _).trans ?_)
  simp only [hr, hnext, hmapped]
  exact if_neg (by simpa using hdepth)

/-! ### CHAIN_PACKET (R272, R277, R285 to R287) -/

/-- The state without the chain of a number. -/
def State.takenChain (s : State) (n : CtxId) (i : Nat) : State := s.modGrad n fun q => { q with chains := q.chains.eraseIdx i }

section chain
variable {i : Nat} {k : Chain} (hk : x.grad.chains[i]? = some k) (hcome : k.pkt = none)
include hk hcome

section position
variable {r : Replica} {a : ActiveBucket} (hr : x.grad.replica? k.to_ = some r) (ha : r.bucket? k.bucket k.round = some a)
include hr ha

/-- The reduced unit lands at its owner. -/
theorem exec_chainPacket_lands (hlast : k.last = true) :
    exec (.chainPacket i) s = .next ((s.takenChain n i).landUnit n g k.to_ a k) := by
  refine congrArg Host.Outcome.next ?_
  simp only [hrun, State.gradOn_runs hticks hrun hx hcfg hstop, hk, hcome, hr, ha, hlast]
  rfl

/-- On its way a chain takes the contribution of the position and leaves for the next. -/
theorem exec_chainPacket_adds {ws : List Nat} (hmid : k.last = false) (hws : (s.takenChain n i).unitWords g a.sent k.unit = some ws) :
    exec (.chainPacket i) s = .next (((s.takenChain n i).touchUnit g a.sent k.unit).sendChain n g (x.grad.stopOf k.to_)
      (nextHop g x.grad.total k.bucket k.round k.unit k.to_ (if nonfinite g.elem ws then k.flags ||| 2 ^ k.to_ else k.flags)
        ((k.vals.zip ws).map fun e => f32Add e.1.toNat (widen g.elem e.2)))) := by
  unfold State.takenChain at hws ⊢
  refine congrArg Host.Outcome.next ?_
  simp only [hrun, State.gradOn_runs hticks hrun hx hcfg hstop, hk, hcome, hr, ha, hmid, hws]
  rfl

end position

/-- A chain of another device's position crosses to that device once it may. -/
theorem exec_chainPacket_crosses (hr : x.grad.replica? k.to_ = none) (hmay : x.grad.mayCross k = true) :
    exec (.chainPacket i) s = .next ((s.takenChain n i).send (.peerWrite n (x.grad.deviceOf k.to_)
      (if k.last then CascMsg.reduced k.bucket k.round k.unit k.flags (k.vals.map fun w => w.toNat)
       else .chain k.bucket k.round k.unit k.flags k.vals k.to_))) := by
  refine congrArg Host.Outcome.next ?_
  simp only [hrun, State.gradOn_runs hticks hrun hx hcfg hstop, hk, hcome, hr, hmay]
  rfl

end chain

/-! ### SHARD_SUMSQ_ARRIVAL (R273) -/

/-- The first sum of a shard that reaches a bucket stands there. -/
theorem exec_shardSumsqArrival_reaches {i : Nat} {m : ShardMsg} {r : Replica} {a : ActiveBucket} (hm : x.grad.shardMsgs[i]? = some m)
    (hr : x.grad.replica? m.to_ = some r) (ha : r.bucket? m.bucket m.round = some a) (hnew : ∀ e ∈ a.shards, e.1 ≠ m.shard) :
    exec (.shardSumsqArrival i) s = .next (s.modGrad n fun q => { (q.modReplica m.to_ fun r => r.modBucket m.bucket fun b =>
      { b with shards := a.shards ++ [(m.shard, m.sumsq, m.flags, m.nonfin)] }) with shardMsgs := q.shardMsgs.eraseIdx i }) := by
  have hfirst : (a.shards.any fun e => e.1 == m.shard) = false := by simpa using hnew
  refine congrArg Host.Outcome.next ?_
  simp only [hrun, State.gradOn_runs hticks hrun hx hcfg hstop, hm, hr, Option.bind_some, ha, hfirst]
  rfl

/-! ### BUCKET_COMPLETE (R271, R273, R275 to R277) -/

/-- What the shards of a ring of `total` positions have sent to a bucket, in shard order. -/
def ActiveBucket.sums (a : ActiveBucket) (total : Nat) : List (Nat × Word32 × Nat × Bool) :=
  (List.range total).filterMap fun j => a.shards.find? fun e => e.1 == j

/-- A replica whose oldest bucket has completed with nothing to flag. -/
def Replica.completed (r : Replica) (id : Nat) : Replica := { r with active := r.active.filter fun b => b.sent.id ≠ id, nextDone := id + 1 }

/-- A slice with bytes written. -/
def Slice.stored (k : Slice) (off : Nat) (bs : List Byte) : Slice := { k with mem := writeBytes k.mem off bs }

/-- A bucket that is not the last of its round and that every shard has summed completes: its record is written, and its operation is done. -/
theorem exec_bucketComplete_completes {pos : Nat} {r : Replica} {a : ActiveBucket} (hr : x.grad.replica? pos = some r)
    (ha : r.bucket? r.nextDone r.round = some a) (hmore : a.sent.id + 1 ≠ g.bucketCount) (hsums : ∀ j, j < x.grad.total → ∃ e ∈ a.shards, e.1 = j)
    (hended : ∃ t ∈ (s.core a.sent.core).trailing, t.op = a.sent.op) (hflags : (a.sums x.grad.total).foldl (fun t e => t ||| e.2.2.1) 0 = 0)
    (hfinite : ((a.sums x.grad.total).any fun e => e.2.2.2) = false) :
    exec (.bucketComplete n pos) s = .next (((s.modSlice r.die fun k => k.stored (g.recBase + 64 * (a.sent.id + 1)) (gradRecord a.sent.id r.round
      ((a.sums x.grad.total).foldl (fun t e => f32Add t e.2.1.toNat) 0) x.grad.total 0 false)).modGrad n fun q =>
        q.modReplica pos fun r => r.completed a.sent.id).bucketDone n a.sent) := by
  have hall : (((List.range x.grad.total).map fun j => a.shards.find? fun e => e.1 == j).all fun e => e.isSome) = true := by
    simpa [List.find?_isSome] using hsums
  have hdone : ((s.core a.sent.core).trailing.any fun t => t.op == a.sent.op) = true := by simpa using hended
  have hvs : (((List.range x.grad.total).map fun j => a.shards.find? fun e => e.1 == j).filterMap id) = a.sums x.grad.total :=
    List.filterMap_map
  refine congrArg Host.Outcome.next ((State.gradOn_runs hticks hrun hx hcfg hstop _).trans ?_)
  simp only [hr, ha, hall, hdone, hvs, hflags, hfinite, hmore, Nat.or_zero, Bool.or_false]
  rfl

end running

/-! ### The cascade inbox (R285, R288) -/

section inbox
variable {n : CtxId} {s : State} {k : Cascade} (hk : (s.ctxD n).grad.casc = some k) (hwhole : k.broken = false) (hopen : s.inboxOpen = true)
include hopen

theorem exec_cascMapArrival_open (counts : List Nat) : exec (.cascMapArrival n counts) s = .next (s.modCasc n fun k =>
    if k.cfg.index = k.cfg.master then k else { k with counts := counts, mapReceived := true }) :=
  congrArg Host.Outcome.next (if_neg (by simp [hopen]))

theorem exec_cascRoundStart_open (round : Nat) : exec (.cascRoundStart n round) s = .next (s.modCasc n fun k =>
    if k.cfg.index = k.cfg.master then k else { k with roundStarted := max k.roundStarted round }) :=
  congrArg Host.Outcome.next (if_neg (by simp [hopen]))

/-- What a peer's message does to an inbox that takes it: chains go on to their positions, a sum goes to every replica of the device, a heartbeat
count that has changed is noted with its time. -/
def State.takeMsg (s : State) (n : CtxId) (k : Cascade) : CascMsg → State
  | .chain b r u f v to_ => s.takeChain n ⟨b, r, u, to_, false, f, v, none⟩
  | .reduced b r u f v => s.takeChain n
      ⟨b, r, u, ((s.ctxD n).grad.cfg.map fun c => shardOf c.units (s.ctxD n).grad.total u).getD 0, true, f, v.map fun w => BitVec.ofNat 32 w, none⟩
  | .sumsq b r j v f nf => s.modGrad n fun g =>
      { g with shardMsgs := g.shardMsgs ++ (List.range g.replicas.length).map fun i => ⟨b, r, j, g.base + i, v, f, nf⟩ }
  | .heartbeat d e => if assoc? d k.hbSeen = some e then s.stamp else s.stamp.modCasc n fun k =>
      { k with hbSeen := assocSet d e k.hbSeen, hbAt := assocSet d s.stamp.timeNs k.hbAt }
  | .broken => s.breakCascade n

include hk hwhole

theorem exec_cascInboxWrite_takes (msg : CascMsg) : exec (.cascInboxWrite n msg) s = .next (s.takeMsg n k msg) := by
  refine congrArg Host.Outcome.next ?_
  simp only [hk, hwhole, hopen]
  rfl

theorem exec_cascInboxWrite_heartbeat {d e : Nat} (hnew : assoc? d k.hbSeen ≠ some e) :
    exec (.cascInboxWrite n (.heartbeat d e)) s = .next (s.stamp.modCasc n fun k =>
      { k with hbSeen := assocSet d e k.hbSeen, hbAt := assocSet d s.stamp.timeNs k.hbAt }) :=
  (exec_cascInboxWrite_takes hk hwhole hopen _).trans (congrArg Host.Outcome.next (if_neg hnew))

end inbox

/-- A released pin that is sampled is pulled low again (R287). -/
theorem exec_cascHatchRelease_samples {n : CtxId} {x : Ctx} {s : State} {chan : Fin 4} (hctx : s.runCtx = some (n, x))
    (hcasc : x.grad.casc.isSome = true) (hpin : nthD false x.grad.pinReleased chan.val = true) :
    exec (.cascHatchRelease chan) s = .next (s.modGrad n fun g =>
      { g with pinSampled := g.pinSampled.set chan.val true, pinReleased := g.pinReleased.set chan.val false }) := by
  refine congrArg Host.Outcome.next ?_
  simp only [hctx, hcasc, hpin]
  rfl

/-! ### The way of a chain to its next position (R278) -/

section sendChain
variable {s : State} {n : CtxId} (g : GradConfigP) {src : Fin 5} {k : Chain}

theorem State.sendChain_mesh (h : src = (s.ctxD n).grad.stopOf k.to_) :
    s.sendChain n g src k = s.modGrad n fun r => { r with chains := r.chains ++ [k] } := if_pos h

/-- The packet that carries a chain to another stop, in the flow of its channel. -/
def State.chainPkt (s : State) (n : CtxId) (g : GradConfigP) (k : Chain) : Pkt where
  id := s.fabric.nextId
  ctx := n
  xfer := s.fabric.nextId
  seq := 0
  flow := GradConfigP.flowOf g k.bucket
  vc := if (GradConfigP.flowOf g k.bucket).isSome then 0 else 2
  pos := .queued 0 0
  tile := k.unit
  hops := 0
  dst := (s.ctxD n).grad.stopOf k.to_
  drops := []
  members := []
  bytes := []

/-- The state in which a chain waits for its packet. -/
def State.awaitPkt (s : State) (n : CtxId) (k : Chain) : State :=
  (s.modFabric fun f => { f with nextId := s.fabric.nextId + 1 }).modGrad n fun r => { r with chains := r.chains ++ [{ k with pkt := some s.fabric.nextId }] }

theorem State.sendChain_packet (h : src ≠ (s.ctxD n).grad.stopOf k.to_) :
    s.sendChain n g src k = (s.awaitPkt n k).enqueue (s.chainPkt n g k) src false := if_neg h

end sendChain

/-! ### Heartbeats (R288) -/

section heartbeat
variable {n : CtxId} {k : Cascade} {s : State} (hticks : s.ticking = true) (hone : s.cascades = [(n, k)])
include hticks hone

theorem exec_cascHeartbeat_sends : exec .cascHeartbeat s =
    .next ((k.watchers.foldl (fun s d => s.send (.peerWrite n d (.heartbeat k.cfg.index (k.hbCount + 1)))) s).modCasc n fun k =>
      { k with hbCount := k.hbCount + 1 }) := by
  refine congrArg Host.Outcome.next ((if_neg (by simp [hticks])).trans ?_)
  rw [hone]
  rfl

/-- A member that misses a heartbeat which it watches breaks the cascade 1 ms after the last one. -/
theorem exec_cascHeartbeatLoss_breaks {dev : Nat} (hdev : dev ∈ k.watchers) (hmember : k.cfg.index ≠ k.cfg.master) :
    exec (.cascHeartbeatLoss dev) s =
      .next (({ s with timeNs := max s.timeNs ((assoc? dev k.hbAt).getD 0 + 1000000) } : State).breakCascade n) := by
  refine congrArg Host.Outcome.next ((if_neg (by simp [hticks])).trans ?_)
  rw [hone]
  refine (if_pos hdev).trans ?_
  dsimp only
  rw [if_neg hmember]

end heartbeat

/-! ### The obligation -/

/-- Settles O55, one clause after the other by the lemma that says what the row does in the case named; the packet of a chain is
`State.chainPkt`. -/
theorem gradientEventsAct : Obligations.GradientEventsAct := by
  unfold Obligations.GradientEventsAct
  refine ⟨?running, ?inbox, fun n x s chan hctx hcasc hpin => exec_cascHatchRelease_samples hctx hcasc hpin, ?way, ?beats⟩
  case running =>
    intro n s x g hticks hrun hx hcfg hstop
    refine ⟨?_, ?_, ?_, ?_, ?_⟩
    · exact fun pos r b hr hnext hmap hdepth => exec_bucketEnter_enters hticks hrun hx hcfg hstop hr hnext hmap hdepth
    · exact fun i k r a hk hcome hr ha => ⟨exec_chainPacket_lands hticks hrun hx hcfg hstop hk hcome hr ha,
        fun ws => exec_chainPacket_adds hticks hrun hx hcfg hstop hk hcome hr ha⟩
    · exact fun i k hk hcome hr hmay => exec_chainPacket_crosses hticks hrun hx hcfg hstop hk hcome hr hmay
    · exact fun i m r a hm hr ha hnew => exec_shardSumsqArrival_reaches hticks hrun hx hcfg hstop hm hr ha hnew
    · intro pos r a hr ha hmore hsums hended vs flags nonfin hflags hfinite
      exact exec_bucketComplete_completes hticks hrun hx hcfg hstop hr ha hmore hsums hended hflags hfinite
  case inbox =>
    intro n s k hk hwhole hopen
    have takes := exec_cascInboxWrite_takes hk hwhole hopen
    exact ⟨fun _ _ _ _ _ _ => takes _, fun _ _ _ _ _ => takes _, fun _ _ _ _ _ _ => takes _,
      fun _ _ hnew => exec_cascInboxWrite_heartbeat hk hwhole hopen hnew, takes .broken, exec_cascMapArrival_open hopen, exec_cascRoundStart_open hopen⟩
  case way =>
    exact fun n s g src k => ⟨State.sendChain_mesh g,
      fun h => ⟨s.chainPkt n g k, s.awaitPkt n k, rfl, rfl, rfl, rfl, rfl, State.sendChain_packet g h⟩⟩
  case beats =>
    exact fun n k s hticks hone => ⟨exec_cascHeartbeat_sends hticks hone, fun dev hdev hmember => exec_cascHeartbeatLoss_breaks hticks hone hdev hmember⟩

end Sys2Proof.Machine
end

section
/-! PROOFS. The events of ingest: jobs, pictures, clips and void ranges (R292, R294, R297, R301, R304, R311, R315, R321, R324, R329, R330). -/

namespace Sys2Proof.Machine

open Sys2Proof

/-! ### The die of a job (R294) -/

/-- In a sorted list without duplicates the lesser of two members comes first. -/
theorem idxOf_le_idxOf_iff_of_sortedLT {α : Type} [LinearOrder α] [BEq α] [LawfulBEq α] {l : List α} {a b : α} (hl : l.SortedLT) (ha : a ∈ l)
    (hb : b ∈ l) : l.idxOf a ≤ l.idxOf b ↔ a ≤ b := by
  have hle := hl.getElem_le_getElem_iff (hi := List.idxOf_lt_length_of_mem ha) (hj := List.idxOf_lt_length_of_mem hb)
  rw [← hle, List.getElem_idxOf, List.getElem_idxOf]

theorem State.startDies_sortedLT (s : State) (mask : Nat) : (s.startDies mask).SortedLT :=
  (((List.sortedLT_finRange 4).pairwise.filter _).filter _ |>.filter _).sortedLT

/-- The better of a die found so far and the next one: the earlier of two with equally many free engines. -/
def State.richer (s : State) (best : Option BedId) (d : BedId) : Option BedId :=
  match best with
  | none => some d
  | some b => if (s.freeEngines b).length < (s.freeEngines d).length then some d else some b

theorem State.richer_eq_argAux (s : State) : s.richer = List.argAux fun d b => (s.freeEngines b).length < (s.freeEngines d).length := by
  funext best d
  cases best <;> rfl

/-- The search over the dies that can start a job finds the lowest of those with most free engines. -/
theorem State.foldl_richer_startDies {s : State} {mask : Nat} {d : BedId} (hd : d ∈ s.startDies mask)
    (hmost : ∀ e ∈ s.startDies mask, (s.freeEngines e).length ≤ (s.freeEngines d).length)
    (hlow : ∀ e ∈ s.startDies mask, (s.freeEngines e).length = (s.freeEngines d).length → d ≤ e) :
    (s.startDies mask).foldl s.richer none = some d := by
  rw [State.richer_eq_argAux]
  exact List.argmax_eq_some_iff.mpr ⟨hd, hmost, fun e he hge =>
    (idxOf_le_idxOf_iff_of_sortedLT (s.startDies_sortedLT mask) hd he).mpr (hlow e he (Nat.le_antisymm (hmost e he) hge))⟩

/-! ### Whether an event of a job acts -/

/-- The guard of every event of a job lets it act on a device that ticks and is not halted. -/
theorem State.mediaOn {s : State} (hticks : s.ticking = true) (hawake : s.clk.halted = false) : ¬ (!s.ticking || s.clk.halted) = true := by
  simp [hticks, hawake]

/-- What is present is not missing, in the spelling of the model's tests. -/
theorem not_isNone_of_isSome {α : Type} {o : Option α} (h : o.isSome = true) : ¬ o.isNone = true :=
  (Bool.not_eq_true _).mpr (Option.isNone_eq_false_iff.mpr h)

/-- Nothing holds the tile former of a running job whose ready clips all have slots. -/
theorem Job.mayDecode {j : Job} (hrun : j.st = .running) (hdemux : j.demux.isSome = true)
    (hplaced : ∀ c ∈ j.clips, c.ready = true → c.slot.isSome = true) :
    ¬ (j.st ≠ .running ∨ j.demux.isNone = true ∨ (j.clips.any fun c => c.ready && c.slot.isNone) = true) := by
  rintro (hstill | hnone | hwaits)
  · exact hstill hrun
  · exact not_isNone_of_isSome hdemux hnone
  · obtain ⟨c, hc, hwait⟩ := List.any_eq_true.mp hwaits
    obtain ⟨hready, hslot⟩ := (Bool.and_eq_true _ _).mp hwait
    exact not_isNone_of_isSome (hplaced c hc hready) hslot

section awake
variable {s : State} {job : Nat} {j : Job} (hticks : s.ticking = true) (hawake : s.clk.halted = false) (hj : s.job? job = some j)
include hticks hawake hj

/-! ### INGEST_JOB_START (R292, R294) -/

/-- A job at its start: its engine and its work slice are the lowest free ones. -/
def State.started (s : State) (j : Job) (t : Stream) (d : BedId) : Job :=
  { j with st := .running, die := some d, engine := (s.freeEngines d).headD 0,
           slice := ((List.range t.p.jobs).find? fun i => i ∉ (s.jobsOn j.ctx j.stream).map fun q => q.slice).getD 0 }

theorem exec_ingestJobStart_begins {t : Stream} {d : BedId} {env : Env} (hupdate : s.host.updating = false) (hqueued : j.st = .queued)
    (hfirst : s.media.jobs.find? s.canStart = some j) (hid : j.id = job) (ht : s.stream? j.ctx j.stream = some t)
    (hbest : (s.startDies t.p.mediaMask).foldl s.richer none = some d) :
    exec (.ingestJobStart job env) s = .next ((s.modJob job fun _ => s.started j t d).beginJob (s.started j t d) env) := by
  refine congrArg Host.Outcome.next ((if_neg (by simp [hticks, hawake, hupdate])).trans ?_)
  rw [hj]
  refine (if_neg (by simp [hqueued])).trans ?_
  rw [hfirst]
  refine (if_neg (not_not.mpr hid)).trans ?_
  rw [ht]
  dsimp only
  split
  case h_1 hnone => exact absurd (hbest.symm.trans hnone) (Option.some_ne_none d)
  case h_2 e hsome =>
    obtain rfl : d = e := Option.some.inj (hbest.symm.trans hsome)
    rfl

section running
variable {f : FeedRec} {t : Stream} {d : BedId} (hrun : j.st = .running) (hf : s.feed? j.feed = some f)
include hrun hf

/-! ### PICTURE_OUTPUT (R301, R304, R315, R321) -/

section picture
variable {fmt : TileFormatP} {fixed : Nat} {retry : Bool} (ht : s.stream? j.ctx j.stream = some t) (hd : j.die = some d)
  (hdemux : j.demux.isSome = true) (hfmt : assoc? t.p.tileFormat (s.ctxD j.ctx).formats = some fmt)
  (hplaced : ∀ c ∈ j.clips, c.ready = true → c.slot.isSome = true)
include ht hd hdemux hfmt hplaced

/-- Where decoding makes no picture ready, none leaves. -/
theorem exec_pictureOutput_dry (hready : (j.advance t.p f j.todo.length).ready = []) :
    exec (.pictureOutput job fixed retry) s = .next (s.modJob job fun _ => j.advance t.p f j.todo.length) := by
  refine congrArg Host.Outcome.next ((if_neg (State.mediaOn hticks hawake)).trans ?_)
  simp only [hj, ht, hf, hd, hfmt]
  refine (if_neg (Job.mayDecode hrun hdemux hplaced)).trans ?_
  rw [hready]

/-- The first ready picture is counted by its die and goes to the clips of its job. -/
theorem exec_pictureOutput_outputs {pic : Picture} {rest : List Picture} (hready : (j.advance t.p f j.todo.length).ready = pic :: rest) :
    exec (.pictureOutput job fixed retry) s =
      .next (((s.engineFinds d fixed retry).modMediaDie d fun m => { m with pictures := (m.pictures + 1) % 2 ^ 48 }).modJob job fun _ =>
        ({ j.advance t.p f j.todo.length with ready := rest } : Job).output t.p fmt f.p.clipStride pic) := by
  refine congrArg Host.Outcome.next ((if_neg (State.mediaOn hticks hawake)).trans ?_)
  simp only [hj, ht, hf, hd, hfmt]
  refine (if_neg (Job.mayDecode hrun hdemux hplaced)).trans ?_
  rw [hready]

end picture

/-! ### CLIP_READY (R329) -/

/-- The sequence number of a clip of a job. -/
def FeedRec.clipNumber (f : FeedRec) (j : Job) (c : Clip) : Nat := f.base j.prog + c.idx

/-- A job one of whose clips has got its slot, and one that is done with a clip. -/
def Job.placeClip (j : Job) (i slot : Nat) : Job := { j with clips := j.clips.map fun k => if k.idx = i then { k with slot := some slot } else k }
def Job.finishClip (j : Job) (i : Nat) : Job := { (j.dropClip i) with clipsFilled := j.clipsFilled + 1 }

section clip
variable {c : Clip} {r : Reservoir} (hc : j.readyClip = some c) (hr : (s.ctxD j.ctx).shuffle = some r)
include hc hr

/-- The slot of a clip becomes filling where it is empty in the clip's generation. -/
theorem exec_clipReady_places (hgen : r.gen (f.clipNumber j c % r.slots) = f.clipNumber j c / r.slots)
    (hempty : r.slot (f.clipNumber j c % r.slots) = .empty) (hvalid : r.voided (f.clipNumber j c) = false) : exec (.clipReady job) s =
      .next ((s.modShuffle j.ctx fun v => v.setSlot (f.clipNumber j c % r.slots) (.filling job)).modJob job fun k =>
        k.placeClip c.idx (f.clipNumber j c % r.slots)) := by
  refine congrArg Host.Outcome.next ((if_neg (State.mediaOn hticks hawake)).trans ?_)
  simp only [hj, hc, hf, hr]
  exact (if_neg (not_not.mpr hrun)).trans ((if_neg hgen.not_lt).trans (if_pos ⟨hgen, hempty, (Bool.not_eq_true' _).mpr hvalid⟩))

/-- A clip whose slot serves a later generation is discarded. -/
theorem exec_clipReady_discards (hgen : f.clipNumber j c / r.slots < r.gen (f.clipNumber j c % r.slots)) : exec (.clipReady job) s =
    .next (({ s with regs := { s.regs with shufReused := true } } : State).modJob job fun k => k.finishClip c.idx) := by
  refine congrArg Host.Outcome.next ((if_neg (State.mediaOn hticks hawake)).trans ?_)
  simp only [hj, hc, hf, hr]
  exact (if_neg (not_not.mpr hrun)).trans ((if_neg hgen.not_gt).trans (if_neg fun h => hgen.ne' h.1))

end clip

section stream
variable (ht : s.stream? j.ctx j.stream = some t)
include ht

/-! ### CLIP_FILLED (R324, R329) -/

/-- The bytes of a clip of a job, tile by tile. -/
def Job.clipTiles (j : Job) (f : FeedRec) (fmt : TileFormatP) (r : Reservoir) (c : Clip) : List (List Byte) :=
  let bs := clipBytes fmt r.cfg.seed (f.clipNumber j c) j.stream j.prog c.pics
  chunksOf 4096 (bs.length + 1) bs

theorem exec_clipFilled_fills {c : Clip} {fmt : TileFormatP} {r : Reservoir} {slot : Nat} {v : State} (hc : j.fillingClip = some c)
    (hfmt : assoc? t.p.tileFormat (s.ctxD j.ctx).formats = some fmt) (hr : (s.ctxD j.ctx).shuffle = some r) (hslot : c.slot = some slot)
    (hv : s.writeSlot j.ctx (r.slotAddr slot) (j.clipTiles f fmt r c) = .ok v) : exec (.clipFilled job) s =
      .next ((v.modShuffle j.ctx fun r => if r.slot slot = .filling job then r.setSlot slot .filled else r).modJob job fun k =>
        k.finishClip c.idx) := by
  unfold Job.clipTiles FeedRec.clipNumber at hv
  refine congrArg Host.Outcome.next ((if_neg (State.mediaOn hticks hawake)).trans ?_)
  simp only [hj, hc, hf, ht, hfmt, hr, hslot]
  refine (if_neg (not_not.mpr hrun)).trans ?_
  rw [hv]
  rfl

/-! ### INGEST_JOB_END (R304, R312, R315) -/

section ends
variable {fixed : Nat} {retry : Bool} (hd : j.die = some d) (hdemux : j.demux.isSome = true)
include hd hdemux

theorem exec_ingestJobEnd_natural {st : Status} {code : Nat} (hend : j.naturalEnd t.p f = some (st, code)) :
    exec (.ingestJobEnd job none fixed retry) s = .next ((s.engineFinds d fixed retry).endJob job st code false) := by
  refine congrArg Host.Outcome.next ((if_neg (State.mediaOn hticks hawake)).trans ?_)
  simp only [hj, hrun, hf, ht, hend, hd]
  exact if_neg (not_isNone_of_isSome hdemux)

theorem exec_ingestJobEnd_fault (w : JobFault) : exec (.ingestJobEnd job (some w) fixed retry) s =
    .next (((s.engineFinds d fixed retry).noteJobFault j w).stopJob job (JobFault.status w) false) := by
  refine congrArg Host.Outcome.next ((if_neg (State.mediaOn hticks hawake)).trans ?_)
  simp only [hj, hrun, hf, ht, hd]
  exact if_neg (not_isNone_of_isSome hdemux)

end ends
end stream
end running
end awake

/-! ### VOID_RANGE_DROP (R330) -/

/-- The reservoir without its first range that every lane has passed. -/
def Reservoir.dropPast (r : Reservoir) : Reservoir :=
  match r.voids.find? fun v => r.past v with
  | some v => { r with voids := r.voids.erase v }
  | none => r

theorem exec_voidRangeDrop_clocked {n : CtxId} {s : State} (hclock : s.clocked = true) :
    exec (.voidRangeDrop n) s = .next (s.modShuffle n Reservoir.dropPast) := by
  simp only [State.clocked, Bool.and_eq_true, Bool.not_eq_true'] at hclock
  obtain ⟨⟨⟨hbooted, hreset⟩, htripped⟩, hfrozen⟩ := hclock
  exact congrArg Host.Outcome.next (if_neg (by simp [hbooted, hreset, htripped, hfrozen]))

/-! ### The obligation -/

/-- Settles O56, one event after the other by the lemma that says what it does in the case named; `State.foldl_richer_startDies`
says which die a job takes. -/
theorem ingestEventsAct : Obligations.IngestEventsAct := by
  unfold Obligations.IngestEventsAct
  refine ⟨?start, ?running, ?drop⟩
  case start =>
    intro job env s j t d hticks hawake hupdate hj hqueued hfirst hid ht hd hmost hlow
    exact exec_ingestJobStart_begins hticks hawake hj hupdate hqueued hfirst hid ht (State.foldl_richer_startDies hd hmost hlow)
  case running =>
    intro job s j f t d hticks hawake hj hrun hf ht hd hdemux
    refine ⟨?picture, ?ready, ?filled, ?ends, ?faults⟩
    case picture =>
      exact fun fmt fixed retry hfmt hplaced => ⟨exec_pictureOutput_dry hticks hawake hj hrun hf ht hd hdemux hfmt hplaced,
        fun pic rest hready => exec_pictureOutput_outputs hticks hawake hj hrun hf ht hd hdemux hfmt hplaced hready⟩
    case ready =>
      exact fun c r hc hr => ⟨exec_clipReady_places hticks hawake hj hrun hf hc hr, exec_clipReady_discards hticks hawake hj hrun hf hc hr⟩
    case filled =>
      exact fun c fmt r slot v hc hfmt hr hslot hv => exec_clipFilled_fills hticks hawake hj hrun hf ht hc hfmt hr hslot hv
    case ends => exact fun st code fixed retry hend => exec_ingestJobEnd_natural hticks hawake hj hrun hf ht hd hdemux hend
    case faults => exact fun w fixed retry => exec_ingestJobEnd_fault hticks hawake hj hrun hf ht hd hdemux w
  case drop =>
    exact fun n s hbooted hreset htripped hfrozen => exec_voidRangeDrop_clocked (by simp [State.clocked, hbooted, hreset, htripped, hfrozen])

end Sys2Proof.Machine
end

section
/-! PROOFS. The permutation of the draws (R332): its Feistel network is injective, cycle walking over it is a first return, and a
first return of an injection is injective. -/

namespace Sys2Proof.Machine

open Sys2Proof

/-! ### The width of the network -/

theorem le_two_pow_log2Up (s : Nat) : s ≤ 2 ^ log2Up s := by
  unfold log2Up
  split
  · assumption
  · exact Nat.le_of_pred_lt Nat.lt_log2_self

theorem le_ceilDiv_mul (a : Nat) {b : Nat} (hb : 0 < b) : a ≤ ceilDiv a b * b := by
  have hlast := Nat.lt_div_mul_add (a := a + b - 1) hb
  unfold ceilDiv
  omega

theorem le_two_pow_feistelWidth (s : Nat) : s ≤ 2 ^ (2 * feistelWidth s) := by
  have hceil : log2Up s ≤ ceilDiv (log2Up s) 2 * 2 := le_ceilDiv_mul _ (by decide)
  have hmax : ceilDiv (log2Up s) 2 ≤ feistelWidth s := Nat.le_max_right _ _
  exact (le_two_pow_log2Up s).trans (Nat.pow_le_pow_right (by decide) (by omega))

/-! ### The Feistel network -/

section network
variable (seed e : Nat) {m : Nat}

/-- A round can be undone: it keeps the low half, and with it the word that went into the other one. -/
theorem feistelRounds_injective (n : Nat) : (feistelRounds seed e m n).Injective := by
  induction n with
  | zero => exact fun _ _ h => h
  | succ n ih =>
    rintro ⟨lo, hi⟩ ⟨lo', hi'⟩ h
    obtain ⟨hxor, rfl⟩ := Prod.mk.inj (ih h)
    rw [Nat.xor_left_inj.1 hxor]

theorem feistelRounds_lt (n : Nat) {p : Nat × Nat} (hlo : p.1 < 2 ^ m) (hhi : p.2 < 2 ^ m) :
    (feistelRounds seed e m n p).1 < 2 ^ m ∧ (feistelRounds seed e m n p).2 < 2 ^ m := by
  induction n generalizing p with
  | zero => exact ⟨hlo, hhi⟩
  | succ n ih => exact ih (Nat.xor_lt_two_pow hhi (field_lt _ _ _)) hlo

/-- The halves of a value, the lower one first. -/
def halves (m y : Nat) : Nat × Nat := (field y 0 m, y / 2 ^ m)

theorem halves_injective : (halves m).Injective := by
  intro x y h
  obtain ⟨hlo, hhi⟩ := Prod.mk.inj h
  simp only [field, Nat.pow_zero, Nat.div_one] at hlo
  rw [← Nat.div_add_mod x (2 ^ m), ← Nat.div_add_mod y (2 ^ m), hlo, hhi]

theorem halves_join {lo hi : Nat} (hlo : lo < 2 ^ m) : halves m (hi * 2 ^ m + lo) = (lo, hi) := by
  simp [halves, field, Nat.mod_eq_of_lt hlo, Nat.mul_add_div, Nat.div_eq_of_lt hlo, Nat.mul_comm hi]

theorem halves_lt {y : Nat} (hy : y < 2 ^ (2 * m)) : (halves m y).1 < 2 ^ m ∧ (halves m y).2 < 2 ^ m :=
  ⟨field_lt _ _ _, Nat.div_lt_of_lt_mul (by rwa [← Nat.pow_add, ← Nat.two_mul])⟩

theorem halves_feistel {y : Nat} (hy : y < 2 ^ (2 * m)) :
    halves m (feistel seed e m y) = feistelRounds seed e m 4 (halves m y) :=
  halves_join (feistelRounds_lt seed e 4 (halves_lt hy).1 (halves_lt hy).2).1

theorem feistel_mapsTo : Set.MapsTo (feistel seed e m) (Set.Iio (2 ^ (2 * m))) (Set.Iio (2 ^ (2 * m))) := by
  intro y hy
  obtain ⟨hlo, hhi⟩ := feistelRounds_lt seed e 4 (halves_lt hy).1 (halves_lt hy).2
  calc feistel seed e m y < (feistelRounds seed e m 4 (halves m y)).2 * 2 ^ m + 2 ^ m := Nat.add_lt_add_left hlo _
    _ ≤ 2 ^ m * 2 ^ m := by rw [← Nat.succ_mul]; exact Nat.mul_le_mul_right _ hhi
    _ = 2 ^ (2 * m) := by rw [← Nat.pow_add, Nat.two_mul]

theorem feistel_injOn : Set.InjOn (feistel seed e m) (Set.Iio (2 ^ (2 * m))) := by
  intro x hx y hy h
  apply halves_injective
  apply feistelRounds_injective seed e 4
  rw [← halves_feistel seed e hx, h, halves_feistel seed e hy]

end network

/-! ### Cycle walking -/

/-- An injection of the numbers below `N` returns to each of them within `N` steps. -/
theorem exists_iterate_eq_self {f : Nat → Nat} {N y : Nat} (hmaps : Set.MapsTo f (Set.Iio N) (Set.Iio N)) (hinj : Set.InjOn f (Set.Iio N))
    (hy : y < N) : ∃ k < N, f^[k + 1] y = y := by
  have hlt (k : Nat) : f^[k] y < N := hmaps.iterate k hy
  obtain ⟨a, ha, b, hb, hne, heq⟩ := Finset.exists_ne_map_eq_of_card_lt_of_maps_to (s := Finset.range (N + 1)) (t := Finset.range N)
    (by simp) fun k _ => Finset.mem_coe.2 (Finset.mem_range.2 (hlt k))
  wlog hab : a < b generalizing a b
  · exact this b hb a ha hne.symm heq.symm (by omega)
  obtain ⟨k, rfl⟩ := Nat.exists_eq_add_of_lt hab
  have hbN := Finset.mem_range.1 hb
  refine ⟨k, by omega, ?_⟩
  rw [Nat.add_assoc, Function.iterate_add_apply] at heq
  exact (hinj.iterate hmaps a hy (hlt (k + 1)) heq).symm

/-- The walk from `y` along `f` first comes below `s` at step `k + 1`. -/
def FirstReturn (f : Nat → Nat) (s y k : Nat) : Prop := f^[k + 1] y < s ∧ ∀ i < k, s ≤ f^[i + 1] y

/-- Of two walks of an injection with one end, a longer one passes the start of the other; but a first return passes nothing below `s`. -/
theorem FirstReturn.start_eq {f : Nat → Nat} {N s x y j k : Nat} (hmaps : Set.MapsTo f (Set.Iio N) (Set.Iio N))
    (hinj : Set.InjOn f (Set.Iio N)) (hN : s ≤ N) (hx : x < s) (hy : y < s) (hreturn : FirstReturn f s y k) (hjk : j ≤ k)
    (hend : f^[j + 1] x = f^[k + 1] y) : x = y := by
  obtain ⟨d, rfl⟩ := Nat.exists_eq_add_of_le hjk
  rw [Nat.add_right_comm, Function.iterate_add_apply f (j + 1)] at hend
  have hstart : x = f^[d] y := hinj.iterate hmaps (j + 1) (hx.trans_le hN) (hmaps.iterate d (hy.trans_le hN)) hend
  cases d with
  | zero => exact hstart
  | succ d => exact absurd hx (Nat.not_lt.2 (hstart ▸ hreturn.2 d (by omega)))

section walk
variable {seed e m s : Nat}

theorem cycleWalk_firstReturn {n y : Nat} (hreturn : ∃ k < n, (feistel seed e m)^[k + 1] y < s) :
    ∃ k, FirstReturn (feistel seed e m) s y k ∧ cycleWalk seed e m s n y = (feistel seed e m)^[k + 1] y := by
  induction n generalizing y with
  | zero => obtain ⟨k, hk, -⟩ := hreturn; omega
  | succ n ih =>
    by_cases hfirst : feistel seed e m y < s
    · exact ⟨0, ⟨hfirst, fun i hi => absurd hi (Nat.not_lt_zero i)⟩, if_pos hfirst⟩
    · obtain ⟨_ | k, hk, hbelow⟩ := hreturn
      · exact absurd hbelow hfirst
      · obtain ⟨r, ⟨hr, habove⟩, hwalk⟩ := ih ⟨k, by omega, hbelow⟩
        refine ⟨r + 1, ⟨hr, fun i hi => ?_⟩, (if_neg hfirst).trans hwalk⟩
        cases i with
        | zero => exact Nat.le_of_not_lt hfirst
        | succ i => exact habove i (by omega)

/-- As much fuel as the network has values is enough: a walk that has gone round its own cycle is back below `s`. -/
theorem cycleWalk_returns (hs : s ≤ 2 ^ (2 * m)) {y : Nat} (hy : y < s) :
    ∃ k, FirstReturn (feistel seed e m) s y k ∧ cycleWalk seed e m s (2 ^ (2 * m)) y = (feistel seed e m)^[k + 1] y := by
  obtain ⟨k, hk, hcycle⟩ := exists_iterate_eq_self (feistel_mapsTo seed e) (feistel_injOn seed e) (hy.trans_le hs)
  exact cycleWalk_firstReturn ⟨k, hk, by rwa [hcycle]⟩

theorem cycleWalk_mapsTo (hs : s ≤ 2 ^ (2 * m)) : Set.MapsTo (cycleWalk seed e m s (2 ^ (2 * m))) (Set.Iio s) (Set.Iio s) := by
  intro y hy
  obtain ⟨k, ⟨hbelow, -⟩, hwalk⟩ := cycleWalk_returns (seed := seed) (e := e) hs hy
  exact hwalk.trans_lt hbelow

theorem cycleWalk_injOn (hs : s ≤ 2 ^ (2 * m)) : Set.InjOn (cycleWalk seed e m s (2 ^ (2 * m))) (Set.Iio s) := by
  intro x hx y hy h
  obtain ⟨j, hxreturn, hxwalk⟩ := cycleWalk_returns (seed := seed) (e := e) hs hx
  obtain ⟨k, hyreturn, hywalk⟩ := cycleWalk_returns (seed := seed) (e := e) hs hy
  rw [hxwalk, hywalk] at h
  obtain hjk | hkj := Nat.le_total j k
  · exact hyreturn.start_eq (feistel_mapsTo seed e) (feistel_injOn seed e) hs hx hy hjk h
  · exact (hxreturn.start_eq (feistel_mapsTo seed e) (feistel_injOn seed e) hs hy hx hkj h.symm).symm

end walk

/-! ### The draws of all generations -/

theorem permute_bijOn (seed s e : Nat) : Set.BijOn (permute seed s e) (Set.Iio s) (Set.Iio s) :=
  ((Set.finite_Iio s).injOn_iff_bijOn_of_mapsTo (cycleWalk_mapsTo (le_two_pow_feistelWidth s))).1 (cycleWalk_injOn (le_two_pow_feistelWidth s))

/-- A permutation of the slots in each generation reaches every number at one position of that number's generation. -/
theorem existsUnique_position {s : Nat} {p : Nat → Nat → Nat} (hs : 0 < s) (hp : ∀ e, Set.BijOn (p e) (Set.Iio s) (Set.Iio s)) (q : Nat) :
    ∃! n, n / s * s + p (n / s) (n % s) = q := by
  have hmem (e : Nat) {i : Nat} (hi : i < s) : p e i < s := (hp e).mapsTo hi
  have hiff (e : Nat) {i : Nat} (hi : i < s) : e * s + p e i = q ↔ q / s = e ∧ q % s = p e i := by
    rw [Nat.div_mod_unique hs, Nat.mul_comm e, Nat.add_comm]
    exact (and_iff_left (hmem e hi)).symm
  obtain ⟨i, hi, hpi⟩ := (hp (q / s)).surjOn (Nat.mod_lt q hs)
  have hi : i < s := hi
  obtain ⟨hdiv, hmod⟩ := (Nat.div_mod_unique (a := i + s * (q / s)) hs).2 ⟨rfl, hi⟩
  refine ⟨i + s * (q / s), ?_, fun n hn => ?_⟩
  · simp only [hdiv, hmod]
    exact (hiff _ hi).2 ⟨rfl, hpi.symm⟩
  · obtain ⟨hgen, hslot⟩ := (hiff _ (Nat.mod_lt n hs)).1 hn
    rw [← hgen] at hslot
    have hpos : n % s = i := (hp (q / s)).injOn (Nat.mod_lt n hs) hi (hslot.symm.trans hpi.symm)
    rw [← Nat.mod_add_div n s, ← hgen, hpos]

/-! ### The obligation -/

/-- Settles O60: the walk over the Feistel network permutes the slots of each generation. -/
theorem drawsPermuteTheReservoir : Obligations.DrawsPermuteTheReservoir := by
  unfold Obligations.DrawsPermuteTheReservoir
  intro seed slots hslots
  exact ⟨fun e _ hi => (permute_bijOn seed slots e).mapsTo hi, existsUnique_position hslots (permute_bijOn seed slots)⟩

end Sys2Proof.Machine
end

section
/-! PROOFS. The device while its clocks are held: in reset, stopped by a thermal trip or frozen (R460, R462, R483, R484, R488, R505). -/

namespace Sys2Proof.Machine

open Sys2Proof

/-! ### What is closed while the clocks are held -/

/-- The clocks do not run: a reset pin is asserted, a thermal trip has stopped them, or a freeze holds them (R460, R483, R505). -/
def State.clocksHeld (s : State) : Prop := s.clk.inReset = true ∨ s.clk.tripped = true ∨ s.dbg.frozen = true

section closed
variable {s : State} (h : s.clocksHeld)
include h

theorem State.clocked_of_held : s.clocked = false := by
  obtain h | h | h := h <;> simp [State.clocked, h]

theorem State.ticking_of_held : s.ticking = false := by
  obtain h | h | h := h <;> simp [State.ticking, h]

theorem State.live_of_held : s.live = false := by
  obtain h | h | h := h <;> simp [State.live, h]

theorem State.regsOpen_of_held : s.regsOpen = false := by
  obtain h | h | h := h <;> simp [State.regsOpen, h]

theorem State.inboxOpen_of_held : s.inboxOpen = false := by
  obtain h | h | h := h <;> simp [State.inboxOpen, h]

theorem State.spdmOpen_of_held : s.spdmOpen = false := by
  obtain h | h | h := h <;> simp [State.spdmOpen, h]

theorem State.acting_of_held (c : CoreId) : s.acting c = none := by
  simp [State.acting, State.ticking_of_held h]

theorem State.current_of_held (c : CoreId) : s.current c = none := by
  simp [State.current, State.ticking_of_held h]

theorem State.currentIs_of_held (c : CoreId) (op : AkiOp) : s.currentIs c op = none := by
  simp [State.currentIs, State.current_of_held h]

theorem State.currentRun_of_held (c : CoreId) (op : AkiOp) : s.currentRun c op = none := by
  simp [State.currentRun, State.current_of_held h]

theorem State.runTransfer_of_held (c : CoreId) (op : AkiOp) (f : Cur → State) : s.runTransfer c op f = s := by
  simp [State.runTransfer, State.currentIs_of_held h]

theorem State.gradOn_of_held (n : CtxId) (f : Ctx → GradConfigP → State) : s.gradOn n f = s := by
  simp [State.gradOn, State.ticking_of_held h]

theorem State.outerLoop_of_held (c : CoreId) (p : OuterP) (flt : Option ArrayFault) (n i : Nat) : s.outerLoop c p flt n i = s := by
  cases n <;> simp [State.outerLoop, State.currentIs_of_held h]

theorem State.stylusLoop_of_held (c : CoreId) (p : StylusP) (n : Nat) : s.stylusLoop c p n = s := by
  cases n <;> simp [State.stylusLoop, State.currentIs_of_held h]

theorem State.vecLoop_of_held (c : CoreId) (p : VecP) (n : Nat) : s.vecLoop c p n = s := by
  cases n <;> simp [State.vecLoop, State.currentIs_of_held h]

theorem State.gatherLoop_of_held (c : CoreId) (p : GatherP) (n : Nat) : s.gatherLoop c p n = s := by
  cases n <;> simp [State.gatherLoop, State.currentIs_of_held h]

theorem State.rowLoop_of_held (c : CoreId) (p : RowP) (n : Nat) : s.rowLoop c p n = s := by
  cases n <;> simp [State.rowLoop, State.currentIs_of_held h]

theorem State.doorbell_of_held (w : DoorbellWrite) : s.doorbell w = s := by
  obtain h | h | h := h <;> simp [State.doorbell, h]

theorem State.freeze_of_held (src : FreezeSrc) : s.freeze src = s := by
  obtain h | h | h := h <;> simp [State.freeze, h]

end closed

/-! ### The rows that need the clocks -/

/-- The rows that the model serves although the clocks are held: resets and what surrounds start-up, sensors, ports that answer without the
device's clocks, the thaw, and the pin of the cascade. -/
def Instr.needsNoClock : Instr → Bool
  | .coldReset | .fundamentalReset | .startUp _ | .configReady | .configRequest _ _ | .thermalTrip _ _ | .stackOvertemp _ _ | .alertN _ _
  | .thaw _ | .readout _ _ _ | .i3cTelemetryRead _ _ | .telSeqRead | .bar4Read _ _ _ | .registerWrite _ _ _ _ | .cascHatchRelease _ => true
  | _ => false

/-- Every other row leaves the state as it is while the clocks are held, unless it is an access that no window covers. -/
theorem exec_of_held {c : Instr} {s : State} (h : s.clocksHeld) (hc : Instr.needsNoClock c = false) :
    exec c s = .next s ∨ exec c s = .fault .noSuchAddress := by
  have hlive := State.live_of_held h
  have hticking := State.ticking_of_held h
  have hclocked := State.clocked_of_held h
  have hregs := State.regsOpen_of_held h
  have hinbox := State.inboxOpen_of_held h
  have hfour : (!s.clk.booted || s.clk.inReset || s.clk.tripped || s.dbg.frozen) = true := by obtain h | h | h := h <;> simp [h]
  cases c
  case coldReset | fundamentalReset | startUp | configReady | configRequest | thermalTrip | stackOvertemp | alertN | thaw | readout
      | i3cTelemetryRead | telSeqRead | bar4Read | registerWrite | cascHatchRelease => cases hc
  -- The commands of the host's rings.
  case nop | fence | query | timestamp | ctxCreate | ctxDestroy | ctxResume | map | copy | fill | ageScan | evict | resumeFault | execProgram
      | stopAt | barrierConfig | ringMap | counterSet | gradConfig | cascadeConfig | ingestOpen | ingestFeed | ingestClose | tileFormat
      | shuffleConfig | shuffleSeek | impressionTake | impressionRestore | dieFence | faultLogRead | partnerSet | sealOpen | sealLoad | sealClose
      | fwStage | debugUnlock | powerPolicy | telemetryRead | selfTest => exact .inl (congrArg _ (State.host1_dead hlive))
  case ctxRun | ctxPreempt | ringConfig | dieReset | fwActivate => exact .inl (congrArg _ (State.hostLong_dead hlive))
  case unmap => exact .inl (congrArg _ (State.host2_dead hlive))
  case ringError | eventBacklogFlush => exact .inl (congrArg _ (if_neg (by simp [hlive])))
  case commandFetch => exact .inl (congrArg Host.Outcome.next (by simp [hlive]; split <;> rfl))
  -- The windows of the functions, BAR 0 and the mailbox.
  case doorbellSqTail w | doorbellCqHead w | doorbellEventHead w =>
    by_cases hw : s.bellExists w = true
    · exact .inl ((if_pos hw).trans (congrArg _ (State.doorbell_of_held h w)))
    · exact .inr (if_neg hw)
  case ifaceNegotiate f v =>
    by_cases hf : s.funcEnabled f.val = true
    · exact .inl ((if_pos hf).trans (congrArg _ (if_neg (by simp [hregs]))))
    · exact .inr (if_neg hf)
  case bar4Write f off bs =>
    by_cases hf : s.bar4Exists f.val off bs.length = true
    · refine .inl ((if_neg (by simp [hf])).trans (congrArg Host.Outcome.next (if_pos ?_)))
      obtain h | h | h := h <;> simp [State.bar4Open, h]
    · exact .inr (if_pos (by simp [hf]))
  case bar4WinLo | intEnable | adminRingEnable | adminRingDisable | memConfigWrite | relock | latch | clearPeak | dbgCopyGo | histSel | telLatch
      | warmReset => exact .inl (congrArg _ (if_neg (by simp [hregs])))
  case flr => exact .inl (congrArg _ (if_pos (by simp [hregs])))
  case freezeReq src => exact .inl (congrArg Host.Outcome.next (by rw [State.freeze_of_held h, ite_self]))
  case snapshotCopyEnd => exact .inl (congrArg _ (if_pos (by obtain h | h | h := h <;> simp [h])))
  case atsInvalidation => exact .inl (congrArg _ (if_pos (by obtain h | h | h := h <;> simp [h])))
  case getVersion | getCapabilities | negotiateAlgorithms | getDigests | getCertificate | challenge | getMeasurements | keyExchange | finish
      | heartbeat | keyUpdate | endSession | vendorDefinedRequest =>
        exact .inl (congrArg Host.Outcome.next (if_pos (by simp [State.spdmOpen_of_held h])))
  -- Start-up, power and reliability.
  case hbmReady | operational => exact .inl (congrArg _ (if_pos (by obtain h | h | h := h <;> simp [h])))
  case feedLoss | clockFailure => exact .inl (congrArg _ (if_pos (by obtain h | h | h := h <;> simp [State.powered, h])))
  case avsTrim | powerMeasure | controlInterval => exact .inl (congrArg _ (if_pos (by obtain h | h | h := h <;> simp [State.managing, h])))
  case thermalRation => exact .inl (congrArg _ (if_neg (by obtain h | h | h := h <;> simp [State.sensing, h])))
  case frameScrub | classFFault | voidRangeDrop => exact .inl (congrArg _ (if_pos hfour))
  case faultSelfTest => exact .inl (congrArg _ (if_pos (by simp [hfour])))
  -- The operations of the cores.
  case dispatch c _ | barrier c _ | waitTimeout c _ _ | powerLend c | powerReclaim c =>
    exact .inl (congrArg Host.Outcome.next (by simp only [State.acting_of_held h]))
  case wetLineClear | drawSlotFilled => exact .inl (congrArg Host.Outcome.next (by simp only [State.current_of_held h]))
  case signal | wait | stopMark | bucketSend => exact .inl (congrArg Host.Outcome.next (by simp only [State.currentIs_of_held h]))
  case pull | preload => exact .inl (congrArg Host.Outcome.next (by simp only [State.currentRun_of_held h]))
  case outer | stylus =>
    refine .inl (congrArg Host.Outcome.next ?_)
    simp only [State.outerLoop_of_held h, State.stylusLoop_of_held h, State.currentIs_of_held h]
    split <;> simp_all
  case vec => exact .inl (congrArg _ (State.vecLoop_of_held h _ _ _))
  case gradGather => exact .inl (congrArg _ (State.gatherLoop_of_held h _ _ _))
  case row => exact .inl (congrArg _ (State.rowLoop_of_held h _ _ _))
  case move | mcast | atomicAdd | stashPush | stashPop | clipDraw => exact .inl (congrArg _ (State.runTransfer_of_held h _ _ _))
  -- What goes on inside the device.
  case operationEnd | operationCompletion | signalArrival | hatchRelease | cascHeartbeat | cascHeartbeatLoss | ingestJobStart | pictureOutput
      | ingestJobEnd | clipReady | clipFilled | quiesce | patrolScrub => exact .inl (congrArg _ (if_pos (by simp [hticking])))
  case farTierTileFail => exact .inl (congrArg _ (if_neg (by simp [hclocked])))
  case tagGrant | farTierTimeout | farFlushReturn | packetArrival | rasterSlot | transferCompletionAck | mcastMemberAck | adderTileArrival
      | adderResend | pcieReadCompletion | tagRelease => exact .inl (congrArg _ (if_pos (by simp [hclocked])))
  case bucketEnter | bucketComplete => exact .inl (congrArg _ (State.gradOn_of_held h _ _))
  case chainPacket | shardSumsqArrival => exact .inl (congrArg Host.Outcome.next (by simp only [State.gradOn_of_held h]; split <;> rfl))
  case cascInboxWrite => exact .inl (congrArg Host.Outcome.next (by simp only [hinbox]; split <;> simp))
  case cascMapArrival | cascRoundStart => exact .inl (congrArg _ (if_pos (by simp [hinbox])))

/-! ### The cascade's pin, which no clock gates -/

/-- A context in a cascade whose device has released the pin of channel 0. -/
def released : Ctx :=
  { Ctx.fresh with grad := { Grad.empty with casc := some ⟨⟨0, 0, 0, 2, [0, 0], 0, [0, 0]⟩, [1, 1], true, false, 0, 0, [], []⟩,
                                             pinReleased := [true, false, false, false] } }

/-- A state with that context as the running one, where the release of its pin is the next event. -/
def releasing (clk : Clock) (frozen : Bool) : State :=
  { State.reset with
    pending := [.cascHatchRelease 0], clk := clk, dbg := { Debug.reset with frozen := frozen },
    ctxs := [(0, released)], running := some 0 }

/-- The released pin of channel 0 of context 0. -/
def State.pinOf (s : State) : Bool := nthD false (s.ctxD 0).grad.pinReleased 0

theorem releasing_pinOf (clk : Clock) (frozen : Bool) : (releasing clk frozen).pinOf = true := rfl

theorem SameCompute.pinOf {s t : State} (h : SameCompute s t) : t.pinOf = s.pinOf := by
  simp only [State.pinOf, State.ctxD, State.ctx?, h.ctxs]

/-- The event takes the release whatever the clocks do. -/
theorem step_releasing (clk : Clock) (frozen : Bool) : ∃ t, step (releasing clk frozen) = .next t ∧ t.pinOf = false ∧ t.running = some 0 :=
  ⟨_, exec_cascHatchRelease_samples (s := { releasing clk frozen with pending := [] }) (chan := 0) rfl rfl rfl, rfl, rfl⟩

/-! ### The obligations -/

/-- Refutes O4. The statement is about every state with a reset pin asserted, also one with a running context in a cascade whose pin the device
has released: CASC_HATCH_RELEASE asks for no clock, so a step with it in front changes that context. -/
theorem not_heldInResetStaysHeld : ¬ Obligations.HeldInResetStaysHeld := by
  intro h
  obtain ⟨t, hstep, hpin, hrunning⟩ := step_releasing Clock.reset false
  obtain ⟨-, hsame | ⟨-, -, -, -, -, -, hnone⟩⟩ := h _ t ⟨rfl, by simp [releasing]⟩ hstep
  · cases hpin.symm.trans (hsame.pinOf.trans (releasing_pinOf _ _))
  · cases hrunning.symm.trans hnone

/-- Refutes O6. After a thermal trip the release of a pin of the cascade still changes the running context: CASC_HATCH_RELEASE asks for no
clock. -/
theorem not_trippedDeviceStaysStopped : ¬ Obligations.TrippedDeviceStaysStopped := by
  intro h
  obtain ⟨t, hstep, hpin, -⟩ := step_releasing { Clock.reset with inReset := false, tripped := true } false
  obtain ⟨hsame, -⟩ := h _ t ⟨rfl, rfl, by simp [releasing], by simp [releasing]⟩ hstep
  have hkept : t.pinOf = true := congrArg State.pinOf hsame
  cases hpin.symm.trans hkept

/-- Refutes O7. In a freeze the release of a pin of the cascade still changes the running context: CASC_HATCH_RELEASE asks for no clock, and is
not among the rows that the statement leaves out. -/
theorem not_frozenDeviceKeepsItsState : ¬ Obligations.FrozenDeviceKeepsItsState := by
  intro h
  obtain ⟨t, hstep, hpin, -⟩ := step_releasing { Clock.reset with inReset := false } true
  obtain ⟨-, hsame⟩ := h _ t ⟨rfl, rfl, by simp [releasing, Instr.actsFrozen]⟩ hstep
  cases hpin.symm.trans (hsame.pinOf.trans (releasing_pinOf _ _))

/-- Settles O5: both parts of the invariant are literals of the reset state. -/
theorem resetIsHeldInReset : Obligations.ResetIsHeldInReset := by
  unfold Obligations.ResetIsHeldInReset
  exact ⟨rfl, by simp [State.reset]⟩

/-- Settles O1: a step is its own definition on both kinds of queue. -/
theorem stepRunsTheFrontCommand : Obligations.StepRunsTheFrontCommand := by
  unfold Obligations.StepRunsTheFrontCommand
  exact ⟨fun c rest s h => by simp only [step, h], fun s h => by simp only [step, h]⟩

/-! ### What holds where the pin is not sampled -/

/-- The compute state, the clocks, the debug block and the queue are as before. -/
structure SameHeld (s t : State) : Prop extends SameCompute s t where
  clk : t.clk = s.clk
  dbg : t.dbg = s.dbg
  pending : t.pending = s.pending

theorem SameHeld.same (s : State) : SameHeld s s := by constructor <;> constructor <;> rfl
theorem SameHeld.send (s : State) (m : OutMsg) : SameHeld s (s.send m) := by constructor <;> constructor <;> rfl
theorem SameHeld.pw (s : State) (p : Power) : SameHeld s { s with pw := p } := by constructor <;> constructor <;> rfl
theorem SameHeld.modDie (s : State) (d : DieCode) (f : DieSt → DieSt) : SameHeld s (s.modDie d f) := by constructor <;> constructor <;> rfl
theorem SameHeld.setAlert (s : State) : SameHeld s s.setAlert := by constructor <;> constructor <;> rfl

theorem SameHeld.trans {s t u : State} (a : SameHeld s t) (b : SameHeld t u) : SameHeld s u := by
  obtain ⟨⟨a1, a2, a3, a4, a5, a6, a7⟩, a8, a9, a10⟩ := a
  obtain ⟨⟨b1, b2, b3, b4, b5, b6, b7⟩, b8, b9, b10⟩ := b
  exact ⟨⟨b1.trans a1, b2.trans a2, b3.trans a3, b4.trans a4, b5.trans a5, b6.trans a6, b7.trans a7⟩, b8.trans a8, b9.trans a9, b10.trans a10⟩

theorem SameHeld.modHost (s : State) (f : HostIf → HostIf) : SameHeld s (s.modHost f) := by constructor <;> constructor <;> rfl

theorem SameHeld.ite {p : Prop} [Decidable p] {s a b : State} (ha : SameHeld s a) (hb : SameHeld s b) : SameHeld s (if p then a else b) := by
  split <;> assumption

theorem SameHeld.of_next {c : Instr} {s t u : State} (ht : exec c s = .next t) (hu : exec c s = .next u) (h : SameHeld s u) : SameHeld s t := by
  cases ht.symm.trans hu
  exact h

theorem SameHeld.setTemp (s : State) (src : TempSrc) (degC : Nat) : SameHeld s (s.setTemp src degC) := by
  cases src with
  | die d => exact (SameHeld.modDie s d _).trans (SameHeld.pw _ _)
  | easel => exact SameHeld.pw s _
  | stack n => exact SameHeld.pw s _

theorem exec_alertN_same {s t : State} {src : TempSrc} {degC : Nat} (he : exec (.alertN src degC) s = .next t) : SameHeld s t := by
  refine SameHeld.of_next he rfl (.ite ((SameHeld.setTemp s src degC).trans ?_) (.same s))
  cases src with
  | die d => exact (SameHeld.modDie _ d _).trans (SameHeld.setAlert _)
  | easel => exact (SameHeld.pw _ _).trans (SameHeld.setAlert _)
  | stack n => exact SameHeld.same _

/-- In a freeze a row that neither ends it nor samples the cascade's pin leaves the compute state (R460, R462). -/
theorem exec_frozen {c : Instr} {s t : State} (hf : s.dbg.frozen = true) (hr : s.clk.inReset = false) (ha : Instr.actsFrozen c = false)
    (hpin : ∀ k, c ≠ .cascHatchRelease k) (he : exec c s = .next t) : SameHeld s t := by
  obtain hn | hn := Bool.eq_false_or_eq_true (Instr.needsNoClock c)
  case inr =>
    obtain h | h := exec_of_held (c := c) (.inr (.inr hf) : s.clocksHeld) hn
    · exact SameHeld.of_next he h (.same s)
    · cases he.symm.trans h
  cases c
  case thaw | registerWrite | configRequest | coldReset | fundamentalReset | thermalTrip => cases ha
  case cascHatchRelease k => exact absurd rfl (hpin k)
  case alertN => exact exec_alertN_same he
  case startUp => exact SameHeld.of_next he (congrArg Host.Outcome.next (if_pos (by simp [hr]))) (SameHeld.same s)
  case configReady => exact SameHeld.of_next he rfl (.ite (.same s) ((SameHeld.modHost s _).trans (.send _ _)))
  case stackOvertemp n degC =>
    refine SameHeld.of_next he rfl (.ite ?_ (.same s))
    rw [if_pos ((SameHeld.setTemp s (.stack n) degC).dbg ▸ hf)]
    exact SameHeld.setTemp s _ _
  case readout => exact SameHeld.of_next he rfl (.ite (.same s) (.send s _))
  case i3cTelemetryRead => exact SameHeld.of_next he rfl (.ite (.same s) (.send s _))
  case telSeqRead => exact SameHeld.of_next he rfl (.ite (.same s) (.ite (.send s _) ((SameHeld.pw s _).trans (.send _ _))))
  case bar4Read f off len =>
    by_cases hw : s.bar4Exists f.val off len = true
    · refine SameHeld.of_next he (if_neg (by simp [hw])) (.ite (.same s) ?_)
      rw [if_pos (by simp [State.bar4Open, hf])]
      exact SameHeld.send s _
    · cases he.symm.trans (if_pos (by simp [hw]))
  all_goals cases hn

/-- A step idles on an empty queue, or runs the command in front on the state with the rest of the queue. -/
theorem step_cases {s t : State} (hs : step s = .next t) :
    (s.pending = [] ∧ t = s) ∨ ∃ c rest, s.pending = c :: rest ∧ exec c { s with pending := rest } = .next t := by
  cases hp : s.pending with
  | nil => exact .inl ⟨rfl, Host.Outcome.next.inj (hs.symm.trans (by simp only [step, hp]))⟩
  | cons c rest => exact .inr ⟨c, rest, rfl, by simpa only [step, hp] using hs⟩

/-- O7 where no sampled pin waits: a step leaves the compute state, and the device stays frozen. -/
theorem step_heldFrozen {s t : State} (h : s.heldFrozen) (hpin : ∀ k, Instr.cascHatchRelease k ∉ s.pending) (hs : step s = .next t) :
    t.heldFrozen ∧ SameCompute s t := by
  obtain ⟨hf, hr, hacts⟩ := h
  obtain ⟨-, rfl⟩ | ⟨c, rest, hp, he⟩ := step_cases hs
  · exact ⟨⟨hf, hr, hacts⟩, (SameHeld.same t).toSameCompute⟩
  · rw [hp] at hacts hpin
    obtain ⟨⟨h1, h2, h3, h4, h5, h6, h7⟩, hclk, hdbg, hpending⟩ := exec_frozen (s := { s with pending := rest }) hf hr (hacts c List.mem_cons_self)
      (fun k hk => hpin k (hk ▸ List.mem_cons_self)) he
    exact ⟨⟨(congrArg Debug.frozen hdbg).trans hf, (congrArg Clock.inReset hclk).trans hr,
      fun d hd => hacts d (.tail c ((show t.pending = rest from hpending) ▸ hd))⟩, ⟨h1, h2, h3, h4, h5, h6, h7⟩⟩

/-- While a reset or a trip holds the clocks, outside a freeze, nothing acts but a reset, START_UP, CONFIG_READY after a trip, and the cascade's
pin (R483, R505). -/
theorem exec_unclocked {c : Instr} {s t : State} (h : s.clk.inReset = true ∨ s.clk.tripped = true ∧ s.host.configReady = true)
    (hf : s.dbg.frozen = false) (hcold : c ≠ .coldReset) (hfund : c ≠ .fundamentalReset) (hstart : ∀ e, c ≠ .startUp e)
    (hpin : ∀ k, c ≠ .cascHatchRelease k) (he : exec c s = .next t) : t = s := by
  have hheld : s.clocksHeld := h.elim .inl fun h => .inr (.inl h.1)
  suffices h : exec c s = .next s ∨ exec c s = .fault .noSuchAddress by
    obtain h | h := h <;> cases he.symm.trans h
    rfl
  obtain hn | hn := Bool.eq_false_or_eq_true (Instr.needsNoClock c)
  case inr => exact exec_of_held hheld hn
  cases c
  case coldReset => exact absurd rfl hcold
  case fundamentalReset => exact absurd rfl hfund
  case startUp e => exact absurd rfl (hstart e)
  case cascHatchRelease k => exact absurd rfl (hpin k)
  case configReady | configRequest | i3cTelemetryRead | telSeqRead =>
    exact .inl (congrArg Host.Outcome.next (if_pos (by obtain h | ⟨h, h'⟩ := h <;> simp [*])))
  case thermalTrip | stackOvertemp | alertN =>
    exact .inl (congrArg Host.Outcome.next (if_neg (by obtain h | ⟨h, -⟩ := h <;> simp [State.sensing, h])))
  case thaw => exact .inl (congrArg Host.Outcome.next (by simp [State.thaw, hf]))
  case readout => exact .inl (congrArg Host.Outcome.next (if_pos (by simp [hf])))
  case bar4Read f off len =>
    by_cases hw : s.bar4Exists f.val off len = true
    · exact .inl ((if_neg (by simp [hw])).trans (congrArg Host.Outcome.next (if_pos (by obtain h | ⟨h, -⟩ := h <;> simp [h]))))
    · exact .inr (if_pos (by simp [hw]))
  case registerWrite f off width v =>
    have hclosed : ∀ o w, s.hostWrite32 f o w = s := fun o w => by simp [State.hostWrite32, hf, State.regsOpen_of_held hheld]
    by_cases hw : (!s.funcEnabled f.val || decide ((if f = 0 then 2 ^ 26 else 2 ^ 16) ≤ off)) = true
    · exact .inr (if_pos hw)
    · exact .inl ((if_neg hw).trans (congrArg Host.Outcome.next (by simp only [hclosed, ite_self])))
  all_goals cases hn

/-- O6 where no sampled pin waits, configuration space is ready and no freeze holds the device as well. -/
theorem step_stopped {s t : State} (h : s.stopped) (hf : s.dbg.frozen = false) (hready : s.host.configReady = true)
    (hpin : ∀ k, Instr.cascHatchRelease k ∉ s.pending) (hs : step s = .next t) : t = { s with pending := s.pending.tail } ∧ t.stopped := by
  obtain ⟨htrip, hr, hcold, hfund⟩ := h
  obtain ⟨hp, rfl⟩ | ⟨c, rest, hp, he⟩ := step_cases hs
  · have htail : t.pending.tail = t.pending := by rw [hp]; rfl
    exact ⟨by rw [htail], htrip, hr, hcold, hfund⟩
  · have ht : t = { s with pending := rest } := by
      obtain ⟨e, rfl⟩ | hstart := em (∃ e, c = .startUp e)
      · exact Host.Outcome.next.inj (he.symm.trans (congrArg Host.Outcome.next (if_pos (by simp [hr]))))
      · exact exec_unclocked (.inr ⟨htrip, hready⟩) hf (fun h => hcold (by simp [hp, h])) (fun h => hfund (by simp [hp, h]))
          (fun e h => hstart ⟨e, h⟩) (fun k h => hpin k (by simp [hp, h])) he
    subst ht
    rw [hp] at hcold hfund
    exact ⟨by rw [hp]; rfl, htrip, hr, fun h => hcold (.tail c h), fun h => hfund (.tail c h)⟩

/-- O4 where no sampled pin waits and no freeze holds the device as well. -/
theorem step_heldInReset {s t : State} (h : s.heldInReset) (hf : s.dbg.frozen = false) (hpin : ∀ k, Instr.cascHatchRelease k ∉ s.pending)
    (hs : step s = .next t) : t.heldInReset ∧ (SameCompute s t ∨ (t.cores = State.reset.cores ∧ t.slices = State.reset.slices ∧ t.beds = State.reset.beds ∧
      t.hbm = State.reset.hbm ∧ t.fabric = State.reset.fabric ∧ t.ctxs = State.reset.ctxs ∧ t.running = none)) := by
  obtain ⟨hr, hstart⟩ := h
  obtain ⟨hp, rfl⟩ | ⟨c, rest, hp, he⟩ := step_cases hs
  · exact ⟨⟨hr, hstart⟩, .inl (SameHeld.same t).toSameCompute⟩
  · rw [hp] at hstart hpin
    have hrest : ∀ e, Instr.startUp e ∉ rest := fun e h => hstart e (.tail c h)
    by_cases hreset : c = .coldReset ∨ c = .fundamentalReset
    · obtain rfl | rfl := hreset <;> cases he <;> exact ⟨⟨rfl, hrest⟩, .inr ⟨rfl, rfl, rfl, rfl, rfl, rfl, rfl⟩⟩
    · have ht : t = { s with pending := rest } := exec_unclocked (.inl hr) hf (fun h => hreset (.inl h)) (fun h => hreset (.inr h))
        (fun e h => hstart e (h ▸ List.mem_cons_self)) (fun k h => hpin k (h ▸ List.mem_cons_self)) he
      subst ht
      exact ⟨⟨hr, hrest⟩, .inl (by constructor <;> rfl)⟩

end Sys2Proof.Machine
end

section
/-! PROOFS. Which commands can stop, and the small host commands: NOP, FENCE, TIMESTAMP, QUERY and FAULT_LOG_READ, with what the commands that
touch no core leave alone (R342, R352, R361, R362, R396, R436). -/

namespace Sys2Proof.Machine

open Sys2Proof

/-! ### Accesses that no window covers (R342) -/

/-- Whether a command is an access to an address that no window of its function covers, or of a function that is not enabled. -/
def Instr.misses (s : State) : Instr → Bool
  | .doorbellSqTail w | .doorbellCqHead w | .doorbellEventHead w => !s.bellExists w
  | .ifaceNegotiate k _ => !s.funcEnabled k.val
  | .registerWrite k off _ _ => !s.funcEnabled k.val || decide ((if k = 0 then 2 ^ 26 else 2 ^ 16) ≤ off)
  | .bar4Read k off len => !s.bar4Exists k.val off len
  | .bar4Write k off bs => !s.bar4Exists k.val off bs.length
  | _ => false

/-- Such an access stops, and every other command answers a next state. -/
theorem exec_eq_fault_or_next (c : Instr) (s : State) :
    if Instr.misses s c = true then exec c s = .fault .noSuchAddress else ∃ t, exec c s = .next t := by
  cases c
  case doorbellSqTail w | doorbellCqHead w | doorbellEventHead w =>
    cases h : s.bellExists w with
    | false => rw [if_pos (by simp [Instr.misses, h])]; exact if_neg (by simp [h])
    | true => rw [if_neg (by simp [Instr.misses, h])]; exact ⟨_, if_pos h⟩
  case ifaceNegotiate k v =>
    cases h : s.funcEnabled k.val with
    | false => rw [if_pos (by simp [Instr.misses, h])]; exact if_neg (by simp [h])
    | true => rw [if_neg (by simp [Instr.misses, h])]; exact ⟨_, if_pos h⟩
  case registerWrite k off width v =>
    split
    case isTrue h => exact if_pos h
    case isFalse h => exact ⟨_, if_neg h⟩
  case bar4Read k off len =>
    split
    case isTrue h => exact if_pos h
    case isFalse h => exact ⟨_, if_neg h⟩
  case bar4Write k off bs =>
    split
    case isTrue h => exact if_pos h
    case isFalse h => exact ⟨_, if_neg h⟩
  all_goals exact ⟨_, rfl⟩

/-- Settles O2: a command stops exactly where it misses every window (`exec_eq_fault_or_next`). -/
theorem nothingRefusesAndOnlyWindowsStop : Obligations.NothingRefusesAndOnlyWindowsStop := by
  unfold Obligations.NothingRefusesAndOnlyWindowsStop
  intro c s
  have hexec := exec_eq_fault_or_next c s
  cases hm : Instr.misses s c with
  | false =>
    obtain ⟨t, ht⟩ : ∃ t, exec c s = .next t := by simpa only [hm, Bool.false_eq_true, if_false] using hexec
    exact ⟨fun r hr => (by cases ht.symm.trans hr), fun f hf => (by cases ht.symm.trans hf)⟩
  | true =>
    have hf : exec c s = .fault .noSuchAddress := by simpa only [hm, if_true] using hexec
    refine ⟨fun r hr => (by cases hf.symm.trans hr), ?_⟩
    cases c
    case doorbellSqTail w => exact fun _ _ => .inl ⟨w, .inl rfl, by simpa [Instr.misses] using hm⟩
    case doorbellCqHead w => exact fun _ _ => .inl ⟨w, .inr (.inl rfl), by simpa [Instr.misses] using hm⟩
    case doorbellEventHead w => exact fun _ _ => .inl ⟨w, .inr (.inr rfl), by simpa [Instr.misses] using hm⟩
    case ifaceNegotiate k v => exact fun _ _ => .inr (.inl ⟨k, v, rfl, by simpa [Instr.misses] using hm⟩)
    case registerWrite k off width v => exact fun _ _ => .inr (.inr (.inl ⟨k, off, width, v, rfl, by simpa [Instr.misses] using hm⟩))
    case bar4Read k off len => exact fun _ _ => .inr (.inr (.inr (.inl ⟨k, off, len, rfl, by simpa [Instr.misses] using hm⟩)))
    case bar4Write k off bs => exact fun _ _ => .inr (.inr (.inr (.inr ⟨k, off, bs, rfl, by simpa [Instr.misses] using hm⟩)))
    all_goals cases hm

/-! ### NOP, FENCE and TIMESTAMP (R352, R361, R362) -/

/-- Settles O8: each of them is its completion once it starts. -/
theorem simpleCommandsComplete : Obligations.SimpleCommandsComplete := by
  unfold Obligations.SimpleCommandsComplete
  exact fun h all s => ⟨fun hs => congrArg _ (State.host1_starts hs), fun hs => congrArg _ (State.host1_starts hs),
    fun hs => congrArg _ (State.host1_starts hs)⟩

/-! ### QUERY (R362, R396) -/

section query
variable {h : CmdHdr} {p : QueryP} {s : State} (hs : s.starts h (.query p))
include hs

theorem exec_query_summary (hi : p.item = 0) : exec (.query h p) s = .next (s.report h p.buffer p.length s.deviceSummary) := by
  refine congrArg _ ((State.host1_starts hs).trans ?_)
  simp only [hi]

theorem exec_query_context (hi : p.item = 1) :
    exec (.query h p) s = .next (s.report h p.buffer p.length (s.contextReport (ctxOf p.ctx))) := by
  refine congrArg _ ((State.host1_starts hs).trans ?_)
  simp only [hi]

theorem exec_query_ring {x : Ring} (hi : p.item = 2) (hx : s.host.ring? (ctxOf p.ctx) (Fin.ofNat 64 p.ring) = some x) :
    exec (.query h p) s = .next (s.report h p.buffer p.length (ringReport (ctxOf p.ctx) (Fin.ofNat 64 p.ring) x)) := by
  have hx' : s.host.ring? (ctxOf p.ctx) ⟨p.ring % 64, Nat.mod_lt _ (by decide)⟩ = some x := hx
  refine congrArg _ ((State.host1_starts hs).trans ?_)
  simp only [hi, hx']
  rfl

theorem exec_query_noRing (hi : p.item = 2) (hx : s.host.ring? (ctxOf p.ctx) (Fin.ofNat 64 p.ring) = none) :
    exec (.query h p) s = .next (s.complete h .badContext 0) := by
  have hx' : s.host.ring? (ctxOf p.ctx) ⟨p.ring % 64, Nat.mod_lt _ (by decide)⟩ = none := hx
  refine congrArg _ ((State.host1_starts hs).trans ?_)
  simp only [hi, hx']

end query

/-- Settles O11: every report is `State.report` of the item named. -/
theorem queryReports : Obligations.QueryReports := by
  unfold Obligations.QueryReports
  intro h p s hs cut reported
  exact ⟨exec_query_summary hs, exec_query_context hs, fun x hi _ hx => exec_query_ring hs hi hx, fun hi _ hx => exec_query_noRing hs hi hx⟩

/-! ### FAULT_LOG_READ (R436) -/

/-- Whether a FAULT_LOG_READ with an identifier asks for a record: the one of that identifier, or with 0 one that is unread. -/
def FaultRec.asked (id : Nat) (r : FaultRec) : Bool := if id = 0 then !r.read else r.id == id

/-- A fault log with a record marked read. -/
def FaultLog.markRead (l : FaultLog) (r : FaultRec) : FaultLog := { l with recs := l.recs.map fun e => if e = r then { e with read := true } else e }

section faultLogRead
variable {h : CmdHdr} {p : FaultLogReadP} {s : State} (hs : s.starts h (.faultLogRead p))
include hs

theorem exec_faultLogRead_absent (hr : s.log.recs.find? (FaultRec.asked p.faultId) = none) :
    exec (.faultLogRead h p) s = .next (s.complete h (if p.faultId = 0 then .done else .badLength) 0) := by
  refine congrArg _ ((State.host1_starts hs).trans ?_)
  rw [show (fun r : FaultRec => if p.faultId = 0 then !r.read else r.id == p.faultId) = FaultRec.asked p.faultId from rfl, hr]

theorem exec_faultLogRead_copies {r : FaultRec} (hr : s.log.recs.find? (FaultRec.asked p.faultId) = some r) :
    exec (.faultLogRead h p) s = .next (({ s with log := s.log.markRead r } : State).report h p.buffer p.length (r.header ++ r.body.flatten)) := by
  refine congrArg _ ((State.host1_starts hs).trans ?_)
  rw [show (fun r : FaultRec => if p.faultId = 0 then !r.read else r.id == p.faultId) = FaultRec.asked p.faultId from rfl, hr]
  rfl

end faultLogRead

/-- Settles O12: the record found in the log decides. -/
theorem faultLogReadCopiesOneRecord : Obligations.FaultLogReadCopiesOneRecord := by
  unfold Obligations.FaultLogReadCopiesOneRecord
  intro h p s hs
  refine ⟨fun h0 hread => ?oldest, fun h0 habsent => ?unknown, fun older r newer hrecs hfirst => ?found⟩
  case oldest =>
    have hnone : s.log.recs.find? (FaultRec.asked p.faultId) = none :=
      List.find?_eq_none.mpr fun r hr => by simp [FaultRec.asked, h0, hread r hr]
    rw [exec_faultLogRead_absent hs hnone, if_pos h0]
  case unknown =>
    have hnone : s.log.recs.find? (FaultRec.asked p.faultId) = none :=
      List.find?_eq_none.mpr fun r hr => by simp [FaultRec.asked, h0, habsent r hr]
    rw [exec_faultLogRead_absent hs hnone, if_neg h0]
  case found =>
    refine exec_faultLogRead_copies hs (List.find?_eq_some_iff_append.mpr ?_)
    obtain ⟨h0, hr, hold⟩ | ⟨h0, hr, hold⟩ := hfirst
    · exact ⟨by simp [FaultRec.asked, h0, hr], older, newer, hrecs, fun e he => by simp [FaultRec.asked, h0, hold e he]⟩
    · exact ⟨by simp [FaultRec.asked, h0, hr], older, newer, hrecs, fun e he => by simp [FaultRec.asked, h0, hold e he]⟩

/-! ### The commands that touch no core -/

/-- The cores, the dies and the blocks beside the host interface are as before, and so are the queue and which context runs. -/
structure SameEngines (s t : State) : Prop where
  cores : t.cores = s.cores
  slices : t.slices = s.slices
  beds : t.beds = s.beds
  fabric : t.fabric = s.fabric
  media : t.media = s.media
  dies : t.dies = s.dies
  pw : t.pw = s.pw
  sec : t.sec = s.sec
  clk : t.clk = s.clk
  pins : t.pins = s.pins
  dbg : t.dbg = s.dbg
  pending : t.pending = s.pending
  running : t.running = s.running
  fuses : t.fuses = s.fuses

theorem SameEngines.same (s : State) : SameEngines s s := by constructor <;> rfl

theorem SameEngines.ofBlock {s t : State} (h : SameBlock s t) : SameEngines s t :=
  ⟨h.cores, h.slices, h.beds, h.fabric, h.media, h.dies, h.pw, h.sec, h.clk, h.pins, h.dbg, h.pending, h.running, h.fuses⟩

theorem SameEngines.trans {s t u : State} (a : SameEngines s t) (b : SameEngines t u) : SameEngines s u := by
  obtain ⟨a1, a2, a3, a4, a5, a6, a7, a8, a9, a10, a11, a12, a13, a14⟩ := a
  obtain ⟨b1, b2, b3, b4, b5, b6, b7, b8, b9, b10, b11, b12, b13, b14⟩ := b
  constructor <;> simp [*]

theorem SameEngines.ite {p : Prop} [Decidable p] {s a b : State} (ha : SameEngines s a) (hb : SameEngines s b) :
    SameEngines s (if p then a else b) := by
  split <;> assumption

theorem SameEngines.putCtx (s : State) (n : CtxId) (x : Ctx) : SameEngines s (s.putCtx n x) := by constructor <;> rfl

theorem SameEngines.complete (s : State) (h : CmdHdr) (st : Status) (progress fid : Nat) : SameEngines s (s.complete h st progress fid) :=
  .ofBlock (s.complete_frame h st progress fid)

theorem SameEngines.busy (s : State) (h : CmdHdr) : SameEngines s (s.busy h) := .ofBlock (SameBlock.draw.trans (State.complete_frame _ _ _ _ _))

theorem SameEngines.report (s : State) (h : CmdHdr) (buffer length : Nat) (bs : List Byte) : SameEngines s (s.report h buffer length bs) :=
  .ofBlock (s.report_frame h buffer length bs)

/-- A context stored, and the command's completion. -/
theorem SameEngines.stored (s : State) (n : CtxId) (x : Ctx) (h : CmdHdr) (st : Status) : SameEngines s ((s.putCtx n x).complete h st) :=
  (SameEngines.putCtx s n x).trans (.complete _ h st 0 0)

/-- The gate of a host command adds only completions to what its body does. -/
theorem SameEngines.host1 {s : State} (h : CmdHdr) (c : HostCmd) {body : State → State} (hbody : SameEngines s (body s)) :
    SameEngines s (s.host1 h c body) := by
  unfold State.host1 State.gate
  refine .ite ?_ (.same s)
  rw [if_neg Bool.false_ne_true]
  exact .ite (.complete s _ _ _ _) (.ite (.busy s h) hbody)

theorem SameEngines.onCtx {s : State} (h : CmdHdr) (k : Nat) {f : CtxId → Ctx → State} (hf : ∀ x, SameEngines s (f (ctxOf k) x)) :
    SameEngines s (s.onCtx h k f) := by
  unfold State.onCtx
  split
  · exact hf _
  · exact .complete s _ _ _ _

theorem SameEngines.sealPages (s : State) (n : CtxId) (x : Ctx) (ps : List Page) : SameEngines s (s.sealPages n x ps) :=
  .ite (.same s) (.ofBlock (SameBlock.modHbm _))

theorem SameEngines.of_next {c : Instr} {s t u : State} (ht : exec c s = .next t) (hu : exec c s = .next u) (h : SameEngines s u) :
    SameEngines s t := by
  cases ht.symm.trans hu
  exact h

section frames
variable {h : CmdHdr} {s t : State}

theorem exec_query_frame {p : QueryP} (he : exec (.query h p) s = .next t) : SameEngines s t := by
  refine .of_next he rfl (.host1 h _ ?_)
  dsimp only
  split
  · exact .report s h _ _ _
  · exact .report s h _ _ _
  · split
    · exact .report s h _ _ _
    · exact .complete s _ _ _ _
  · exact .complete s _ _ _ _

theorem exec_faultLogRead_frame {p : FaultLogReadP} (he : exec (.faultLogRead h p) s = .next t) : SameEngines s t := by
  refine .of_next he rfl (.host1 h _ ?_)
  dsimp only
  split
  · exact .complete s _ _ _ _
  · exact (show SameEngines s { s with log := _ } by constructor <;> rfl).trans (.report _ h _ _ _)

theorem exec_map_frame {p : MapP} (he : exec (.map h p) s = .next t) : SameEngines s t := by
  refine .of_next he rfl (.host1 h _ (.onCtx h _ fun x => ?_))
  have hlock : SameEngines s (s.modHbm fun m => { m with locked := true }) := .ofBlock (SameBlock.modHbm _)
  refine .ite (hlock.trans (.complete _ _ _ _ _)) ?_
  split
  · exact hlock.trans (.complete _ _ _ _ _)
  · exact hlock.trans ((SameEngines.putCtx _ _ _).trans ((SameEngines.sealPages _ _ _ _).trans (.complete _ _ _ _ _)))

theorem exec_tileFormat_frame {p : TileFormatP} (he : exec (.tileFormat h p) s = .next t) : SameEngines s t := by
  refine .of_next he rfl (.host1 h _ (.onCtx h _ fun x => .ite (.complete s _ _ _ _) ?_))
  split
  · exact .complete s _ _ _ _
  · exact .ite (.complete s _ _ _ _) (.ite (.busy s h) (.stored s _ _ _ _))

end frames

/-- Settles O16: each of the commands is a completion of the state with at most a context stored, the fault log marked or HBM's accounting
changed. -/
theorem hostCommandsKeepTheCores : Obligations.HostCommandsKeepTheCores := by
  unfold Obligations.HostCommandsKeepTheCores
  intro h s t ⟨c, hc, he⟩
  have hframe : SameEngines s t := by
    obtain rfl | ⟨a, rfl⟩ | ⟨p, rfl⟩ | rfl | ⟨p, rfl⟩ | ⟨p, rfl⟩ | ⟨p, rfl⟩ | ⟨p, rfl⟩ | ⟨p, rfl⟩ | ⟨p, rfl⟩ | ⟨p, rfl⟩ | ⟨p, rfl⟩ | ⟨p, rfl⟩ := hc
    · exact .of_next he rfl (.host1 h _ (.complete s _ _ _ _))
    · exact .of_next he rfl (.host1 h _ (.complete s _ _ _ _))
    · exact exec_query_frame he
    · exact .of_next he rfl (.host1 h _ (.ofBlock (SameBlock.stamp.trans (State.complete_frame _ _ _ _ _))))
    · exact .of_next he rfl (.host1 h _ (.onCtx h _ fun x => .ite (.busy s h) (.stored s _ _ _ _)))
    · exact .of_next he rfl (.host1 h _ (.onCtx h _ fun x =>
        .ite (.busy s h) (.ite (.complete s _ _ _ _) (.ite (.complete s _ _ _ _) (.stored s _ _ _ _)))))
    · exact .of_next he rfl (.host1 h _ (.onCtx h _ fun x =>
        .ite (.busy s h) (.ite (.complete s _ _ _ _) (.ite (.complete s _ _ _ _) (.stored s _ _ _ _)))))
    · exact .of_next he rfl (.host1 h _ (.onCtx h _ fun x => .ite (.complete s _ _ _ _) (.ite (.busy s h) (.stored s _ _ _ _))))
    · exact exec_tileFormat_frame he
    · exact .of_next he rfl (.host1 h _ (.onCtx h _ fun x => .ite (.complete s _ _ _ _) (.ite (.busy s h) (.ite (.complete s _ _ _ _)
        (.ite (.complete s _ _ _ _) (.ite (.complete s _ _ _ _) (.stored s _ _ _ _)))))))
    · exact exec_map_frame he
    · exact exec_faultLogRead_frame he
    · exact .of_next he rfl (.host1 h _ (.onCtx h _ fun x => .ite (.complete s _ _ _ _) (.ite (.complete s _ _ _ _)
        (.ite (.complete s _ _ _ _) (.stored s _ _ _ _)))))
  obtain ⟨h1, h2, h3, h4, h5, h6, h7, h8, h9, h10, h11, h12, h13, h14⟩ := hframe
  exact ⟨h1, h2, h3, h4, h5, h6, h7, h8, h9, h10, h11, h12, h13, h14⟩

end Sys2Proof.Machine
end

section
/-! PROOFS. Completion records and their messages (R356 to R358). -/

namespace Sys2Proof.Machine

open Sys2Proof

/-! ### Fields of a record (R8) -/

theorem leNat_zeros (n : Nat) : leNat (zeros n) = 0 := by
  induction n with
  | zero => rfl
  | succ n ih => exact (congrArg (fun k => 0 + 256 * k) ih)

theorem length_putAt {bs v : List Byte} {off : Nat} (h : off + v.length ≤ bs.length) : (putAt bs off v).length = bs.length := by
  simp only [putAt, List.length_append, List.length_take, List.length_drop]
  omega

theorem fieldAt_putAt_same {bs v : List Byte} {off : Nat} (h : off ≤ bs.length) : fieldAt (putAt bs off v) off v.length = leNat v := by
  have hlen : (bs.take off).length = off := List.length_take_of_le h
  rw [fieldAt, putAt, List.append_assoc, List.drop_append_of_le_length (by rw [hlen]), List.drop_eq_nil_of_le (by rw [hlen]), List.nil_append,
    List.take_left]

/-- Bytes put beside a field leave it. -/
theorem fieldAt_putAt_other {bs v : List Byte} {off o k : Nat} (h : off ≤ bs.length) (hbeside : off + v.length ≤ o ∨ o + k ≤ off) :
    fieldAt (putAt bs off v) o k = fieldAt bs o k := by
  have hlen : (bs.take off ++ v).length = off + v.length := by simp [h]
  obtain hbeside | hbeside := hbeside
  · rw [fieldAt, putAt, List.drop_append, List.drop_eq_nil_of_le (hlen ▸ hbeside), hlen, List.drop_drop, List.nil_append,
      Nat.add_sub_cancel' hbeside]
    rfl
  · have htake : (bs.take off).length = off := List.length_take_of_le h
    rw [fieldAt, putAt, List.append_assoc, List.drop_append_of_le_length (by omega), List.take_append_of_le_length (by rw [List.length_drop]; omega),
      List.drop_take, List.take_take, Nat.min_eq_left (by omega)]
    rfl

/-- The bytes `bs` with the fields of a list put in. -/
def putFields (bs : List Byte) (fs : List (Nat × Nat × Nat)) : List Byte := fs.foldl (fun r f => putAt r f.1 (leBytes f.2.1 f.2.2)) bs

/-- Fields within the bytes, beside the field in question, leave the length and that field. -/
theorem putFields_beside {o k : Nat} {fs : List (Nat × Nat × Nat)} : ∀ {bs : List Byte}, (∀ f ∈ fs, f.1 + f.2.1 ≤ bs.length) →
    (putFields bs fs).length = bs.length ∧
      ((∀ f ∈ fs, f.1 + f.2.1 ≤ o ∨ o + k ≤ f.1) → fieldAt (putFields bs fs) o k = fieldAt bs o k) := by
  induction fs with
  | nil => exact fun _ => ⟨rfl, fun _ => rfl⟩
  | cons f fs ih =>
    intro bs hin
    obtain ⟨hf, hfs⟩ := List.forall_mem_cons.mp hin
    have hput : (putAt bs f.1 (leBytes f.2.1 f.2.2)).length = bs.length := length_putAt (by simpa using hf)
    obtain ⟨hlen, hfield⟩ := ih (bs := putAt bs f.1 (leBytes f.2.1 f.2.2)) (by rwa [hput])
    refine ⟨hlen.trans hput, fun hbeside => ?_⟩
    obtain ⟨hb, hbs⟩ := List.forall_mem_cons.mp hbeside
    exact (hfield hbs).trans (fieldAt_putAt_other (by omega) (by simpa using hb))

theorem record_length {n : Nat} {fs : List (Nat × Nat × Nat)} (hin : ∀ f ∈ fs, f.1 + f.2.1 ≤ n) : (record n fs).length = n := by
  have hzeros : (zeros n).length = n := List.length_replicate
  exact (putFields_beside (o := 0) (k := 0) (by rwa [hzeros])).1.trans hzeros

/-- Bytes beside every field of a record are 0. -/
theorem fieldAt_record_beside {n o k : Nat} {fs : List (Nat × Nat × Nat)} (hin : ∀ f ∈ fs, f.1 + f.2.1 ≤ n)
    (hbeside : ∀ f ∈ fs, f.1 + f.2.1 ≤ o ∨ o + k ≤ f.1) : fieldAt (record n fs) o k = 0 := by
  have hzeros : (zeros n).length = n := List.length_replicate
  refine ((putFields_beside (by rwa [hzeros])).2 hbeside).trans ?_
  rw [fieldAt, zeros, List.drop_replicate, List.take_replicate]
  exact leNat_zeros _

/-- A field of a record beside which the later ones lie. -/
theorem fieldAt_record {n o k v : Nat} {fs gs : List (Nat × Nat × Nat)} (hfs : ∀ f ∈ fs, f.1 + f.2.1 ≤ n) (hf : o + k ≤ n)
    (hgs : ∀ f ∈ gs, f.1 + f.2.1 ≤ n ∧ (f.1 + f.2.1 ≤ o ∨ o + k ≤ f.1)) : fieldAt (record n (fs ++ (o, k, v) :: gs)) o k = v % 256 ^ k := by
  have hlen : (putFields (zeros n) fs).length = n := record_length hfs
  have hput : (putAt (putFields (zeros n) fs) o (leBytes k v)).length = n := (length_putAt (by simpa [hlen] using hf)).trans hlen
  have hsplit : record n (fs ++ (o, k, v) :: gs) = putFields (putAt (putFields (zeros n) fs) o (leBytes k v)) gs := by
    simp only [record, putFields, List.foldl_append, List.foldl_cons]
  have hsame := fieldAt_putAt_same (bs := putFields (zeros n) fs) (v := leBytes k v) (off := o) (by omega)
  rw [leBytes_length] at hsame
  rw [hsplit, (putFields_beside (by simpa [hput] using fun f hf => (hgs f hf).1)).2 fun f hf => (hgs f hf).2, hsame, leNat_leBytes]

/-! ### The bytes of a completion record (R356) -/

section bytes
variable (seq : Nat) (st : Status) (phase : Bool) (progress time fid head : Nat)

theorem completionBytes_length : (completionBytes seq st phase progress time fid head).length = 64 := record_length (by simp)
theorem completionBytes_seq : fieldAt (completionBytes seq st phase progress time fid head) 0 4 = seq % 2 ^ 32 :=
  fieldAt_record (fs := []) (by simp) (by decide) (by simp)
theorem completionBytes_status : fieldAt (completionBytes seq st phase progress time fid head) 4 2 = st.code :=
  (fieldAt_record (fs := [_]) (by simp) (by decide) (by simp)).trans (by cases st <;> rfl)
theorem completionBytes_phase : fieldAt (completionBytes seq st phase progress time fid head) 6 1 = bitOf phase :=
  (fieldAt_record (fs := [_, _]) (by simp) (by decide) (by simp)).trans (by cases phase <;> rfl)
theorem completionBytes_progress : fieldAt (completionBytes seq st phase progress time fid head) 8 8 = progress % 2 ^ 64 :=
  fieldAt_record (fs := [_, _, _]) (by simp) (by decide) (by simp)
theorem completionBytes_time : fieldAt (completionBytes seq st phase progress time fid head) 16 8 = time % 2 ^ 64 :=
  fieldAt_record (fs := [_, _, _, _]) (by simp) (by decide) (by simp)
theorem completionBytes_fid : fieldAt (completionBytes seq st phase progress time fid head) 24 2 = fid % 2 ^ 16 :=
  fieldAt_record (fs := [_, _, _, _, _]) (by simp) (by decide) (by simp)
theorem completionBytes_head : fieldAt (completionBytes seq st phase progress time fid head) 28 2 = head % 2 ^ 16 :=
  fieldAt_record (fs := [_, _, _, _, _, _]) (by simp) (by decide) (by simp)
/-- The bytes between the fields are 0. -/
theorem completionBytes_rest : fieldAt (completionBytes seq st phase progress time fid head) 7 1 = 0 ∧
    fieldAt (completionBytes seq st phase progress time fid head) 26 2 = 0 ∧
    fieldAt (completionBytes seq st phase progress time fid head) 30 34 = 0 :=
  ⟨fieldAt_record_beside (by simp) (by simp), fieldAt_record_beside (by simp) (by simp), fieldAt_record_beside (by simp) (by simp)⟩

end bytes

/-! ### Ring writes read nothing of the host interface -/

theorem hbmWrite_modHost (s : State) (f : HostIf → HostIf) (b o : Nat) (bs : List Byte) (whole : Bool) :
    (s.modHost f).hbmWrite b o bs whole = (s.hbmWrite b o bs whole).map fun t => t.modHost f := by
  unfold State.hbmWrite
  rw [apply_ite (Option.map _), apply_ite (Option.map _)]
  rfl

theorem vwrite_modHost (f : HostIf → HostIf) (c : CtxId) : ∀ (bs : List Byte) (s : State) (v : Nat),
    (s.modHost f).vwrite c v bs = (s.vwrite c v bs).map fun t => t.modHost f
  | [], _, _ => rfl
  | x :: xs, s, v => by
    simp only [State.vwrite, show (s.modHost f).xlate c v .write = s.xlate c v .write from rfl]
    split
    · rfl
    · exact vwrite_modHost f c xs (s.send (.farWrite c (s.pasidOf c) _ [x] _ _)) (v + 1)
    · rw [hbmWrite_modHost]
      cases s.hbmWrite _ _ [x] false with
      | none => rfl
      | some t => exact vwrite_modHost f c xs t (v + 1)

theorem ringWrite_modHost (s : State) (f : HostIf → HostIf) (c : CtxId) (hbm : Bool) (a : Nat) (bs : List Byte) :
    (s.modHost f).ringWrite c hbm a bs = (s.ringWrite c hbm a bs).modHost f := by
  unfold State.ringWrite
  split
  · rw [vwrite_modHost]
    cases s.vwrite c a bs <;> rfl
  · rfl

theorem vwrite_timeNs {c : CtxId} : ∀ {bs : List Byte} {s t : State} {v : Nat}, s.vwrite c v bs = .ok t → t.timeNs = s.timeNs
  | [], s, t, v, h => by
    cases h
    rfl
  | x :: xs, s, t, v, h => by
    unfold State.vwrite at h
    split at h
    · cases h
    · exact (vwrite_timeNs h).trans rfl
    · split at h
      · cases h
      · rename_i e
        obtain ⟨f, rfl⟩ := hbmWrite_frame e
        exact (vwrite_timeNs h).trans rfl

theorem ringWrite_timeNs (s : State) (c : CtxId) (hbm : Bool) (a : Nat) (bs : List Byte) : (s.ringWrite c hbm a bs).timeNs = s.timeNs := by
  unfold State.ringWrite
  split
  · split
    · exact vwrite_timeNs ‹_›
    · rfl
  · rfl

/-! ### The completion of a command on a ring that stays configured (R356 to R358) -/

/-- A ring pair after a record has been written at its completion tail. -/
def Ring.recorded (r : Ring) : Ring :=
  { r with cqTail := (r.cqTail + 1) % ringEntries r.cqLog, reserved := r.reserved - 1,
           phase := if r.cqTail + 1 = ringEntries r.cqLog then !r.phase else r.phase }

/-- The record of a command that completes now. -/
def State.recordOf (s : State) (h : CmdHdr) (st : Status) (progress fid : Nat) (r : Ring) : List Byte :=
  completionBytes h.seq.toNat st r.phase (progress % 2 ^ 64) s.stamp.timeNs fid r.sqHead

/-- The state with that record in its ring. -/
def State.withRecord (s : State) (h : CmdHdr) (st : Status) (progress fid : Nat) (r : Ring) : State :=
  s.stamp.ringWrite h.ctx r.cqHbm (r.cqBase + 64 * r.cqTail) (s.recordOf h st progress fid r)

/-- The same with the ring moved on and the command gone from those fetched. -/
def State.recorded (s : State) (h : CmdHdr) (st : Status) (progress fid : Nat) (r : Ring) : State :=
  ((s.withRecord h st progress fid r).modHost fun i => { i with fetched := eraseFetched h i.fetched }).putRing h.ctx h.ring r.recorded

section completion
variable {s : State} {h : CmdHdr} {r : Ring} (hr : s.host.ring? h.ctx h.ring = some r) (st : Status) (progress fid : Nat)

theorem State.withRecord_frame : SameBlock s (s.withRecord h st progress fid r) := SameBlock.stamp.trans (SameBlock.ringWrite _ _ _ _)

theorem State.withRecord_host : (s.withRecord h st progress fid r).host = s.host := ringWrite_host _ _ _ _ _

theorem State.withRecord_timeNs : (s.withRecord h st progress fid r).timeNs = s.stamp.timeNs := ringWrite_timeNs _ _ _ _ _

theorem State.recorded_timeNs : (s.recorded h st progress fid r).timeNs = s.stamp.timeNs := by
  simp only [State.recorded, State.putRing, State.modHost_timeNs, State.withRecord_timeNs]

theorem State.recorded_msixEntry (f v : Nat) : (s.recorded h st progress fid r).host.msixEntry f v = s.host.msixEntry f v := by
  simp only [State.recorded, State.putRing, State.modHost_host, State.withRecord_host, HostIf.msixEntry]

theorem State.recorded_funcOf (n : CtxId) : (s.recorded h st progress fid r).funcOf n = s.funcOf n := by
  have hctxs : (s.recorded h st progress fid r).ctxs = s.ctxs := by
    simp only [State.recorded, State.putRing, State.modHost_ctxs, (State.withRecord_frame (s := s) (h := h) (r := r) st progress fid).ctxs]
  simp only [State.funcOf, State.ctxD, State.ctx?, hctxs]

include hr

theorem State.writeRecord_eq : s.writeRecord h st progress fid =
    if h.irq && r.irqEn then (s.recorded h st progress fid r).sendMsix (s.funcOf h.ctx) r.vector else s.recorded h st progress fid r := by
  have hr' : (s.stamp.modHost fun i => { i with fetched := eraseFetched h i.fetched }).host.ring? h.ctx h.ring = some r := hr
  rw [← State.recorded_funcOf (h := h) (r := r) st progress fid]
  simp only [State.writeRecord, hr', ringWrite_modHost]
  rfl

theorem State.ring?_writeRecord : (s.writeRecord h st progress fid).host.ring? h.ctx h.ring = some r.recorded := by
  have hput : (s.recorded h st progress fid r).host.ring? h.ctx h.ring = some r.recorded := State.putRing_ring?_same _ _ _ _
  rw [State.writeRecord_eq hr]
  split
  · unfold State.sendMsix
    split <;> exact hput
  · exact hput

variable (hc : r.closing = none) (ha : r.closingAdmin = false)
include hc ha

/-- On a ring that is not being disabled a completion is the record and its message. -/
theorem State.complete_eq : s.complete h st progress fid =
    if h.irq && r.irqEn then (s.recorded h st progress fid r).sendMsix (s.funcOf h.ctx) r.vector else s.recorded h st progress fid r := by
  have hring := State.ring?_writeRecord hr st progress fid
  have hopen : r.recorded.closing = none ∧ r.recorded.closingAdmin = false := ⟨hc, ha⟩
  simp only [State.complete, State.closeRing, hring, hopen, Bool.false_and, Bool.false_eq_true, if_false]
  exact State.writeRecord_eq hr st progress fid

/-- What a message leaves as the record left it. -/
theorem State.complete_recorded : (s.complete h st progress fid).hbm = (s.withRecord h st progress fid r).hbm ∧
    (s.complete h st progress fid).timeNs = s.stamp.timeNs ∧ (s.complete h st progress fid).host.ring? h.ctx h.ring = some r.recorded := by
  have hput : (s.recorded h st progress fid r).host.ring? h.ctx h.ring = some r.recorded := State.putRing_ring?_same _ _ _ _
  have htime : (s.recorded h st progress fid r).timeNs = s.stamp.timeNs :=
    State.recorded_timeNs st progress fid
  rw [State.complete_eq hr st progress fid hc ha]
  split
  · unfold State.sendMsix
    split <;> exact ⟨rfl, htime, hput⟩
  · exact ⟨rfl, htime, hput⟩

end completion

/-- Settles O9 by the fields of `completionBytes` and what `State.complete_eq` makes of the state. -/
theorem completionRecordIsLaidOut : Obligations.CompletionRecordIsLaidOut := by
  unfold Obligations.CompletionRecordIsLaidOut
  intro s h st progress fid r hr hc ha
  obtain ⟨hhbm, htime, hring⟩ := State.complete_recorded hr st progress fid hc ha
  obtain ⟨hpad7, hpad26, hpad30⟩ := completionBytes_rest h.seq.toNat st r.phase (progress % 2 ^ 64) s.stamp.timeNs fid r.sqHead
  refine ⟨s.recordOf h st progress fid r, completionBytes_length _ _ _ _ _ _ _, ?seq, completionBytes_status _ _ _ _ _ _ _,
    completionBytes_phase _ _ _ _ _ _ _, hpad7, ?progress, completionBytes_time _ _ _ _ _ _ _, completionBytes_fid _ _ _ _ _ _ _, hpad26,
    completionBytes_head _ _ _ _ _ _ _, hpad30, hhbm, htime, hring, fun hquiet => ?quiet⟩
  case seq => exact (completionBytes_seq _ _ _ _ _ _ _).trans (Nat.mod_eq_of_lt h.seq.isLt)
  case progress => exact (completionBytes_progress _ _ _ _ _ _ _).trans (Nat.mod_mod _ _)
  case quiet =>
    rw [State.complete_eq hr st progress fid hc ha, if_neg (by simp [hquiet])]
    rfl

/-- Settles O10: the message is sent on the state that holds the record. -/
theorem messageFollowsTheRecord : Obligations.MessageFollowsTheRecord := by
  unfold Obligations.MessageFollowsTheRecord
  intro s h st progress fid r hr hc ha hirq hen t
  have ht : t = (s.recorded h st progress fid r).sendMsix (s.funcOf h.ctx) r.vector :=
    (State.complete_eq hr st progress fid hc ha).trans (if_pos (by simp [hirq, hen]))
  have hentry := State.recorded_msixEntry (s := s) (h := h) (r := r) st progress fid (s.funcOf h.ctx) r.vector
  refine ⟨s.recordOf h st progress fid r, (completionBytes_seq _ _ _ _ _ _ _).trans (Nat.mod_eq_of_lt h.seq.isLt),
    (State.complete_recorded hr st progress fid hc ha).1, fun hopen => ?unmasked, fun hmasked => ?masked⟩
  case unmasked =>
    rw [ht, State.sendMsix, hentry, if_neg (hopen ▸ Bool.false_ne_true)]
    rfl
  case masked =>
    rw [ht, State.sendMsix, hentry, if_pos hmasked]
    refine ⟨rfl, ?_⟩
    rw [State.modHost_host]
    dsimp only
    split
    · assumption
    · simp

end Sys2Proof.Machine
end

section
/-! PROOFS. The interface version, the doorbells and the device interrupts (R344, R347, R350, R360, R371, R372). -/

namespace Sys2Proof.Machine

open Sys2Proof

/-! ### Bits of a register -/

theorem bit_eq_testBit (w i : Nat) : bit w i = w.testBit i := (Nat.testBit_eq_decide_div_mod_eq).symm

/-- The value of a clear bit, added, sets that bit and no other. -/
theorem bit_add_two_pow_of_clear {w b : Nat} (h : bit w b = false) (k : Nat) : bit (w + 2 ^ b) k = (bit w k || decide (k = b)) := by
  obtain hk | rfl | hk := Nat.lt_trichotomy k b
  · rw [bit_eq_testBit, bit_eq_testBit, Nat.add_comm, Nat.testBit_two_pow_add_gt hk, decide_eq_false hk.ne, Bool.or_false]
  · rw [bit_add_of_clear h, decide_eq_true rfl, Bool.or_true]
  · have hclear : w / 2 ^ b % 2 = 0 := by
      simp only [bit, beq_eq_false_iff_ne] at h
      omega
    have hlow : w % 2 ^ (b + 1) < 2 ^ b := by
      rw [Nat.mod_pow_succ, hclear, Nat.mul_zero, Nat.add_zero]
      exact Nat.mod_lt w (Nat.two_pow_pos b)
    have hsum : w % 2 ^ (b + 1) + 2 ^ b < 2 ^ (b + 1) := by
      have hpow := Nat.pow_succ 2 b
      omega
    rw [bit_eq_testBit, bit_eq_testBit, decide_eq_false hk.ne', Bool.or_false]
    conv_lhs => rw [← Nat.div_add_mod w (2 ^ (b + 1)), Nat.add_assoc]
    conv_rhs => rw [← Nat.div_add_mod w (2 ^ (b + 1))]
    rw [Nat.testBit_two_pow_mul_add _ hsum, Nat.testBit_two_pow_mul_add _ (Nat.mod_lt _ (Nat.two_pow_pos _)), if_neg (by omega), if_neg (by omega)]

/-- Masking by a register leaves all of a word exactly where it holds every bit of it. -/
theorem sub_and_eq_zero_iff (a e : Nat) : a - (a &&& e) = 0 ↔ ∀ b, bit a b = true → bit e b = true := by
  have hle : a &&& e ≤ a := Nat.and_le_left
  rw [Nat.sub_eq_zero_iff_le, ← (show a &&& e = a ↔ a ≤ a &&& e by omega)]
  simp only [bit_eq_testBit]
  constructor
  · intro h b hb
    rw [← h, Nat.testBit_and] at hb
    exact (Bool.and_eq_true _ _ ▸ hb).2
  · intro h
    refine Nat.eq_of_testBit_eq fun b => ?_
    rw [Nat.testBit_and]
    cases hb : a.testBit b with
    | false => rfl
    | true => exact h b hb

/-! ### IFACE_NEGOTIATE (R347) -/

/-- Settles O29: the write is `State.negotiate` while BAR 0 takes writes. -/
theorem interfaceIsNegotiated : Obligations.InterfaceIsNegotiated := by
  unfold Obligations.InterfaceIsNegotiated
  intro f v s hf hopen
  have hexec : exec (.ifaceNegotiate f v) s = .next (s.negotiate f v) := (if_pos hf).trans (congrArg Host.Outcome.next (if_pos hopen))
  refine ⟨fun hring => ?agreed, fun hring => ?ignored⟩
  case agreed =>
    rw [hexec, State.negotiate, if_neg (by simp [hring])]
    exact ⟨_, rfl, SameBlock.modHost _, vmod_get_same _ _ _, vmod_get_same _ _ _, fun g hg => vmod_get_other _ _ _ _ hg⟩
  case ignored => rw [hexec, State.negotiate, if_pos hring]

/-! ### Messages of unmasked vectors (R358, R372) -/

theorem State.sendMsix_unmasked {s : State} {f v : Nat} (h : (s.host.msixEntry f v).ctl.getLsbD 0 = false) : s.sendMsix f v = s.send (.msix f v) :=
  if_neg (by rw [h]; exact Bool.false_ne_true)

/-- A message, sent or pending, leaves the device interrupts and HBM. -/
theorem State.sendMsix_rest (s : State) (f v : Nat) : (s.sendMsix f v).host.intEnable = s.host.intEnable ∧
    (s.sendMsix f v).host.intStatus = s.host.intStatus ∧ (s.sendMsix f v).hbm = s.hbm := by
  unfold State.sendMsix
  split <;> exact ⟨rfl, rfl, rfl⟩

theorem State.raiseInt_set {s : State} {b : Nat} (h : bit s.host.intStatus b = true) : s.raiseInt b = s := if_pos h

/-- The state with one more bit of INT_STATUS. -/
def State.withInt (s : State) (b : Nat) : State := s.modHost fun h => { h with intStatus := h.intStatus + 2 ^ b }

theorem State.raiseInt_clear {s : State} {b : Nat} (h : bit s.host.intStatus b = false) :
    s.raiseInt b = if bit s.host.intEnable b then (s.withInt b).sendMsix 0 s.host.intVector else s.withInt b :=
  if_neg (by rw [h]; exact Bool.false_ne_true)

/-- INT_ENABLE with its new bits, and the status bits that the write newly enables. -/
def State.withEnable (s : State) (v : Nat) : State := s.modHost fun h => { h with intEnable := v % 64 }
def State.newlyEnabled (s : State) (v : Nat) : Nat := (v % 64 &&& s.host.intStatus) - (v % 64 &&& s.host.intStatus &&& s.host.intEnable)

theorem State.writeIntEnable_eq (s : State) (v : Nat) :
    s.writeIntEnable v = if s.newlyEnabled v = 0 then s.withEnable v else (s.withEnable v).sendMsix 0 s.host.intVector := rfl

theorem State.newlyEnabled_eq_zero_iff (s : State) (v : Nat) : s.newlyEnabled v = 0 ↔
    ∀ b, b < 6 → bit v b = true → bit s.host.intStatus b = true → bit s.host.intEnable b = true := by
  rw [State.newlyEnabled, sub_and_eq_zero_iff]
  refine forall_congr' fun b => ?_
  rw [bit_eq_testBit, Nat.testBit_and, show (64 : Nat) = 2 ^ 6 from rfl, Nat.testBit_mod_two_pow, ← bit_eq_testBit, ← bit_eq_testBit]
  simp only [Bool.and_eq_true, decide_eq_true_eq, and_imp]

/-- Settles O30: `State.raiseInt` on a clear bit adds its value, and `State.writeIntEnable` sends exactly where a bit is newly enabled. -/
theorem deviceInterruptsSendOneMessage : Obligations.DeviceInterruptsSendOneMessage := by
  unfold Obligations.DeviceInterruptsSendOneMessage
  refine ⟨fun b s _ _ => ⟨State.raiseInt_set, fun hclear hmask => ?raise⟩, fun v s hopen => ?write⟩
  case raise =>
    have hstatus := bit_add_two_pow_of_clear hclear
    have hunmasked : ((s.withInt b).host.msixEntry 0 s.host.intVector).ctl.getLsbD 0 = false := hmask
    rw [State.raiseInt_clear hclear, State.sendMsix_unmasked hunmasked]
    split <;> exact ⟨hstatus, rfl⟩
  case write =>
    have hexec : exec (.intEnable v) s = .next (s.writeIntEnable v.toNat) := congrArg Host.Outcome.next (if_pos hopen)
    have hnone := s.newlyEnabled_eq_zero_iff v.toNat
    rw [State.writeIntEnable_eq] at hexec
    by_cases h0 : s.newlyEnabled v.toNat = 0
    · refine ⟨_, hexec.trans (congrArg _ (if_pos h0)), SameBlock.modHost _, rfl, rfl, rfl, fun _ => rfl, fun ⟨b, hb, hv, hs, he⟩ => ?_⟩
      exact absurd (hnone.mp h0 b hb hv hs) (by simp [he])
    · obtain ⟨henable, hstatus, hhbm⟩ := (s.withEnable v.toNat).sendMsix_rest 0 s.host.intVector
      refine ⟨_, hexec.trans (congrArg _ (if_neg h0)), (SameBlock.modHost _).trans (SameBlock.sendMsix _ _), hhbm, henable, hstatus,
        fun hall => absurd (hnone.mpr hall) h0, fun _ hmask => ?_⟩
      have hunmasked : ((s.withEnable v.toNat).host.msixEntry 0 s.host.intVector).ctl.getLsbD 0 = false := hmask
      rw [State.sendMsix_unmasked hunmasked]
      rfl

/-! ### Doorbells (R344) -/

theorem satAt_eq_min (top n : Nat) : satAt top n = min top n := by
  unfold satAt
  split <;> omega

section doorbell
variable {w : DoorbellWrite} {c : CtxId} {s : State} (hready : s.host.configReady = true) (hreset : s.clk.inReset = false)
  (htrip : s.clk.tripped = false) (hfrozen : s.dbg.frozen = false) (hop : s.host.operational = true)
include hready hreset htrip hfrozen hop

/-- A function that has agreed no interface drops every write. -/
theorem State.doorbell_unagreed (ha : s.host.agreed.get (Fin.ofNat 64 w.func) = 0) : s.doorbell w = s.dropBell w dropUnagreed := by
  have ha' : s.host.agreed.get ⟨w.func % 64, Nat.mod_lt _ (by decide)⟩ = 0 := ha
  simp [State.doorbell, hready, hreset, htrip, hfrozen, hop, ha']

variable (ha : s.host.agreed.get (Fin.ofNat 64 w.func) ≠ 0) (hw : w.width = 4) (hp : s.pageCtx w.func w.page = some c)
include ha hw hp

theorem State.doorbell_sqTail {r : Ring} (hr : s.host.ring? c (Fin.ofNat 64 w.bell) = some r) (he : r.err = false) (ho : w.off = 0)
    (hv : w.value % 2 ^ 16 < ringEntries r.sqLog) : s.doorbell w = s.putRing c (Fin.ofNat 64 w.bell) { r with sqTail := w.value % 2 ^ 16 } := by
  have ha' : s.host.agreed.get ⟨w.func % 64, Nat.mod_lt _ (by decide)⟩ ≠ 0 := ha
  have hr' : s.host.ring? c ⟨w.bell % 64, Nat.mod_lt _ (by decide)⟩ = some r := hr
  have hv' : ¬ ringEntries r.sqLog ≤ w.value % 65536 := Nat.not_le.mpr hv
  simp [State.doorbell, hready, hreset, htrip, hfrozen, hop, ha', hw, hp, ho, hr', he, hv']
  rfl

theorem State.doorbell_cqHead {r : Ring} (hr : s.host.ring? c (Fin.ofNat 64 w.bell) = some r) (he : r.err = false) (ho : w.off = 8)
    (hv : w.value % 2 ^ 16 < ringEntries r.cqLog) : s.doorbell w = s.putRing c (Fin.ofNat 64 w.bell) { r with cqHead := w.value % 2 ^ 16 } := by
  have ha' : s.host.agreed.get ⟨w.func % 64, Nat.mod_lt _ (by decide)⟩ ≠ 0 := ha
  have hr' : s.host.ring? c ⟨w.bell % 64, Nat.mod_lt _ (by decide)⟩ = some r := hr
  have hv' : ¬ ringEntries r.cqLog ≤ w.value % 65536 := Nat.not_le.mpr hv
  simp [State.doorbell, hready, hreset, htrip, hfrozen, hop, ha', hw, hp, ho, hr', he, hv']
  rfl

theorem State.doorbell_eventHead {r : EventRing} (hr : s.events? c = some r) (he : r.err = false) (ho : w.off = 16) (hb : w.bell = 0)
    (hv : w.value % 2 ^ 16 < ringEntries r.log) :
    s.doorbell w = s.modHost fun h => { h with events := assocSet c { r with head := w.value % 2 ^ 16 } h.events } := by
  have ha' : s.host.agreed.get ⟨w.func % 64, Nat.mod_lt _ (by decide)⟩ ≠ 0 := ha
  have hv' : ¬ ringEntries r.log ≤ w.value % 65536 := Nat.not_le.mpr hv
  simp [State.doorbell, hready, hreset, htrip, hfrozen, hop, ha', hw, hp, ho, hb, hr, he, hv']

end doorbell

/-- A dropped write is counted up to the register's limit; the interrupt that tells of it leaves the counts. -/
theorem State.dropBell_drops (s : State) (w : DoorbellWrite) (reason : Nat) : (s.dropBell w reason).host.drops.get (Fin.ofNat 64 w.func) =
    min (2 ^ 32 - 1) (s.host.drops.get (Fin.ofNat 64 w.func) + 1) := by
  unfold State.dropBell
  dsimp only
  obtain ⟨v, pend, hhost, -⟩ := raiseInt_host (s.modHost fun h => { h with
    drops := vmod h.drops ⟨w.func % 64, by omega⟩ fun n => satAt (2 ^ 32 - 1) (n + 1),
    doorbellLast := w.page % 2 ^ 12 + 2 ^ 12 * (w.bell % 64) + 2 ^ 18 * reason }) intDoorbell
  rw [hhost]
  exact (vmod_get_same _ _ _).trans (satAt_eq_min _ _)

/-- Settles O26: the three rows are one write, which the lemma named after its offset describes. -/
theorem doorbellsMoveTheirIndices : Obligations.DoorbellsMoveTheirIndices := by
  unfold Obligations.DoorbellsMoveTheirIndices
  intro w c s hexists hready hreset htrip hfrozen hop
  have hexec : ∀ {t : State}, s.doorbell w = t → (if s.bellExists w then Host.Outcome.next (s.doorbell w) else .fault .noSuchAddress) =
      (.next t : Host.Outcome State Fault Refusal) := fun h => (if_pos hexists).trans (congrArg _ h)
  refine ⟨fun ha hw hp => ⟨fun r hr he => ⟨fun ho hv => ?tail, fun ho hv => ?head⟩, fun r hr he ho hb hv => ?event⟩, fun ha => ?dropped⟩
  case tail => exact hexec (State.doorbell_sqTail hready hreset htrip hfrozen hop ha hw hp hr he ho hv)
  case head => exact hexec (State.doorbell_cqHead hready hreset htrip hfrozen hop ha hw hp hr he ho hv)
  case event => exact hexec (State.doorbell_eventHead hready hreset htrip hfrozen hop ha hw hp hr he ho hb hv)
  case dropped =>
    have hdrop := hexec (State.doorbell_unagreed hready hreset htrip hfrozen hop ha)
    exact ⟨hdrop, hdrop, hdrop, s.dropBell_drops w 1⟩

end Sys2Proof.Machine
end

section
/-! PROOFS. Accesses to BAR 4 (R345, R346, R371). -/

namespace Sys2Proof.Machine

open Sys2Proof

/-! ### The pieces of an access -/

theorem bar4Pieces_first {off len : Nat} (h : 1 ≤ len) (k : Nat) : bar4Pieces off len (k + 1) =
    (off, min len (64 - off % 64)) :: bar4Pieces (off + min len (64 - off % 64)) (len - min len (64 - off % 64)) k :=
  if_neg (by omega)

theorem bar4Pieces_empty (off k : Nat) : bar4Pieces off 0 k = [] := by
  cases k with
  | zero => rfl
  | succ k => exact if_pos rfl

/-- An access within 64 bytes is one piece. -/
theorem bar4Pieces_whole {off len : Nat} (h : 1 ≤ len) (hin : off % 64 + len ≤ 64) : bar4Pieces off len (len + 1) = [(off, len)] := by
  have hmin : min len (64 - off % 64) = len := by omega
  rw [bar4Pieces_first h, hmin, Nat.sub_self, bar4Pieces_empty]

theorem State.bar4Walk_one {s : State} {f off len b o : Nat} {wr : Bool} (hat : s.bar4At f off wr = .ok (b, o)) :
    s.bar4Walk f wr [(off, len)] = .ok [(b, o, len)] := by
  simp only [State.bar4Walk, hat]
  rfl

theorem State.bar4Walk_rejected {s : State} {f off len : Nat} {wr : Bool} {st : Status} (hl : 1 ≤ len) (hat : s.bar4At f off wr = .error st) :
    s.bar4Walk f wr (bar4Pieces off len (len + 1)) = .error (off, st) := by
  rw [bar4Pieces_first hl]
  simp only [State.bar4Walk, hat]

/-! ### What a read and a rejection leave -/

/-- A read of HBM that is good, with the bytes; it notes the access beside them. -/
theorem State.hbmRead_readable {s : State} {b o : Nat} (h : s.hbmReadable b o = true) (n : Nat) :
    ∃ t, s.hbmRead b o n = (some (readBytes s.hbm.mem (hbmKey b o) n), t) ∧ t.out = s.out ∧ t.hbm.mem = s.hbm.mem ∧ t.cores = s.cores ∧
      t.slices = s.slices ∧ t.ctxs = s.ctxs := by
  have hmem : ((s.hbm.noteRead b o).touch b o).mem = s.hbm.mem := by
    unfold Hbm.touch Hbm.noteRead
    dsimp only
    split
    · split <;> rfl
    · rfl
  refine ⟨_, if_pos h, ?_⟩
  split <;> exact ⟨rfl, hmem, rfl, rfl, rfl⟩

theorem State.bar4Reject_pageFault (s : State) (f off : Nat) :
    (s.bar4Reject f off .pageFault).host.bar4Err = 0x200 + 2 ^ 16 * f + 2 ^ 31 ∧ (s.bar4Reject f off .pageFault).hbm.mem = s.hbm.mem := by
  unfold State.bar4Reject
  rw [if_pos rfl]
  obtain ⟨v, pend, hhost, -⟩ := raiseInt_host (((s.modHbm fun h => { h with pageFaults := satAt 0xFFFF (h.pageFaults + 1) }).modHost fun h =>
    { h with bar4Err := Status.pageFault.code + 2 ^ 16 * f + 2 ^ 31, bar4ErrOff := off % 2 ^ 40 })) intBar4
  exact ⟨by rw [hhost]; rfl, by rw [raiseInt_hbm]; rfl⟩

/-! ### The rows -/

section access
variable {f : Fin 64} {off : Nat} {s : State} (hready : s.host.configReady = true) (hreset : s.clk.inReset = false)
  (htrip : s.clk.tripped = false) (hopen : s.bar4Open = true)
include hready hreset htrip hopen

theorem exec_bar4Read_reads {len b o : Nat} (hl : 1 ≤ len) (hin : off % 64 + len ≤ 64) (hexists : s.bar4Exists f.val off len = true)
    (hat : s.bar4At f.val off false = .ok (b, o)) :
    exec (.bar4Read f off len) s = .next ((s.hbmRead b o len).2.send (.readReply f.val ((s.hbmRead b o len).1.getD []))) := by
  refine (if_neg (by simp [hexists])).trans (congrArg Host.Outcome.next ?_)
  rw [if_neg (by simp [hready, hreset, htrip]), if_neg (by simp [hopen]), bar4Pieces_whole hl hin, State.bar4Walk_one hat]
  rfl

theorem exec_bar4Read_rejected {len : Nat} (hl : 1 ≤ len) (hexists : s.bar4Exists f.val off len = true)
    (hat : s.bar4At f.val off false = .error .pageFault) :
    exec (.bar4Read f off len) s = .next ((s.bar4Reject f.val off .pageFault).send (.unsupported f.val)) := by
  refine (if_neg (by simp [hexists])).trans (congrArg Host.Outcome.next ?_)
  rw [if_neg (by simp [hready, hreset, htrip]), if_neg (by simp [hopen]), State.bar4Walk_rejected hl hat]
  rfl

theorem exec_bar4Write_writes {bs : List Byte} {b o : Nat} {u : State} (hl : 1 ≤ bs.length) (hin : off % 64 + bs.length ≤ 64)
    (hexists : s.bar4Exists f.val off bs.length = true) (hat : s.bar4At f.val off true = .ok (b, o)) (hu : s.hbmWrite b o bs false = some u) :
    exec (.bar4Write f off bs) s = .next u := by
  refine (if_neg (by simp [hexists])).trans (congrArg Host.Outcome.next ?_)
  rw [if_neg (by simp [hready, hreset, htrip, hopen]), bar4Pieces_whole hl hin, State.bar4Walk_one hat]
  simp only [List.foldl_cons, List.foldl_nil, List.take_length, hu]
  rfl

theorem exec_bar4Write_rejected {bs : List Byte} (hl : 1 ≤ bs.length) (hexists : s.bar4Exists f.val off bs.length = true)
    (hat : s.bar4At f.val off true = .error .pageFault) : exec (.bar4Write f off bs) s = .next (s.bar4Reject f.val off .pageFault) := by
  refine (if_neg (by simp [hexists])).trans (congrArg Host.Outcome.next ?_)
  rw [if_neg (by simp [hready, hreset, htrip, hopen]), State.bar4Walk_rejected hl hat]

end access

/-- Settles O35 by the lemma named after what the access meets. -/
theorem bar4ReachesContextMemory : Obligations.Bar4ReachesContextMemory := by
  unfold Obligations.Bar4ReachesContextMemory
  intro f off s hready hreset htrip hopen
  refine ⟨fun len b o hl hin hexists hat hgood => ?read, fun bs b o u hl hin hexists hat hu =>
      exec_bar4Write_writes hready hreset htrip hopen hl hin hexists hat hu,
    fun len hl hexists hat => ?readRejected, fun bs hl hexists hat => ?writeRejected⟩
  case read =>
    obtain ⟨t, hread, hout, hmem, hcores, hslices, hctxs⟩ := State.hbmRead_readable hgood len
    refine ⟨_, exec_bar4Read_reads hready hreset htrip hopen hl hin hexists hat, ?_⟩
    rw [hread]
    exact ⟨congrArg _ hout, hmem, hcores, hslices, hctxs⟩
  case readRejected =>
    obtain ⟨herr, hmem⟩ := s.bar4Reject_pageFault f.val off
    exact ⟨_, exec_bar4Read_rejected hready hreset htrip hopen hl hexists hat, rfl, herr, hmem⟩
  case writeRejected =>
    obtain ⟨herr, hmem⟩ := s.bar4Reject_pageFault f.val off
    exact ⟨_, exec_bar4Write_rejected hready hreset htrip hopen hl hexists hat, herr, hmem⟩

end Sys2Proof.Machine
end

section
/-! PROOFS. Freeze, thaw, read-out and snapshot copies (R417, R460 to R467, R489, R497). -/

namespace Sys2Proof.Machine

open Sys2Proof

/-! ### Freeze requests (R460) -/

theorem State.freeze_begins {s : State} (hready : s.host.configReady = true) (hreset : s.clk.inReset = false) (htrip : s.clk.tripped = false)
    (hfrozen : s.dbg.frozen = false) (hdebug : s.dbg.debugMode = false) (src : FreezeSrc) : s.freeze src =
      { s.stamp with dbg := { s.stamp.dbg with frozen := true, source := src.code, frozenAt := s.stamp.timeNs, held := s.i3cLive } } :=
  if_neg (by simp [hready, hreset, htrip, hfrozen, hdebug])

theorem State.freeze_ignored {s : State} (src : FreezeSrc)
    (h : s.host.configReady = false ∨ s.clk.inReset = true ∨ s.dbg.frozen = true ∨ s.dbg.debugMode = true) : s.freeze src = s :=
  if_pos (by rcases h with h | h | h | h <;> simp [h])

/-- Settles O32: a freeze stamps its time and changes the debug block only. -/
theorem freezeAndThaw : Obligations.FreezeAndThaw := by
  unfold Obligations.FreezeAndThaw
  refine fun src s => ⟨fun hready hreset htrip hfrozen hdebug hreg => ?begins, fun h => ?ignored⟩
  case begins =>
    have hopen : ¬(src = .register ∧ !s.regsOpen) := fun ⟨hsrc, hclosed⟩ => by simp [hreg hsrc] at hclosed
    refine ⟨_, congrArg Host.Outcome.next ((if_neg hopen).trans (State.freeze_begins hready hreset htrip hfrozen hdebug src)), rfl, ?_, rfl, rfl⟩
    constructor <;> rfl
  case ignored =>
    refine congrArg Host.Outcome.next ?_
    split
    · rfl
    · exact State.freeze_ignored src h

/-! ### What the end of a context's work leaves of the contexts (R363, R379, R416) -/

/-- The debug block is as before, the same contexts are there, and each is sealed as before. -/
structure CtxsStay (s t : State) : Prop where
  dbg : t.dbg = s.dbg
  ctx : ∀ m, (t.ctx? m).map Ctx.sealing = (s.ctx? m).map Ctx.sealing

theorem CtxsStay.of {s t : State} (hdbg : t.dbg = s.dbg) (hctxs : t.ctxs = s.ctxs) : CtxsStay s t :=
  ⟨hdbg, fun m => congrArg (fun l => (assoc? m l).map Ctx.sealing) hctxs⟩

theorem CtxsStay.same (s : State) : CtxsStay s s := .of rfl rfl

theorem CtxsStay.ofBlock {s t : State} (h : SameBlock s t) : CtxsStay s t := .of h.dbg h.ctxs

theorem CtxsStay.trans {s t u : State} (a : CtxsStay s t) (b : CtxsStay t u) : CtxsStay s u :=
  ⟨b.dbg.trans a.dbg, fun m => (b.ctx m).trans (a.ctx m)⟩

theorem CtxsStay.modMedia (s : State) (f : Media → Media) : CtxsStay s (s.modMedia f) := .of rfl rfl

theorem CtxsStay.complete (s : State) (h : CmdHdr) (st : Status) (progress fid : Nat) : CtxsStay s (s.complete h st progress fid) :=
  .ofBlock (State.complete_frame s h st progress fid)

theorem CtxsStay.modCtx (s : State) (n : CtxId) {f : Ctx → Ctx} (hf : ∀ x, (f x).sealing = x.sealing) : CtxsStay s (s.modCtx n f) := by
  refine ⟨State.modCtx_dbg s n f, fun m => ?_⟩
  by_cases h : m = n
  · subst h
    cases hm : s.ctx? m with
    | none => simp [State.modCtx, hm]
    | some x => simp [State.ctx?_modCtx_same hm, hf]
  · rw [State.ctx?_modCtx_other h]

theorem CtxsStay.modShuffle (s : State) (n : CtxId) (f : Reservoir → Reservoir) : CtxsStay s (s.modShuffle n f) := .modCtx s n fun _ => rfl

theorem CtxsStay.putCtx {s : State} {n : CtxId} {x y : Ctx} (h : s.ctx? n = some x) (hy : y.sealing = x.sealing) : CtxsStay s (s.putCtx n y) := by
  refine ⟨rfl, fun m => ?_⟩
  by_cases hmn : m = n
  · subst hmn
    rw [h]
    exact (congrArg (Option.map Ctx.sealing) (assoc?_assocSet_same m y s.ctxs)).trans (congrArg some hy)
  · exact congrArg (Option.map Ctx.sealing) (assoc?_assocSet_other hmn _ _)

theorem CtxsStay.mediaArrive (s : State) (n : CtxId) (line : LineId) (mask : Nat) : CtxsStay s (s.mediaArrive n line mask) := by
  unfold State.mediaArrive
  refine List.foldlRecOn (motive := CtxsStay s) (maskDies mask) _ (.same s) fun v h d _ => h.trans ?_
  split
  · exact .same v
  · rename_i x hx
    split
    · split
      · exact .putCtx hx rfl
      · exact .of rfl rfl
    · exact .of rfl rfl

theorem CtxsStay.feedArrives (s : State) (f : FeedRec) : CtxsStay s (s.feedArrives f) := by
  unfold State.feedArrives
  split
  · split
    · exact .mediaArrive _ _ _ _
    · exact .same s
  · exact .same s

theorem CtxsStay.endFeed (s : State) (i : Nat) : CtxsStay s (s.endFeed i) := by
  rcases s.endFeed_cases i with h | ⟨f, st, h⟩
  · rw [h]
    exact .same s
  · rw [h]
    exact .trans (.trans (.feedArrives s f) (.modMedia _ _)) (.complete _ _ _ _ _)

theorem CtxsStay.endStream (s : State) (n : CtxId) (k : Nat) : CtxsStay s (s.endStream n k) := by
  unfold State.endStream
  split
  · exact .same s
  · split
    · exact .same s
    · split
      · exact .same s
      · exact .trans (.modMedia s _) (.complete _ _ _ _ _)

theorem CtxsStay.removeJob (s : State) (j : Job) (st : Status) (dropped : Nat) : CtxsStay s (s.removeJob j st dropped) := by
  unfold State.removeJob
  dsimp only
  refine .trans (.trans (.trans (.trans (.modShuffle s _ _) (.modMedia _ _)) (.modCtx _ _ ?held)) (.endFeed _ _)) (.endStream _ _ _)
  exact fun _ => rfl

/-- A job that is ended for good removes no more than itself, its feed and its stream. -/
theorem CtxsStay.stopJob (s : State) (i : Nat) (st : Status) : CtxsStay s (s.stopJob i st true) := by
  unfold State.stopJob State.endJob
  split
  · exact .same s
  · split
    · rw [if_neg (by simp)]
      dsimp only
      split
      · rename_i u hput
        split at hput
        · cases hput
        · rename_i v hfirst
          exact .trans (.ofBlock ((SameBlock.vwrite hfirst).trans (SameBlock.vwrite hput))) (.removeJob u _ st _)
      · exact .removeJob s _ st _
      · exact .removeJob s _ st _
    · exact .of rfl rfl

theorem CtxsStay.endMedia (s : State) (n : CtxId) : CtxsStay s (s.endMedia n) := by
  unfold State.endMedia
  dsimp only
  refine .trans (List.foldlRecOn (motive := CtxsStay s) ((s.media.jobs.filter fun j => j.ctx == n).map fun j => j.id)
    (fun s i => s.stopJob i .contextEnded true) (.same s) fun v h i _ => h.trans (.stopJob v i _)) ?_
  exact .trans (.modMedia _ _) (.ofBlock (SameBlock.completeAll _ (fun h => h) .done _))

theorem CtxsStay.cancelExec (s : State) (n : CtxId) : CtxsStay s (s.cancelExec n) := by
  unfold State.cancelExec
  split
  · refine .trans (.modCtx s n ?ended) (.complete _ _ _ _ _)
    exact fun _ => rfl
  · exact .same s

theorem CtxsStay.dropFlow (s : State) (n : CtxId) : CtxsStay s (s.dropFlow n) := .of rfl rfl
theorem CtxsStay.dropGroups (s : State) (n : CtxId) : CtxsStay s (s.dropGroups n) := .of rfl rfl

theorem CtxsStay.resetCtx (s : State) (n : CtxId) : CtxsStay s (s.resetCtx n) := by
  rw [State.resetCtx_eq]
  exact .trans (.trans (.trans (.trans (.cancelExec s n) (.endMedia _ n)) (.dropFlow _ n)) (.dropGroups _ n)) (.modCtx _ n fun _ => rfl)

/-! ### What the end of a context leaves of the others (R363, R417) -/

/-- The debug block is as before, and no context is there that was not there before. -/
structure CtxsLeave (s t : State) : Prop where
  dbg : t.dbg = s.dbg
  absent : ∀ m, s.ctx? m = none → t.ctx? m = none

theorem CtxsLeave.ofStay {s t : State} (h : CtxsStay s t) : CtxsLeave s t :=
  ⟨h.dbg, fun m hm => by simpa [hm] using h.ctx m⟩

theorem CtxsLeave.of {s t : State} (hdbg : t.dbg = s.dbg) (hctxs : t.ctxs = s.ctxs) : CtxsLeave s t := .ofStay (.of hdbg hctxs)

theorem CtxsLeave.same (s : State) : CtxsLeave s s := .of rfl rfl

theorem CtxsLeave.trans {s t u : State} (a : CtxsLeave s t) (b : CtxsLeave t u) : CtxsLeave s u :=
  ⟨b.dbg.trans a.dbg, fun m h => b.absent m (a.absent m h)⟩

theorem CtxsLeave.dropCmds (s : State) (n : CtxId) : CtxsLeave s (s.dropCmds n) := .of rfl rfl
theorem CtxsLeave.dropEntries (s : State) (n : CtxId) (gone : Nat → Bool) : CtxsLeave s (s.dropEntries n gone) := .of rfl rfl
theorem CtxsLeave.forget (s : State) (n : CtxId) : CtxsLeave s (s.forget n) := ⟨rfl, fun _ hm => assoc?_filter_of_none _ hm⟩

/-- The cores of the running context stop and its slices are cleared (R414). -/
theorem CtxsLeave.idle (s : State) (running : Option CtxId) (slices : Vector Slice 16) (f : CoreId → Core → Core) :
    CtxsLeave s (({ s with running := running, slices := slices } : State).mapCores f) := .of rfl rfl

theorem CtxsLeave.removeCtx (s : State) (n : CtxId) : CtxsLeave s (s.removeCtx n) := by
  obtain ⟨u, hblock, hforget⟩ := s.removeCtx_forgets n
  rw [hforget]
  exact .trans (.trans (.trans (.trans (.ofStay (.resetCtx s n)) (.dropCmds _ n)) (.dropEntries _ n _)) (.ofStay (.ofBlock hblock))) (.forget u n)

theorem State.removeCtx_absent (s : State) (n : CtxId) : (s.removeCtx n).ctx? n = none := by
  obtain ⟨u, -, hforget⟩ := s.removeCtx_forgets n
  rw [hforget]
  exact assoc?_filter_key_ne n u.ctxs

theorem CtxsLeave.destroyCtx (s : State) (n : CtxId) : CtxsLeave s (s.destroyCtx n) := by
  unfold State.destroyCtx
  split
  · exact .trans (.idle s _ _ _) (.removeCtx _ n)
  · exact .removeCtx s n

theorem State.destroyCtx_absent (s : State) (n : CtxId) : (s.destroyCtx n).ctx? n = none := by
  unfold State.destroyCtx
  split
  · exact State.removeCtx_absent _ n
  · exact s.removeCtx_absent n

/-- Contexts that are destroyed one after the other are all gone. -/
theorem State.destroyAll_absent : ∀ (l : List (CtxId × Ctx)) (s : State), CtxsLeave s (l.foldl (fun s e => s.destroyCtx e.1) s) ∧
    ∀ e ∈ l, (l.foldl (fun s e => s.destroyCtx e.1) s).ctx? e.1 = none
  | [], s => ⟨.same s, fun _ h => absurd h List.not_mem_nil⟩
  | e :: l, s => by
    obtain ⟨hrest, hgone⟩ := State.destroyAll_absent l (s.destroyCtx e.1)
    refine ⟨(CtxsLeave.destroyCtx s e.1).trans hrest, fun d hd => ?_⟩
    rcases List.mem_cons.mp hd with rfl | hd
    · exact hrest.absent _ (s.destroyCtx_absent _)
    · exact hgone d hd

/-! ### THAW (R465) -/

/-- The state of a thaw when its sealed contexts have been destroyed. -/
def State.unsealed (s : State) : State :=
  (s.ctxs.filter fun e => e.2.sealing.isSome).foldl (fun s e => s.destroyCtx e.1) { s with dbg := { s.dbg with frozen := false, debugMode := true } }

/-- The running context faulted. -/
def State.faultRunning (s : State) : State :=
  match s.running with
  | some n => s.modCtx n fun x => { x with faulted := true }
  | none => s

theorem State.thaw_frozen {s : State} (h : s.dbg.frozen = true) : s.thaw = s.unsealed.faultRunning := if_neg (by simp [h])

theorem CtxsLeave.faultRunning (s : State) : CtxsLeave s s.faultRunning := by
  unfold State.faultRunning
  split
  · exact .ofStay (.modCtx _ _ fun _ => rfl)
  · exact .same s

theorem State.faultRunning_faulted (s : State) (n : CtxId) (x : Ctx) (hn : s.faultRunning.running = some n) (hx : s.faultRunning.ctx? n = some x) :
    x.faulted = true := by
  unfold State.faultRunning at hn hx
  split at hn
  · rename_i m hm
    rw [State.modCtx_running, hm] at hn
    obtain rfl := Option.some.inj hn
    simp only [hm] at hx
    cases hctx : s.ctx? m with
    | none => simp [State.modCtx, hctx] at hx
    | some y =>
      rw [State.ctx?_modCtx_same hctx] at hx
      exact Option.some.inj hx ▸ rfl
  · rename_i hnone
    simp [hnone] at hn

/-- Settles O33: the sealed contexts go one after the other (`State.destroyAll_absent`), and nothing that follows brings one back. -/
theorem thawEntersDebugMode : Obligations.ThawEntersDebugMode := by
  unfold Obligations.ThawEntersDebugMode
  intro src s hsrc hfrozen
  obtain ⟨hleave, hgone⟩ := State.destroyAll_absent (s.ctxs.filter fun e => e.2.sealing.isSome)
    { s with dbg := { s.dbg with frozen := false, debugMode := true } }
  have hfault := CtxsLeave.faultRunning s.unsealed
  have hdbg : s.unsealed.faultRunning.dbg = { s.dbg with frozen := false, debugMode := true } := hfault.dbg.trans hleave.dbg
  refine ⟨_, congrArg Host.Outcome.next ((if_neg hsrc).trans (State.thaw_frozen hfrozen)), ?_, ?_,
    fun e he hsealed => ?_, s.unsealed.faultRunning_faulted⟩
  · rw [hdbg]
  · rw [hdbg]
  · exact hfault.absent _ (hgone e (List.mem_filter.mpr ⟨he, hsealed⟩))

/-! ### Reads (R463, R464, R489, R497) -/

/-- The read-out of a die's slice and of its plates is 0 while a sealing or sealed context runs. -/
theorem State.regionByte_sealed {s : State} (h : s.runSealed = true) (d : DieId) (o : Nat) :
    s.regionByte (.slice d) o = 0 ∧ s.regionByte (.plates d) o = 0 :=
  ⟨if_pos (by simp [h]), if_pos (by simp [h])⟩

/-! ### Snapshot copies (R467) -/

theorem SameBlock.store {m m' : Moving} {c : CtxId} {side : Side} {i len : Nat} {bs : List Byte} (h : m.store c side i len bs = .ok m') :
    SameBlock m.s m'.s := by
  unfold Moving.store at h
  split at h
  · cases h
    exact .send _
  · split at h
    · cases h
    · cases h
      exact .send _
    · split at h
      · cases h
      · rename_i hwrite
        obtain ⟨f, rfl⟩ := hbmWrite_frame hwrite
        cases h
        exact .modHbm f

theorem SameBlock.writeAll (n : CtxId) (v len : Nat) : ∀ (k i : Nat) (bs : List Byte) (m : Moving), SameBlock m.s (m.writeAll n v len k i bs).1.s
  | 0, _, _, _ => .rfl
  | k + 1, i, bs, m => by
    unfold Moving.writeAll
    split
    · exact .rfl
    · dsimp only
      split
      · exact .rfl
      · rename_i m' hstore
        exact (SameBlock.store hstore).trans (SameBlock.writeAll n v len k _ _ m')

/-- A snapshot copy writes memory and counts, and leaves the cores and slices that it copies. -/
theorem State.snapshot_frame (s : State) : SameBlock s s.snapshot.2 := by
  unfold State.snapshot
  dsimp only
  split
  · exact .rfl
  · rename_i n x _
    have hput : ∀ (bs : List Byte) (m : Moving) (t : Option Halt),
        (⟨s, [], 0, 0, false⟩ : Moving).put n s.dbg.copyDst bs = (m, t) → SameBlock s m.s :=
      fun bs m t h => by
        have hframe := SameBlock.writeAll n s.dbg.copyDst bs.length (bs.length + 1) 0 bs ⟨s, [], 0, 0, false⟩
        rwa [show Moving.writeAll _ _ _ _ _ _ _ = (m, t) from h] at hframe
    generalize (if bit s.dbg.copySrc 6 = true then 2 ^ 21 else s.dbg.copyLen) = len
    generalize (if bit s.dbg.copySrc 6 = true then _ else _) = bs
    split
    · exact .rfl
    split
    · exact .rfl
    split
    · exact .rfl
    split
    · exact .rfl
    split
    · dsimp only
      exact .modHbm _
    split
    · rename_i m t hm
      exact hput _ m t hm
    · rename_i m hm
      exact hput _ m none hm

/-- Settles O34: each read is sent under its own conditions, and the snapshot copy keeps what `State.snapshot_frame` says. -/
theorem readPortsAnswer : Obligations.ReadPortsAnswer := by
  unfold Obligations.ReadPortsAnswer
  refine fun s => ⟨fun r off len hfrozen => ?readout, fun d o hrun => State.regionByte_sealed hrun d o, fun off len hreset hinert htrip => ?i3c,
    fun hready hreset htrip hfrozen hwarm => ?telSeq, fun hbusy hboot hreset hwarm htrip hfrozen => ?copied⟩
  case readout => exact congrArg Host.Outcome.next (if_neg (by simp [hfrozen]))
  case i3c => exact congrArg Host.Outcome.next (if_neg (by simp [hreset, hinert, htrip]))
  case telSeq =>
    refine congrArg Host.Outcome.next ((if_neg (by simp [hready, hreset, htrip])).trans (if_neg ?_))
    simp [State.readsClosed, hfrozen, hwarm]
  case copied =>
    have hframe := s.snapshot_frame
    refine ⟨_, congrArg Host.Outcome.next (if_neg (by simp [hbusy, hboot, hreset, hwarm, htrip, hfrozen])), rfl, rfl, hframe.cores, hframe.slices⟩

end Sys2Proof.Machine
end

section
/-! PROOFS. The shares of a control interval, thermal events and resets (R475 to R479, R483 to R490, R505). -/

namespace Sys2Proof.Machine

open Sys2Proof

/-! ### Shares (R476, R477) -/

theorem shareOf_met {n t : Nat} (h : n ≤ t) (r i : Nat) : shareOf n t r i = t / n + if (i + n - r % n) % n < t % n then 1 else 0 :=
  if_neg (Nat.not_lt.mpr h)

/-- Whichever number of a round starts the count, `m` of its `n` numbers are the first `m`. -/
theorem sum_rotated (n m k : Nat) (hm : m ≤ n) : ((List.range n).map fun i => if (i + k) % n < m then 1 else 0).sum = m := by
  have hperiod : Function.Periodic (fun i => i % n < m) n := fun i => by simp
  calc ((List.range n).map fun i => if (i + k) % n < m then 1 else 0).sum
      = ∑ i ∈ Finset.range n, if (i + k) % n < m then 1 else 0 := rfl
    _ = ∑ i ∈ Finset.Ico k (k + n), if i % n < m then 1 else 0 := by
        rw [Finset.sum_Ico_eq_sum_range, Nat.add_sub_cancel_left]
        simp only [Nat.add_comm]
    _ = ((Finset.Ico k (k + n)).filter fun i => i % n < m).card := (Finset.card_filter _ _).symm
    _ = n.count fun i => i % n < m := Nat.filter_Ico_card_eq_of_periodic _ _ _ hperiod
    _ = ((Finset.range n).filter fun i => i % n < m).card := Nat.count_eq_card_filter_range _ _
    _ = (Finset.range m).card := by
        congr 1
        ext i
        simp only [Finset.mem_filter, Finset.mem_range]
        constructor
        · rintro ⟨hi, h⟩
          rwa [Nat.mod_eq_of_lt hi] at h
        · intro h
          have hi := Nat.lt_of_lt_of_le h hm
          exact ⟨hi, by rwa [Nat.mod_eq_of_lt hi]⟩
    _ = m := Finset.card_range m

/-- Settles O44: every share is the quotient or one more, and as many are one more as the remainder says. -/
theorem allowancesStayInRange : Obligations.AllowancesStayInRange := by
  unfold Obligations.AllowancesStayInRange
  intro n t r hn hlo hhi
  have hdiv := Nat.div_add_mod t n
  have hmod := Nat.mod_lt t hn
  have hlow : 1 ≤ t / n := Nat.div_pos hlo hn
  have hhigh : t / n ≤ 16 := Nat.div_le_of_le_mul (by rwa [Nat.mul_comm])
  have hextra : t / n = 16 → t % n = 0 := fun h => by
    rw [h] at hdiv
    omega
  refine ⟨fun i _ => ?range, fun i j _ _ => ?apart, ?sum⟩
  case range =>
    rw [shareOf_met hlo]
    split <;> omega
  case apart =>
    rw [shareOf_met hlo, shareOf_met hlo]
    split <;> split <;> omega
  case sum =>
    have hshare : shareOf n t r = fun i => t / n + if (i + (n - r % n)) % n < t % n then 1 else 0 := by
      funext i
      rw [shareOf_met hlo, Nat.add_sub_assoc (Nat.mod_lt r hn).le]
    rw [hshare, List.sum_map_add, sum_rotated n (t % n) (n - r % n) hmod.le]
    simp only [List.map_const', List.sum_replicate, List.length_range, smul_eq_mul]
    exact hdiv

/-! ### A budget that cannot be met (R478) -/

theorem assoc?_of_const {κ β : Type} [DecidableEq κ] {k : κ} {v : β} : ∀ {l : List (κ × β)},
    (∀ e ∈ l, e.2 = v) → (∃ e ∈ l, e.1 = k) → assoc? k l = some v
  | e :: l, hval, hkey => by
    by_cases h : e.1 = k
    · simp [assoc?, h, hval e List.mem_cons_self]
    · have hrest : ∃ d ∈ l, d.1 = k := by
        obtain ⟨d, hd, hk⟩ := hkey
        rcases List.mem_cons.mp hd with rfl | hd
        · exact absurd hk h
        · exact ⟨d, hd, hk⟩
      simp [assoc?, h, assoc?_of_const (fun d hd => hval d (List.mem_cons_of_mem _ hd)) hrest]

/-- What `State.setAllowances` gives each core of an interval, and what a core is with what is given. -/
def State.given (s : State) (cs : List CoreId) (t : Nat) : List (CoreId × Nat) :=
  cs.zipIdx.map fun e => (e.1, max 1 (shareOf cs.length t s.pw.rotate e.2 - (s.die (.c e.1.die)).reduce))
def State.allowed (s : State) (give : List (CoreId × Nat)) (c : CoreId) (k : Core) : Core :=
  let k := (k.frozenSince (s.tick + c.val)).bankWaits s.timeNs true
  match assoc? c give with
  | some a =>
    let block := if a = k.pw.allowance then k.pw.blockPos else 0
    { k with pw := { k.pw with allowance := a, lending := false, reclaiming := false, blockPos := block } }
  | none => { k with pw := if k.pw.lending && k.pw.reclaiming then { k.pw with lending := false }
                           else if k.pw.lending then { k.pw with allowance := 16, blockPos := 0 } else k.pw }

theorem State.setAllowances_cores (s : State) (cs : List CoreId) (t : Nat) :
    (s.setAllowances cs t).cores = (s.mapCores (s.allowed (s.given cs t))).cores := rfl

theorem State.setAllowances_core (s : State) (cs : List CoreId) (t : Nat) (c : CoreId) :
    (s.setAllowances cs t).core c = s.allowed (s.given cs t) c (s.core c) :=
  (congrArg (Vector.get · c) (s.setAllowances_cores cs t)).trans (core_mapCores s _ c)

theorem State.allowed_given {s : State} {give : List (CoreId × Nat)} {c : CoreId} {a : Nat} (h : assoc? c give = some a) (k : Core) :
    (s.allowed give c k).pw.allowance = a := by
  unfold State.allowed
  rw [h]

/-- Too few sixteenths for the cores of an interval leave each of them one. -/
theorem State.given_unmet {s : State} {cs : List CoreId} {t : Nat} (ht : t < cs.length) {c : CoreId} (hc : c ∈ cs) :
    assoc? c (s.given cs t) = some 1 := by
  refine assoc?_of_const (fun e he => ?_) ?_
  · obtain ⟨d, -, rfl⟩ := List.mem_map.mp he
    have hshare : shareOf cs.length t s.pw.rotate d.2 = 1 := if_pos ht
    dsimp only
    omega
  · obtain ⟨i, hi, rfl⟩ := List.mem_iff_getElem.mp hc
    have hmem : cs[((cs[i], i) : CoreId × Nat).2]? = some cs[i] := List.getElem?_eq_getElem hi
    exact ⟨_, List.mem_map_of_mem (List.mem_zipIdx_iff_getElem?.mpr hmem), rfl⟩

/-- Settles O43: the budget is too small for the cores that wait as well, so it is shared among the computing cores, one sixteenth each. -/
theorem budgetIsSharedEvenly : Obligations.BudgetIsSharedEvenly := by
  unfold Obligations.BudgetIsSharedEvenly
  intro s otherMw unitMw hrun hunit hbudget
  have hwish : (allCores.filter s.computing).length ≤ (allCores.filter fun c => s.computing c || s.asking c).length :=
    (List.monotone_filter_right allCores fun c h => by simp [h]).length_le
  have hcores : ¬(unitMw = 0 ∨ 16 * (allCores.filter fun c => s.computing c || s.asking c).length ≤ (s.pw.limitW * 1000 - otherMw) * 16 / unitMw) := by
    omega
  have hshared : min (16 * (allCores.filter s.computing).length) ((s.pw.limitW * 1000 - otherMw) * 16 / unitMw) =
      (s.pw.limitW * 1000 - otherMw) * 16 / unitMw := by omega
  have hexec : exec (.controlInterval otherMw unitMw) s = .next
      { s.setAllowances (allCores.filter s.computing) ((s.pw.limitW * 1000 - otherMw) * 16 / unitMw) with
        pw := { (s.setAllowances (allCores.filter s.computing) ((s.pw.limitW * 1000 - otherMw) * 16 / unitMw)).pw with limitUnmet := true } } := by
    refine congrArg Host.Outcome.next ((if_neg (by simp [hrun])).trans ?_)
    dsimp only
    rw [if_neg hcores, if_neg hunit.ne', hshared, if_pos hbudget]
  have hgiven : ∀ c, s.computing c = true →
      ((s.setAllowances (allCores.filter s.computing) ((s.pw.limitW * 1000 - otherMw) * 16 / unitMw)).core c).pw.allowance = 1 := fun c hc => by
    rw [State.setAllowances_core]
    exact State.allowed_given (State.given_unmet hbudget (List.mem_filter.mpr ⟨List.mem_finRange c, hc⟩)) _
  generalize s.setAllowances _ _ = u at hexec hgiven
  exact ⟨_, hexec, rfl, hgiven⟩

end Sys2Proof.Machine
end

section
/-! PROOFS. Thermal events and resets (R479, R483 to R490, R505). -/

namespace Sys2Proof.Machine

open Sys2Proof

/-! ### Resets (R483 to R486, R490) -/

theorem State.writeRst_warm {s : State} {v : Nat} (hopen : s.regsOpen = true) (hkey : field v 16 16 = 0x574D) (hbit : bit v 0 = true)
    (hupd : s.host.updating = false) (hop : s.host.operational = true) (hhalt : s.clk.halted = false) : s.writeRst v = s.afterWarm :=
  if_pos (by simp [hopen, hkey, hbit, hupd, hop, hhalt])

/-- Settles O39: the states after the resets are `State.afterCold`, that with the sticky fields, and `State.afterWarm`. -/
theorem resetsLeaveWhatTheyMust : Obligations.ResetsLeaveWhatTheyMust := by
  unfold Obligations.ResetsLeaveWhatTheyMust
  refine fun s => ⟨⟨s.afterCold, rfl, rfl, rfl, rfl, rfl, rfl, rfl, rfl, rfl⟩, ⟨_, rfl, rfl, rfl, rfl, rfl, rfl, rfl, rfl, rfl⟩,
    fun v hopen hkey hbit hupd hop hhalt => ?warm⟩
  exact ⟨_, congrArg Host.Outcome.next (State.writeRst_warm hopen hkey hbit hupd hop hhalt), rfl, rfl, rfl, rfl, satAt_eq_min _ _, rfl, rfl, rfl, rfl,
    rfl, rfl, rfl, rfl, rfl⟩

/-! ### Temperatures (R489) -/

theorem State.setTemp_die (s : State) (d : DieCode) (degC : Nat) :
    (s.setTemp (.die d) degC).die d = { s.die d with temp := degC, peak := max (s.die d).peak degC } := vmod_get_same _ _ _

theorem State.setTemp_stack (s : State) (n : Fin 12) (degC : Nat) : (s.setTemp (.stack n) degC).pw.stackTemp.get n = degC := by
  exact Vector.getElem_set_self n.isLt

/-! ### Thermal rationing (R479) -/

/-- A core of a die that is above its limit. -/
def Core.rationed (now : Nat) (k : Core) : Core :=
  { k.bankWaits now true with pw := { (k.bankWaits now true).pw with allowance := max 1 ((k.bankWaits now true).pw.allowance - 1) } }

/-- Above TEMP_LIMIT the reduction of a die goes up and the allowance of its cores down. -/
theorem State.rationDie_hot {s : State} {d : DieId} (hhot : s.pw.tempLimit < (s.die (.c d)).temp) :
    ((s.rationDie d).die (.c d)).reduce = min 15 ((s.die (.c d)).reduce + 1) ∧ ((s.rationDie d).die (.c d)).temp = (s.die (.c d)).temp ∧
      ∀ c, (s.rationDie d).core c = if c.die = d then (s.core c).rationed s.timeNs else s.core c := by
  refine ⟨?_, ?_, fun c => ?_⟩
  · simp [State.rationDie, State.die, show s.pw.tempLimit < (s.dies.get (DieCode.c d).num).temp from hhot]
  · simp [State.rationDie, State.die]
  · simp only [State.rationDie, State.core, State.mapCores_cores, Vector.get_ofFn, State.modDie_cores, State.modDie_timeNs, hhot, decide_true,
      Bool.true_or, if_true]
    rfl

/-- Rationing leaves the slices, HBM and the temperatures of the stacks. -/
structure SameStacks (s t : State) : Prop where
  slices : t.slices = s.slices
  hbm : t.hbm = s.hbm
  stackTemp : t.pw.stackTemp = s.pw.stackTemp

theorem SameStacks.rationDie (s : State) (d : DieId) : SameStacks s (s.rationDie d) := by
  constructor <;> simp [State.rationDie]

theorem SameStacks.rationDies (l : List DieId) (s : State) : SameStacks s (l.foldl (fun s d => s.rationDie d) s) :=
  List.foldlRecOn (motive := SameStacks s) l _ ⟨rfl, rfl, rfl⟩ fun t h d _ => by
    have hd := SameStacks.rationDie t d
    exact ⟨hd.slices.trans h.slices, hd.hbm.trans h.hbm, hd.stackTemp.trans h.stackTemp⟩

/-! ### Alerts and trips (R505) -/

/-- A die that alerts asserts ALERT_N. -/
theorem State.setAlert_of_die {s : State} {d : DieCode} (h : (s.die d).alert = true) : s.setAlert.pins.alert = true := by
  have hany : (s.dies.toList.any fun d => d.alert) = true :=
    List.any_eq_true.mpr ⟨s.die d, by simp [State.die, Vector.get], h⟩
  simp [State.setAlert, hany]

/-- The temperature at which a source trips. -/
def tripAt : TempSrc → Nat
  | .stack _ => 105
  | _ => 115

/-- Settles O41: each event acts on a device whose sensors run, after it has set the temperature. -/
theorem thermalEventsAct : Obligations.ThermalEventsAct := by
  unfold Obligations.ThermalEventsAct
  intro s hsense hboot
  refine ⟨fun d t0 hfrozen hhot => ?ration, fun n t0 => ?stack, fun d t0 halert => ?alert, fun src t0 htrip => ?trip, fun src t0 hcool => ?cool⟩
  case ration =>
    have hdie := s.setTemp_die (.c d) t0
    obtain ⟨hreduce, htemp, hcores⟩ := State.rationDie_hot (s := s.setTemp (.die (.c d)) t0) (d := d) (by rw [hdie]; exact hhot)
    refine ⟨_, congrArg Host.Outcome.next (if_pos (by simp [hsense, hboot, hfrozen])), ?_, ?_, fun c => ?_, (SameStacks.rationDie _ d).slices⟩
    · rw [hreduce, hdie]
    · rw [htemp, hdie]
    · rw [hcores c]
      split <;> rfl
  case stack =>
    refine ⟨_, congrArg Host.Outcome.next (if_pos (by simp [hsense, hboot])), ?_⟩
    dsimp only
    have htemp := s.setTemp_stack n t0
    split
    · exact ⟨htemp, rfl, rfl⟩
    · have hrest := SameStacks.rationDies (DieCode.computes (.b ⟨n.val / 3, by omega⟩)) (s.setTemp (.stack n) t0)
      refine ⟨?_, hrest.slices, hrest.hbm⟩
      rw [hrest.stackTemp]
      exact htemp
  case alert =>
    have hdie : ∀ f : DieSt → DieSt, ((s.setTemp (.die d) t0).modDie d f).die d = f _ := fun f => vmod_get_same _ _ f
    refine ⟨_, congrArg Host.Outcome.next (if_pos hsense), State.setAlert_of_die (d := d) ?_, ?_, rfl⟩
    · rw [hdie]
      simp [alertAt, halert]
    · exact (congrArg DieSt.temp (hdie _)).trans (congrArg DieSt.temp (s.setTemp_die d t0))
  case trip =>
    have htop : ¬ t0 < tripAt src := Nat.not_lt.mpr (by cases src <;> exact htrip)
    exact ⟨_, congrArg Host.Outcome.next ((if_pos hsense).trans (if_neg htop)), rfl, rfl, rfl⟩
  case cool =>
    have htop : t0 < tripAt src := by cases src <;> exact hcool
    exact congrArg Host.Outcome.next ((if_pos hsense).trans (if_pos htop))

end Sys2Proof.Machine
end

section
/-! PROOFS. The SPDM responder and IDE key management (R399, R402 to R404, R424). -/

namespace Sys2Proof.Machine

open Sys2Proof

/-! ### Requests -/

/-- A request of a session is a request. -/
theorem State.inSession_spdm (s : State) (id : Nat) (body : State → Session → State) : ∃ ready whole, s.inSession id body = s.spdm ready whole :=
  ⟨_, _, rfl⟩

section request
variable {s : State} (hopen : s.spdmOpen = true)
include hopen

/-- A request that the negotiation allows is answered by its body. -/
theorem State.spdm_ready (hupd : s.host.updating = false) {ready : Bool} (hready : ready = true) (body : State → State) :
    s.spdm ready body = .next (body s) :=
  congrArg Host.Outcome.next ((if_neg (by simp [hopen])).trans ((if_neg (by simp [hupd])).trans (if_neg (by simp [hready]))))

/-- During an activation every request answers ERROR Busy (R404). -/
theorem State.spdm_busy (hupd : s.host.updating = true) (ready : Bool) (body : State → State) : s.spdm ready body = .next (s.spdmError 3) :=
  congrArg Host.Outcome.next ((if_neg (by simp [hopen])).trans (if_pos hupd))

variable (hupd : s.host.updating = false) (hneg : s.sec.negotiated = true)
include hupd hneg

/-- A request of an established session is answered by its body. -/
theorem State.inSession_established {id : Nat} {n : Session} (hn : s.sec.session? id = some n) (he : n.established = true)
    (body : State → Session → State) : s.inSession id body = .next (body s n) := by
  refine (State.spdm_ready hopen hupd hneg _).trans (congrArg Host.Outcome.next ?_)
  rw [hn]
  exact if_pos he

theorem exec_finish_establishes {id : Nat} {n : Session} (hn : s.sec.session? id = some n) (he : n.established = false) :
    exec (.finish id true) s = .next ((s.modSession id fun t => { t with established := true }).send
      (.spdm (spdmMsg 0x65 0 0 (Config.spdmBody 0x65 [id])))) := by
  show execFinish id true s = _
  refine (State.spdm_ready hopen hupd hneg _).trans (congrArg Host.Outcome.next ?_)
  rw [hn]
  exact (if_neg (by simp [he])).trans (if_pos rfl)

end request

/-! ### Sessions -/

/-- A change of a session that keeps its number is found under it. -/
theorem State.session?_modSession {s : State} {id : Nat} {n : Session} (hn : s.sec.session? id = some n) {f : Session → Session}
    (hid : ∀ t, (f t).id = t.id) : (s.modSession id f).sec.session? id = some (f n) := by
  have hnid : n.id = id := by simpa using List.find?_some hn
  have hkeep : ∀ t : Session, (if t.id = id then f t else t).id = t.id := fun t => by
    split
    · exact hid t
    · rfl
  have hpred : (fun t : Session => t.id == id) ∘ (fun t => if t.id = id then f t else t) = fun t => t.id == id := by
    funext t
    simp [hkeep]
  have hfind : s.sec.sessions.find? (fun t => t.id == id) = some n := hn
  show (s.sec.sessions.map fun t => if t.id = id then f t else t).find? (fun t => t.id == id) = some (f n)
  rw [List.find?_map, hpred, hfind, Option.map_some, if_pos hnid]

theorem State.session?_dropSession (s : State) (id : Nat) : (s.dropSession id).sec.session? id = none := by
  refine List.find?_eq_none.mpr fun t ht => ?_
  simpa using of_decide_eq_true (List.mem_filter.mp ht).2

/-! ### IDE key management (R424) -/

theorem modStream_length {id : Nat} {f : IdeStream → IdeStream} {l : List IdeStream} (h : l.length ≤ 8) : (modStream id f l).length ≤ 8 := by
  unfold modStream
  split
  · rwa [List.length_map]
  · split
    · rw [List.length_append, List.length_singleton]
      omega
    · exact h

theorem ideKm_length (l : List IdeStream) (m : IdeKm) (h : l.length ≤ 8) : (ideKm m l).length ≤ 8 := by
  cases m with
  | query => exact h
  | keyProg | assoc => exact modStream_length h
  | setGo | setStop => exact (List.length_map _).trans_le h

/-- Settles O38: an established session's request is its body, FINISH establishes, and IDE_KM maps the streams. -/
theorem spdmSessionsOpenAndClose : Obligations.SpdmSessionsOpenAndClose := by
  unfold Obligations.SpdmSessionsOpenAndClose
  refine ⟨fun id n s hopen hupd hneg hn => ⟨fun he => ?finish, fun he => ⟨?heartbeat, ?keyUpdate, ?endSession, fun m => ?ide⟩⟩,
    fun l id set k hk hid => ⟨fun hset => ?go, fun hset => ?incomplete, ?stop⟩, ideKm_length⟩
  case finish =>
    refine ⟨_, exec_finish_establishes hopen hupd hneg hn he, fun k hk hid => ?_, List.length_map _⟩
    obtain ⟨t, -, rfl⟩ := List.mem_map.mp hk
    split at hid <;> simp_all
  case heartbeat =>
    show execHeartbeat id s = _
    exact State.inSession_established hopen hupd hneg hn he _
  case keyUpdate =>
    have hexec : execKeyUpdate id s = _ := State.inSession_established hopen hupd hneg hn he _
    exact ⟨_, _, hexec, State.session?_modSession hn fun _ => rfl, rfl, rfl⟩
  case endSession =>
    have hexec : execEndSession id s = _ := State.inSession_established hopen hupd hneg hn he _
    exact ⟨_, hexec, s.session?_dropSession id⟩
  case ide =>
    have hexec : execVendorDefinedRequest id m s = _ := State.inSession_established hopen hupd hneg hn he _
    exact ⟨_, hexec, rfl, rfl⟩
  case go => exact List.mem_map.mpr ⟨k, hk, if_pos (by simp [hid, hset])⟩
  case incomplete => exact List.mem_map.mpr ⟨k, hk, if_neg (by simp [hset])⟩
  case stop => exact List.mem_map.mpr ⟨k, hk, if_pos hid⟩

/-! ### Messages -/

theorem spdmMsg_eq (code p1 p2 : Nat) (body : List Byte) : spdmMsg code p1 p2 body =
    BitVec.ofNat 8 0x13 :: BitVec.ofNat 8 code :: BitVec.ofNat 8 p1 :: BitVec.ofNat 8 p2 :: body := by
  simp [spdmMsg, leBytes]

/-- A portion of the certificate chain lies behind its length, in the eight bytes of the header. -/
theorem certificate_layout {bs : List Byte} (hlen : bs.length < 2 ^ 16) (rest : Nat) :
    let m := spdmMsg 0x02 0 0 (leBytes 2 bs.length ++ leBytes 2 rest ++ bs)
    fieldAt m 1 1 = 0x02 ∧ m.drop 8 = bs ∧ fieldAt m 4 2 = (m.drop 8).length := by
  dsimp only
  have hdrop : (spdmMsg 0x02 0 0 (leBytes 2 bs.length ++ leBytes 2 rest ++ bs)).drop 8 = bs := by simp [spdmMsg_eq, leBytes]
  refine ⟨by simp [spdmMsg_eq, fieldAt, leNat], hdrop, ?_⟩
  have hfield : fieldAt (spdmMsg 0x02 0 0 (leBytes 2 bs.length ++ leBytes 2 rest ++ bs)) 4 2 = leNat (leBytes 2 bs.length) := by
    simp [spdmMsg_eq, fieldAt, leBytes]
  rw [hdrop, hfield, leNat_leBytes]
  exact Nat.mod_eq_of_lt hlen

/-- After `s` a message was sent that ends in a signature over a transcript and itself (R402). -/
def State.Signs (s t : State) (m : List Byte) : Prop :=
  ∃ pre : List Byte,
    let sig := ecdsaSign s.sec.aliasKey (sha512 (pre ++ m))
    t.out = .spdm (m ++ (leBytes 66 sig.1).reverse ++ (leBytes 66 sig.2).reverse) :: s.out

theorem State.Signs.send {s u : State} (hkey : u.sec.aliasKey = s.sec.aliasKey) (hout : u.out = s.out) (code : Nat) (inputs : List Nat)
    (m : List Byte) : s.Signs (u.send (.spdm (u.spdmSigned code inputs m))) m := by
  refine ⟨Config.spdmBody code inputs, ?_⟩
  unfold State.spdmSigned
  rw [hkey]
  exact congrArg _ hout

/-- A draw of the generator leaves what is signed. -/
theorem State.random_certChain (s : State) : s.random.2.certChain = s.certChain := rfl

/-- The state with one more session, which is not established. -/
def State.withSession (s : State) (secret : Nat) : State :=
  { s with sec := { s.sec with sessions := s.sec.sessions ++ [⟨s.sec.nextSession, false, secret, 0⟩], nextSession := s.sec.nextSession + 1 } }

section answers
variable {s : State} (hopen : s.spdmOpen = true) (hupd : s.host.updating = false)
include hopen hupd

theorem exec_getCertificate_portion {off : Nat} (len : Nat) (hneg : s.sec.negotiated = true) (hoff : off < s.certChain.length) :
    let bs := (s.certChain.drop off).take (min len 0xFFFF)
    exec (.getCertificate 0 off len) s = .next (s.send
      (.spdm (spdmMsg 0x02 0 0 (leBytes 2 bs.length ++ leBytes 2 (s.certChain.length - off - bs.length) ++ bs)))) := by
  have hexec : execGetCertificate 0 off len s = _ := State.spdm_ready hopen hupd hneg _
  exact hexec.trans (congrArg Host.Outcome.next (if_neg (by omega)))

theorem exec_challenge_signs (nonce : Nat) (hsign : s.sec.canSign = true) :
    ∃ t r, exec (.challenge 0 nonce) s = .next t ∧ r.length = 32 ∧
      s.Signs t (spdmMsg 0x03 0 1 (leBytes 64 (sha512 s.certChain) ++ r ++ leBytes 2 0)) ∧ t.sec.sessions = s.sec.sessions := by
  have hexec : execChallenge 0 nonce s = _ := State.spdm_ready hopen hupd hsign _
  refine ⟨_, leBytes 32 s.random.1, hexec.trans (congrArg Host.Outcome.next (if_neg fun h => h rfl)), leBytes_length _ _, ?_, rfl⟩
  dsimp only
  rw [State.random_certChain]
  exact State.Signs.send rfl rfl _ _ _

theorem exec_keyExchange_signs {x y : Nat} (hsign : s.sec.canSign = true) (hdhe : s.sec.spdmAlgs.dheSecp521 = true)
    (haes : s.sec.spdmAlgs.aesGcm256 = true) (hon : onP521 x y = true) :
    ∃ t k body, exec (.keyExchange 0 x y) s = .next t ∧ s.Signs t (spdmMsg 0x64 0 0 body) ∧
      t.sec.sessions = s.sec.sessions ++ [⟨s.sec.nextSession, false, ecdhShared k x y, 0⟩] ∧ t.sec.nextSession = s.sec.nextSession + 1 := by
  have hexec : execKeyExchange 0 x y s = _ := State.spdm_ready hopen hupd (by simp [hsign, hdhe, haes]) _
  let k := s.random.1 % (p521N - 1) + 1
  have hnext : exec (.keyExchange 0 x y) s = .next ((s.random.2.withSession (ecdhShared k x y)).send
      (.spdm ((s.random.2.withSession (ecdhShared k x y)).spdmSigned 0xE4 [x, y]
        (spdmMsg 0x64 0 0 (Config.spdmBody 0x64 [s.sec.nextSession, (ecdhPublic k).1, (ecdhPublic k).2]))))) :=
    hexec.trans (congrArg Host.Outcome.next (if_neg (by simp [hon])))
  exact ⟨_, k, _, hnext, State.Signs.send rfl rfl _ _ _, rfl, rfl⟩

end answers

/-! ### Measurements (R403) -/

/-- The blocks of indices that are all present. -/
theorem State.blocks_present {s : State} : ∀ {l : List Nat}, (∀ k ∈ l, (s.measurement k).isSome = true) →
    (l.filterMap fun i => (s.measurement i).map (measurementBlock i)) = l.map fun k => measurementBlock k ((s.measurement k).getD [])
  | [], _ => rfl
  | k :: l, h => by
    obtain ⟨v, hv⟩ := Option.isSome_iff_exists.mp (h k List.mem_cons_self)
    rw [List.filterMap_cons, hv, List.map_cons, hv, State.blocks_present fun j hj => h j (List.mem_cons_of_mem _ hj)]
    rfl

/-- The indices that a request names (R403). -/
def wantedIndices (i : Nat) : List Nat := if i = 0xFF then measurementIndices else if i = 0 then [] else [i]

/-- The body of MEASUREMENTS before its random number. -/
def State.measurementRecord (s : State) (i : Nat) : List Byte :=
  let blocks := (wantedIndices i).flatMap fun k => measurementBlock k ((s.measurement k).getD [])
  leBytes 1 (wantedIndices i).length ++ leBytes 3 blocks.length ++ blocks

section measurements
variable {s : State} (hopen : s.spdmOpen = true) (hupd : s.host.updating = false) {i : Nat} {signed : Bool}
  (hready : (if signed then s.sec.canSign else s.sec.negotiated) = true)
include hopen hupd hready

theorem exec_getMeasurements_present (nonce : Nat) (h : ∀ k ∈ wantedIndices i, (s.measurement k).isSome = true) :
    ∃ t r, exec (.getMeasurements i signed nonce) s = .next t ∧ r.length = 32 ∧
      let m := spdmMsg 0x60 (if i = 0 then measurementIndices.length else 0) 0 (s.measurementRecord i ++ r ++ leBytes 2 0)
      (signed = false → t.out = .spdm m :: s.out) ∧ (signed = true → s.Signs t m) := by
  have hexec : execGetMeasurements i signed nonce s = _ := State.spdm_ready hopen hupd hready _
  have hblocks := State.blocks_present h
  have hlen : ((wantedIndices i).filterMap fun k => (s.measurement k).map (measurementBlock k)).length = (wantedIndices i).length := by
    rw [hblocks, List.length_map]
  have hbody : leBytes 1 ((wantedIndices i).filterMap fun k => (s.measurement k).map (measurementBlock k)).length ++
      leBytes 3 ((wantedIndices i).filterMap fun k => (s.measurement k).map (measurementBlock k)).flatten.length ++
      ((wantedIndices i).filterMap fun k => (s.measurement k).map (measurementBlock k)).flatten = s.measurementRecord i := by
    rw [hlen, hblocks, ← List.flatMap_def]
    rfl
  let m := spdmMsg 0x60 (if i = 0 then measurementIndices.length else 0) 0 (s.measurementRecord i ++ leBytes 32 s.random.1 ++ leBytes 2 0)
  have hnext : exec (.getMeasurements i signed nonce) s =
      .next (s.random.2.send (.spdm (if signed then s.random.2.spdmSigned 0xE0 [i, nonce] m else m))) := by
    refine hexec.trans (congrArg Host.Outcome.next ((if_neg (not_not.mpr hlen)).trans ?_))
    dsimp only
    rw [show (if i = 255 then measurementIndices else if i = 0 then [] else [i]) = wantedIndices i from rfl, hbody]
  refine ⟨_, leBytes 32 s.random.1, hnext, leBytes_length _ _, fun hs => ?_, fun hs => ?_⟩
  · rw [hs]
    rfl
  · rw [hs]
    exact State.Signs.send rfl rfl _ _ _

theorem exec_getMeasurements_absent (nonce : Nat) (h0 : i ≠ 0) (hff : i ≠ 0xFF) (hnone : s.measurement i = none) :
    exec (.getMeasurements i signed nonce) s = .next (s.spdmError 1) := by
  have hexec : execGetMeasurements i signed nonce s = _ := State.spdm_ready hopen hupd hready _
  refine hexec.trans (congrArg Host.Outcome.next (if_pos ?_))
  simp [h0, hff, hnone]

end measurements

/-- Settles O37: each answer is its request's body, a signature is over what `State.Signs` says, and an activation answers Busy. -/
theorem spdmAnswersWithItsCommand : Obligations.SpdmAnswersWithItsCommand := by
  unfold Obligations.SpdmAnswersWithItsCommand
  refine ⟨fun s hopen hupd => ?connection, fun c s hopen hupd hc => ?busy⟩
  case connection =>
    intro signedBy
    refine ⟨?version, fun hv => ?caps, fun a hv hc => ⟨fun ho => ?algorithms, fun ho => ?noneOffered⟩, fun hneg => ?digests,
      fun slot off len hneg => ⟨fun hslot hoff => ?portion, fun h => ?beyond⟩, fun nonce hsign => exec_challenge_signs hopen hupd nonce hsign,
      fun i signed nonce hready => ?measured, fun x y hsign hdhe haes hon => exec_keyExchange_signs hopen hupd hsign hdhe haes hon⟩
    case version =>
      show execGetVersion s = _
      exact State.spdm_ready hopen hupd rfl _
    case caps =>
      have hexec : execGetCapabilities s = _ := State.spdm_ready hopen hupd hv _
      exact ⟨_, hexec⟩
    case algorithms =>
      have hexec : execNegotiateAlgorithms a s = _ := State.spdm_ready hopen hupd (by simp [hv, hc]) _
      exact ⟨_, hexec.trans (congrArg Host.Outcome.next (if_pos ho))⟩
    case noneOffered =>
      have hexec : execNegotiateAlgorithms a s = _ := State.spdm_ready hopen hupd (by simp [hv, hc]) _
      exact hexec.trans (congrArg Host.Outcome.next (if_neg (by simp [ho])))
    case digests =>
      show execGetDigests s = _
      exact State.spdm_ready hopen hupd hneg _
    case portion =>
      subst hslot
      have hlen : ((s.certChain.drop off).take (min len 0xFFFF)).length < 2 ^ 16 := by
        rw [List.length_take]
        omega
      obtain ⟨hcode, hdrop, hfield⟩ := certificate_layout hlen (s.certChain.length - off - ((s.certChain.drop off).take (min len 0xFFFF)).length)
      exact ⟨_, exec_getCertificate_portion hopen hupd len hneg hoff, hcode, hdrop, hfield⟩
    case beyond =>
      have hexec : execGetCertificate slot off len s = _ := State.spdm_ready hopen hupd hneg _
      exact hexec.trans (congrArg Host.Outcome.next (if_pos h))
    case measured =>
      intro wanted blocks
      exact ⟨exec_getMeasurements_present hopen hupd hready nonce, fun h0 hff hnone => exec_getMeasurements_absent hopen hupd hready nonce h0 hff hnone⟩
  case busy =>
    obtain ⟨ready, body, hexec⟩ : ∃ ready body, exec c s = s.spdm ready body := by
      rcases hc with rfl | rfl | ⟨a, rfl⟩ | rfl | ⟨i, j, k, rfl⟩ | ⟨i, j, rfl⟩ | ⟨i, j, k, rfl⟩ | ⟨i, j, k, rfl⟩ | ⟨i, j, rfl⟩ | ⟨i, rfl⟩ |
        ⟨i, rfl⟩ | ⟨i, rfl⟩ | ⟨i, m, rfl⟩
      · exact ⟨_, _, (rfl : _ = execGetVersion s)⟩
      · exact ⟨_, _, (rfl : _ = execGetCapabilities s)⟩
      · exact ⟨_, _, (rfl : _ = execNegotiateAlgorithms a s)⟩
      · exact ⟨_, _, (rfl : _ = execGetDigests s)⟩
      · exact ⟨_, _, (rfl : _ = execGetCertificate i j k s)⟩
      · exact ⟨_, _, (rfl : _ = execChallenge i j s)⟩
      · exact ⟨_, _, (rfl : _ = execGetMeasurements i j k s)⟩
      · exact ⟨_, _, (rfl : _ = execKeyExchange i j k s)⟩
      · exact ⟨_, _, (rfl : _ = execFinish i j s)⟩
      · show ∃ ready body, execHeartbeat i s = _
        exact State.inSession_spdm s i _
      · show ∃ ready body, execKeyUpdate i s = _
        exact State.inSession_spdm s i _
      · show ∃ ready body, execEndSession i s = _
        exact State.inSession_spdm s i _
      · show ∃ ready body, execVendorDefinedRequest i m s = _
        exact State.inSession_spdm s i _
    exact hexec.trans (State.spdm_busy hopen hupd ready body)

end Sys2Proof.Machine
end

section
/-! PROOFS. FRAME_SCRUB (R413). -/

namespace Sys2Proof.Machine

open Sys2Proof

/-- Where the bytes of a sealed part lie, and HBM with the parts of a list overwritten. -/
def partKey (j : Nat) : Nat := hbmKey (j / 2 ^ 24) (j % 2 ^ 24 * 16384)
def clearParts (m : Sparse Byte) (parts : List Nat) : Sparse Byte := parts.foldl (fun m j => sclear m (partKey j) 16384) m

/-- A byte outside every part of the list keeps its value. -/
theorem sget_clearParts_outside {a : Nat} : ∀ {parts : List Nat} (m : Sparse Byte),
    (∀ j ∈ parts, a < partKey j ∨ partKey j + 16384 ≤ a) → sget 0 (clearParts m parts) a = sget 0 m a
  | [], _, _ => rfl
  | j :: parts, m, h => by
    have hj := h j List.mem_cons_self
    refine (sget_clearParts_outside (sclear m (partKey j) 16384) fun i hi => h i (List.mem_cons_of_mem _ hi)).trans ?_
    rw [sget_sclear, if_neg (by omega)]

/-- A byte that is 0 stays 0. -/
theorem sget_clearParts_zero {a : Nat} : ∀ (parts : List Nat) {m : Sparse Byte}, sget 0 m a = 0 → sget 0 (clearParts m parts) a = 0
  | [], _, h => h
  | j :: parts, m, h => by
    refine sget_clearParts_zero parts (m := sclear m (partKey j) 16384) ?_
    rw [sget_sclear]
    split
    · rfl
    · exact h

/-- A byte within a part of the list reads 0. -/
theorem sget_clearParts_inside {a j : Nat} (ha : partKey j ≤ a ∧ a < partKey j + 16384) :
    ∀ {parts : List Nat} (m : Sparse Byte), j ∈ parts → sget 0 (clearParts m parts) a = 0
  | i :: parts, m, h => by
    rcases List.mem_cons.mp h with rfl | h
    · refine sget_clearParts_zero parts (m := sclear m (partKey j) 16384) ?_
      rw [sget_sclear, if_pos ha]
    · exact sget_clearParts_inside ha (sclear m (partKey i) 16384) h

/-- The state after a scrub of one frame, whose waiting parts are these. -/
def State.scrubbed (s : State) (parts : List Nat) : State :=
  s.modHbm fun h => { h with mem := clearParts h.mem parts, sealedFrames := h.sealedFrames.filter fun e => e.1 ∉ parts,
                             scrubbing := h.scrubbing.filter fun j => j ∉ parts }

theorem exec_frameScrub_scrubs {s : State} {k : Nat} {ks : List Nat} (hboot : s.clk.booted = true) (hreset : s.clk.inReset = false)
    (htrip : s.clk.tripped = false) (hfrozen : s.dbg.frozen = false) (hwait : s.hbm.scrubbing = k :: ks) :
    exec .frameScrub s = .next (s.scrubbed (s.hbm.scrubbing.filter fun j => j / 128 = k / 128)) := by
  refine congrArg Host.Outcome.next ((if_neg (by simp [hboot, hreset, htrip, hfrozen])).trans ?_)
  simp only [hwait]
  rfl

/-- Settles O25: the parts of the first waiting part's frame are cleared and are in no list any more. -/
theorem frameScrubZeroes : Obligations.FrameScrubZeroes := by
  unfold Obligations.FrameScrubZeroes
  intro s k ks hboot hreset htrip hfrozen _ hwait
  refine ⟨_, exec_frameScrub_scrubs hboot hreset htrip hfrozen hwait, .modHbm _, rfl, rfl, fun j hj hframe => ?cleared, fun a ha => ?kept⟩
  case cleared =>
    have hpart : j ∈ s.hbm.scrubbing.filter fun j => j / 128 = k / 128 := List.mem_filter.mpr ⟨hj, decide_eq_true hframe⟩
    refine ⟨fun h => ?_, fun e he hej => ?_, fun i hi => ?_⟩
    · exact of_decide_eq_true (List.mem_filter.mp h).2 hpart
    · exact of_decide_eq_true (List.mem_filter.mp he).2 (hej ▸ hpart)
    · exact sget_clearParts_inside (j := j) ⟨Nat.le_add_right _ _, Nat.add_lt_add_left hi _⟩ _ hpart
  case kept =>
    exact sget_clearParts_outside _ fun j hj => ha j (List.mem_filter.mp hj).1 (of_decide_eq_true (List.mem_filter.mp hj).2)

end Sys2Proof.Machine
end

section
/-! PROOFS. What faults, stops and chains leave alone. A relation of states that every change of a context, a core, a slice, a bed, the
fabric, the media block, the log or the host interface meets is met by the operations that make only such changes. -/

namespace Sys2Proof.Machine

open Sys2Proof

/-- A preorder of states that bounds no context, core, slice, bed or packet, no job and no record, and of a die no more than whether it is
fenced and loaded. -/
structure Framed (R : State → State → Prop) : Prop where
  same : ∀ s, R s s
  trans : ∀ {s t u}, R s t → R t u → R s u
  block : ∀ {s t}, SameBlock s t → R s t
  ctxs : ∀ s l, R s { s with ctxs := l }
  mapCores : ∀ s f, R s (s.mapCores f)
  modCore : ∀ s c f, R s (s.modCore c f)
  slices : ∀ s l, R s { s with slices := l }
  beds : ∀ s l, R s { s with beds := l }
  modFabric : ∀ s f, R s (s.modFabric f)
  modMedia : ∀ s f, R s (s.modMedia f)
  regs : ∀ s r, R s { s with regs := r }
  log : ∀ s l, R s { s with log := l }
  dbg : ∀ s d, R s { s with dbg := d }
  modDie : ∀ s d {f : DieSt → DieSt}, (∀ k, (f k).fenced = k.fenced ∧ (f k).loaded = k.loaded) → R s (s.modDie d f)

theorem rel_ite {R : State → State → Prop} {p : Prop} [Decidable p] {s a b : State} (ha : R s a) (hb : R s b) : R s (if p then a else b) := by
  split
  · exact ha
  · exact hb

namespace Framed
variable {R : State → State → Prop} (hR : Framed R)
include hR

/-! ### Parts of the state -/

theorem foldl {α : Type} (l : List α) {f : State → α → State} (h : ∀ s a, R s (f s a)) (s : State) : R s (l.foldl f s) :=
  List.foldlRecOn (motive := R s) l f (hR.same s) fun t ht a _ => hR.trans ht (h t a)

theorem putCtx (s : State) (n : CtxId) (x : Ctx) : R s (s.putCtx n x) := hR.ctxs s _

theorem modCtx (s : State) (n : CtxId) (f : Ctx → Ctx) : R s (s.modCtx n f) := by
  unfold State.modCtx
  split
  · exact hR.putCtx s _ _
  · exact hR.same s

theorem modShuffle (s : State) (n : CtxId) (f : Reservoir → Reservoir) : R s (s.modShuffle n f) := hR.modCtx s n _
theorem modQueue (s : State) (c : CoreId) (q : QueueId) (f : Queue → Queue) : R s (s.modQueue c q f) := hR.modCore s c _
theorem modSlice (s : State) (d : DieId) (f : Slice → Slice) : R s (s.modSlice d f) := hR.slices s _
theorem modBed (s : State) (b : BedId) (f : Bed → Bed) : R s (s.modBed b f) := hR.beds s _
theorem modHbm (s : State) (f : Hbm → Hbm) : R s (s.modHbm f) := hR.block (.modHbm f)
theorem send (s : State) (m : OutMsg) : R s (s.send m) := hR.block (.send m)
theorem setSync (s : State) (b : Nat) : R s (s.setSync b) := hR.regs s _
theorem takeFaultId (s : State) : R s s.takeFaultId.2 := hR.log s _
theorem stopCores (s : State) (m : Nat) : R s (s.stopCores m) := hR.mapCores s _

theorem complete (s : State) (h : CmdHdr) (st : Status) (progress fid : Nat) : R s (s.complete h st progress fid) :=
  hR.block (State.complete_frame s h st progress fid)

/-! ### Records, stops and events -/

theorem logFault (s : State) (f : FaultInfo) (body : List (List Byte)) : R s (s.logFault f body).2 := by
  unfold State.logFault
  refine hR.trans ?_ (hR.block (SameBlock.raiseInt intFault))
  have hlog : ∀ l, R s { s.stamp.takeFaultId.2 with log := l } := fun l =>
    hR.trans (hR.trans (hR.block SameBlock.stamp) (hR.takeFaultId s.stamp)) (hR.log _ l)
  split
  · exact hR.trans (hlog _) (hR.modDie _ _ fun _ => ⟨rfl, rfl⟩)
  · exact hlog _

theorem stopProgram (s : State) (n : CtxId) (st : Status) (cls progress fid : Nat) : R s (s.stopProgram n st cls progress fid) := by
  unfold State.stopProgram
  split
  · exact hR.same s
  · split
    · exact rel_ite (hR.same s) (hR.putCtx s _ _)
    · exact hR.trans (hR.putCtx s _ _) (rel_ite (hR.stopCores _ _) (hR.same _))

theorem faultOp (s : State) (n : CtxId) (f : FaultInfo) (body : List (List Byte)) : R s (s.faultOp n f body) :=
  hR.trans (hR.logFault s _ body) (hR.stopProgram _ _ _ _ _ _)

theorem failOp (s : State) (c : CoreId) (u : Cur) (f : FaultInfo) (body : List (List Byte)) : R s (s.failOp c u f body) :=
  hR.trans (hR.modCore s c _) (hR.faultOp _ _ _ _)

theorem failHead (s : State) (n : CtxId) (c : CoreId) (q : QueueId) (st : Status) (struct_ : Nat) (body : List (List Byte)) :
    R s (s.failHead n c q st struct_ body) := by
  unfold State.failHead
  split
  · exact hR.same s
  · exact hR.trans (hR.modQueue s c q _) (hR.faultOp _ _ _ _)

theorem failBroken (s : State) (n : CtxId) : R s (s.failBroken n) := by
  unfold State.failBroken State.failWaiters
  dsimp only
  split
  · exact hR.same s
  · exact hR.foldl _ (fun t e => hR.failHead t _ _ _ _ _ _) s

theorem event (s : State) (n : CtxId) (typ : Nat) (st : Status) (fid : Nat) (body : List (Nat × Nat × Nat)) :
    R s (s.event n typ st fid body) := by
  unfold State.event
  split
  · exact hR.same s
  · dsimp only
    refine hR.trans (hR.trans (hR.block SameBlock.stamp) (hR.modCtx _ n fun x => { x with eventSeq := (x.eventSeq + 1) % 2 ^ 32 })) ?_
    split
    · exact rel_ite (hR.block (.writeEvent _ _ _ _)) (rel_ite (hR.modCtx _ n _) (hR.modCtx _ n _))
    · exact rel_ite (hR.modCtx _ n _) (hR.modCtx _ n _)

/-! ### Answers to held faults (R226) -/

theorem answerOp (s : State) (n : CtxId) (f : HeldFault) (c : CoreId) (q : QueueId) (endIt : Bool) : R s (s.answerOp n f c q endIt) := by
  unfold State.answerOp
  refine hR.trans (hR.modCtx s n fun x => { x with held := x.held.filter fun e => e.id ≠ f.id }) ?_
  dsimp only
  split
  · exact hR.same _
  · split
    · split
      · exact hR.trans (hR.modQueue _ c q _) (hR.stopProgram _ _ _ _ _ _)
      · exact hR.same _
    · exact hR.modCore _ c _

theorem applyAnswers (s : State) (n : CtxId) : R s (s.applyAnswers n) := by
  unfold State.applyAnswers
  refine hR.foldl _ (fun t f => ?_) s
  split
  · exact hR.answerOp _ _ _ _ _ _
  · exact hR.same t

/-! ### Packets and chains (R240, R259, R281) -/

theorem discard (s : State) (n : Nat) : R s (s.discard n) := hR.modFabric s _

theorem enqueue (s : State) (p : Pkt) (at_ : Fin 5) (transit : Bool) : R s (s.enqueue p at_ transit) := by
  unfold State.enqueue
  split
  · exact hR.same s
  · exact rel_ite (hR.discard s 1) (hR.modFabric s _)

theorem touchUnit (s : State) (g : GradConfigP) (b : SentBucket) (unit : Nat) : R s (s.touchUnit g b unit) :=
  hR.foldl _ (fun _ _ => hR.modHbm _ _) s

theorem sendChain (s : State) (n : CtxId) (g : GradConfigP) (src : Fin 5) (k : Chain) : R s (s.sendChain n g src k) := by
  unfold State.sendChain
  dsimp only
  split
  · exact hR.modCtx _ _ _
  · exact hR.trans (hR.trans (hR.modFabric _ _) (hR.modCtx _ _ _)) (hR.enqueue _ _ _ _)

theorem startChain (s : State) (n : CtxId) (g : GradConfigP) (p : Nat) (a : ActiveBucket) (unit : Nat) :
    R s (s.startChain n g p a unit) := by
  unfold State.startChain
  split
  · exact hR.faultOp _ _ _ _
  · exact hR.trans (hR.touchUnit s g a.sent unit) (hR.sendChain _ _ _ _ _)

theorem startShard (s : State) (n : CtxId) (p : Nat) (a : ActiveBucket) : R s (s.startShard n p a) := by
  unfold State.startShard
  split
  · exact hR.same s
  · exact hR.foldl _ (fun t u => hR.startChain t n _ p a u) s

theorem restartGrad (s : State) (n : CtxId) : R s (s.restartGrad n) := by
  unfold State.restartGrad
  dsimp only
  split
  · exact hR.same s
  · refine hR.foldl _ (fun t i => ?_) s
    split
    · exact hR.same t
    · exact hR.foldl _ (fun u a => hR.trans (hR.modSlice _ _ _) (hR.startShard _ _ _ _)) t

end Framed

end Sys2Proof.Machine
end

section
/-! PROOFS. Switching contexts (R377, R384, R393, R394). -/

namespace Sys2Proof.Machine

open Sys2Proof

/-! ### What keeps the running context -/

/-- The same context runs, or none. -/
structure SameRunning (s t : State) : Prop where
  running : t.running = s.running

theorem SameRunning.ofBlock {s t : State} (h : SameBlock s t) : SameRunning s t := ⟨h.running⟩

theorem SameRunning.framed : Framed SameRunning where
  same _ := ⟨rfl⟩
  trans a b := ⟨b.running.trans a.running⟩
  block := .ofBlock
  ctxs _ _ := ⟨rfl⟩
  mapCores s f := ⟨State.mapCores_running s f⟩
  modCore _ _ _ := ⟨rfl⟩
  slices _ _ := ⟨rfl⟩
  beds _ _ := ⟨rfl⟩
  modFabric _ _ := ⟨rfl⟩
  modMedia _ _ := ⟨rfl⟩
  regs _ _ := ⟨rfl⟩
  log _ _ := ⟨rfl⟩
  dbg _ _ := ⟨rfl⟩
  modDie _ _ _ _ := ⟨rfl⟩

theorem SameRunning.trans {s t u : State} (a : SameRunning s t) (b : SameRunning t u) : SameRunning s u := framed.trans a b

/-! ### Events -/

/-- An event leaves what a context has saved, and the running context. -/
structure Told (n : CtxId) (s t : State) : Prop where
  running : SameRunning s t
  ctx : ∀ x, s.ctx? n = some x → ∃ y, t.ctx? n = some y ∧ y.saveCount = x.saveCount ∧ y.saved = x.saved

theorem Told.same (n : CtxId) (s : State) : Told n s s := ⟨SameRunning.framed.same s, fun x h => ⟨x, h, rfl, rfl⟩⟩

theorem Told.ofBlock {n : CtxId} {s t : State} (h : SameBlock s t) : Told n s t :=
  ⟨.ofBlock h, fun x hx => ⟨x, (congrArg (assoc? n) h.ctxs).trans hx, rfl, rfl⟩⟩

theorem Told.trans {n : CtxId} {s t u : State} (a : Told n s t) (b : Told n t u) : Told n s u := by
  refine ⟨a.running.trans b.running, fun x hx => ?_⟩
  obtain ⟨y, hy, hycount, hysaved⟩ := a.ctx x hx
  obtain ⟨z, hz, hzcount, hzsaved⟩ := b.ctx y hy
  exact ⟨z, hz, hzcount.trans hycount, hzsaved.trans hysaved⟩

theorem Told.modCtx (n : CtxId) (s : State) {f : Ctx → Ctx} (hcount : ∀ x, (f x).saveCount = x.saveCount) (hsaved : ∀ x, (f x).saved = x.saved) :
    Told n s (s.modCtx n f) :=
  ⟨SameRunning.framed.modCtx s n f, fun x hx => ⟨f x, State.ctx?_modCtx_same hx f, hcount x, hsaved x⟩⟩

theorem Told.event (s : State) (n : CtxId) (typ : Nat) (st : Status) (fid : Nat) (body : List (Nat × Nat × Nat)) :
    Told n s (s.event n typ st fid body) := by
  unfold State.event
  split
  · exact .same n s
  · dsimp only
    refine .trans (.trans (.ofBlock .stamp) (.modCtx n _ (f := fun x => { x with eventSeq := (x.eventSeq + 1) % 2 ^ 32 }) (fun _ => rfl) fun _ => rfl)) ?_
    split
    · split
      · exact .ofBlock (.writeEvent _ _ _ _)
      · split
        · exact .modCtx n _ (fun _ => rfl) fun _ => rfl
        · exact .modCtx n _ (fun _ => rfl) fun _ => rfl
    · split
      · exact .modCtx n _ (fun _ => rfl) fun _ => rfl
      · exact .modCtx n _ (fun _ => rfl) fun _ => rfl

/-! ### CTX_RUN (R377) -/

/-- A switch-in ends with the answers, the broken lines and the chains of the context, which runs by then. -/
theorem State.switchIn_ends (s : State) (n : CtxId) :
    ∃ u : State, u.running = some n ∧ s.switchIn n = ((u.applyAnswers n).failBroken n).restartGrad n := by
  unfold State.switchIn
  exact ⟨_, rfl, rfl⟩

theorem State.switchIn_running (s : State) (n : CtxId) : (s.switchIn n).running = some n := by
  obtain ⟨u, hu, hswitch⟩ := s.switchIn_ends n
  have hkept : SameRunning u (s.switchIn n) := by
    rw [hswitch]
    exact .trans (.trans (SameRunning.framed.applyAnswers u n) (SameRunning.framed.failBroken _ n)) (SameRunning.framed.restartGrad _ n)
  exact hkept.running.trans hu

/-- A context switched in, with the event and the completion of its CTX_RUN. -/
def State.ranIn (s : State) (h : CmdHdr) (n : CtxId) : State :=
  let (us, t) := (s.switchIn n).draw
  ((t.modCtx n fun x => { x with lastSwitchUs := us }).event n 0x02 .done 0 [(24, 4, us)]).complete h .done us

theorem State.ranIn_running (s : State) (h : CmdHdr) (n : CtxId) : (s.ranIn h n).running = some n := by
  have hkept : SameRunning (s.switchIn n) (s.ranIn h n) :=
    .trans (.trans (.trans (.ofBlock .draw) (SameRunning.framed.modCtx _ n _)) (SameRunning.framed.event _ n _ _ _ _)) (SameRunning.framed.complete _ _ _ _ _)
  exact hkept.running.trans (s.switchIn_running n)

section run
variable {h : CmdHdr} {c : Nat} {x : Ctx} {s : State} (hs : s.startsAnew h (.ctxRun c)) (hbusy : s.switchBusy h = false) (h0 : ctxOf c ≠ 0)
  (hx : s.names c x)
include hs hbusy h0 hx

theorem exec_ctxRun_idle (hidle : s.running = none) : exec (.ctxRun h c) s = .next (s.ranIn h (ctxOf c)) := by
  refine congrArg Host.Outcome.next ((State.hostLong_starts hs).trans ((if_neg (by simp [hbusy])).trans ((if_neg h0).trans
    ((State.onCtx_names hx).trans ?_))))
  simp only [hidle]
  rfl

theorem exec_ctxRun_running (hrun : s.running = some (ctxOf c)) : exec (.ctxRun h c) s = .next (s.complete h .done 0) := by
  refine congrArg Host.Outcome.next ((State.hostLong_starts hs).trans ((if_neg (by simp [hbusy])).trans ((if_neg h0).trans
    ((State.onCtx_names hx).trans ?_))))
  simp only [hrun, if_true]

end run

/-! ### CTX_PREEMPT (R384) -/

/-- The place of a save area and a free choice, as pairs. A save then reduces without computing the place. -/
theorem saveBase_eta : State.saveBase = fun s x => ((s.saveBase x).1, (s.saveBase x).2) := by
  funext s x
  exact (Prod.mk.eta).symm

theorem draw_eta : State.draw = fun s => (s.draw.1, s.draw.2) := rfl

/-- What a save leaves of a context without a program: its record, before the event that tells of it. -/
theorem State.saveCtx_saves {s : State} {n : CtxId} (hprog : (s.ctxD n).program = false) (scratch : Bool) :
    ∃ (v : State) (body : List (Nat × Nat × Nat)) (y : Ctx), s.saveCtx n scratch = { v.event n 0x01 .preempted 0 body with running := none } ∧
      v.ctx? n = some y ∧ y.saveCount = (s.ctxD n).saveCount + 1 ∧ y.saved = none := by
  generalize hsave : State.saveCtx = save
  delta State.saveCtx at hsave
  rw [saveBase_eta, draw_eta] at hsave
  subst hsave
  dsimp only
  generalize s.draw.2.saveBase _ = place
  generalize writeBytes _ _ _ = mem
  generalize State.savedPart _ _ _ = part
  generalize List.cons (24, 4, s.draw.1) _ = body
  simp only [hprog, Bool.false_eq_true, if_false]
  exact ⟨_, body, _, rfl, assoc?_assocSet_same _ _ _, rfl, rfl⟩

theorem State.quiet_idle {s : State} {n : CtxId} (h : (s.ctxD n).program = false) : s.quiet n = true := by
  simp [State.quiet, h]

/-- A context without a program is saved at once. -/
theorem State.switchOut_idle {s : State} {n : CtxId} (h : (s.ctxD n).program = false) (scratch : Bool) :
    s.switchOut n scratch = (s.saveCtx n scratch, true) := by
  simp [State.switchOut, State.quiet_idle h, h]

theorem exec_ctxPreempt_saves {h : CmdHdr} {c : Nat} {scratch : Bool} {x : Ctx} {s : State} (hs : s.startsAnew h (.ctxPreempt c scratch))
    (hbusy : s.switchBusy h = false) (h0 : ctxOf c ≠ 0) (hx : s.names c x) (hrun : s.running = some (ctxOf c)) (hidle : x.exec = none)
    (hroom : saveNeed false scratch ≤ x.saveSize) : exec (.ctxPreempt h c scratch) s =
      .next ((s.saveCtx (ctxOf c) scratch).complete h .done ((s.saveCtx (ctxOf c) scratch).ctxD (ctxOf c)).lastSaveUs) := by
  have hprog : x.program = false := by simp [Ctx.program, hidle]
  have hctx : s.ctxD (ctxOf c) = x := by rw [State.ctxD, hx, Option.getD_some]
  refine congrArg Host.Outcome.next ((State.hostLong_starts hs).trans ((if_neg (by simp [hbusy])).trans ((if_neg h0).trans
    ((State.onCtx_names hx).trans ((if_neg (not_not.mpr hrun)).trans ((if_neg ?room).trans ?_))))))
  case room =>
    rw [hprog]
    exact Nat.not_lt.mpr hroom
  rw [State.switchOut_idle (hctx ▸ hprog)]

/-- Settles O14: a switch-in ends with its context running (`State.switchIn_running`), and the save of a context without a program is
`State.saveCtx_saves`, which its event leaves. -/
theorem switchingContexts : Obligations.SwitchingContexts := by
  unfold Obligations.SwitchingContexts
  refine ⟨fun h c x s hs hbusy h0 hx => ⟨fun hidle => ?idle, fun hrun => exec_ctxRun_running hs hbusy h0 hx hrun⟩,
    fun h c scratch x s hs hbusy h0 hx hrun hidle hroom => ?preempt⟩
  case idle => exact ⟨_, exec_ctxRun_idle hs hbusy h0 hx hidle, s.ranIn_running h _⟩
  case preempt =>
    have hctx : s.ctxD (ctxOf c) = x := by rw [State.ctxD, hx, Option.getD_some]
    have hprog : (s.ctxD (ctxOf c)).program = false := by simp [hctx, Ctx.program, hidle]
    obtain ⟨v, body, y, hsave, hy, hcount, hsaved⟩ := State.saveCtx_saves hprog scratch
    obtain ⟨z, hz, hzcount, hzsaved⟩ := (Told.event v (ctxOf c) 0x01 .preempted 0 body).ctx y hy
    have hblock := State.complete_frame (s.saveCtx (ctxOf c) scratch) h .done ((s.saveCtx (ctxOf c) scratch).ctxD (ctxOf c)).lastSaveUs 0
    refine ⟨_, z, exec_ctxPreempt_saves hs hbusy h0 hx hrun hidle hroom, ?_, ?_, ?_, hzsaved.trans hsaved⟩
    · rw [hblock.running, hsave]
    · rw [State.ctx?, hblock.ctxs, hsave]
      exact hz
    · rw [hzcount, hcount, hctx]

end Sys2Proof.Machine
end

section
/-! PROOFS. Impressions (R446, R447, R450). -/

namespace Sys2Proof.Machine

open Sys2Proof

section impression
variable {h : CmdHdr} {p : ImpressionP} {env : Env} {x : Ctx} {s : State} {es : List PlanEntry} {plan : List Byte} {m : Moving}
  (hx : s.names p.ctx x) (h0 : ctxOf p.ctx ≠ 0) (hidle : x.program = false)
  (hplan : (⟨s, env.bytes, 0, 0, false⟩ : Moving).plan (ctxOf p.ctx) env p.area = .ok ((es, plan), m))
include hx h0 hidle hplan

/-- An IMPRESSION_TAKE without a far copy whose checks and writes succeed. -/
theorem exec_impressionTake_done (hs : s.starts h (.impressionTake p)) (hnear : p.far = false) (hok : m.s.planStatus x p.far es = none)
    {y : Ctx} (hy : y = { x with impCount := x.impCount + 1 }) {t : Taking}
    (ht : t = es.zipIdx.foldl (fun (t : Taking) e => t.entry (ctxOf p.ctx) y env e.1 e.2)
      ⟨{ m with s := m.s.putCtx (ctxOf p.ctx) y }, 0, 0, [], [], none⟩)
    (hhalt : t.halt = none) {v : Moving}
    (hput : t.m.put (ctxOf p.ctx) (p.area + plan.length) (impRecord (ctxOf p.ctx) y y.impCount false t.lost) = (v, none)) :
    exec (.impressionTake h p env) s = .next (v.s.complete h (if t.lost = [] then .done else .donePartial) (t.bytes + 4096)) := by
  refine congrArg Host.Outcome.next ((State.host1_starts hs).trans ((if_neg h0).trans ((State.onCtx_names hx).trans
    ((if_neg (by simp [hidle])).trans ?_))))
  simp only [hplan, hok]
  have hcount : x.impCount + 1 = y.impCount := by rw [hy]
  rw [← hy, ← ht]
  cases env.wrFail <;> simp [hhalt, hnear, hcount, hput]

/-- An IMPRESSION_RESTORE whose record is complete and sealed as its context is. -/
theorem exec_impressionRestore_restores (hs : s.starts h (.impressionRestore p)) {bs : List (List Byte)} {v : Moving}
    (hread : ({ m with done := 0 } : Moving).readAll (ctxOf p.ctx) env (p.area + plan.length) 4096 4097 [] = .ok (bs, v))
    (hwhole : bit (fieldAt bs.reverse.flatten 10 1) 0 = true) (hsealed : bit (fieldAt bs.reverse.flatten 10 1) 1 = x.sealing.isSome)
    (hroom : s.running = some (ctxOf p.ctx) ∨ 585 ≤ x.saveSize ∨ ∀ e ∈ es, e.scratch = false) :
    exec (.impressionRestore h p env) s = .next (v.restoreImage h p env (ctxOf p.ctx) es plan.length bs.reverse.flatten) := by
  have hfits : ¬(s.running ≠ some (ctxOf p.ctx) && decide (x.saveSize < 585) && es.any fun e => e.scratch) = true := by
    rcases hroom with hrun | hsave | hdies
    · simp [hrun]
    · simp [Nat.not_lt.mpr hsave]
    · simp_all
  refine congrArg Host.Outcome.next ((State.host1_starts hs).trans ((if_neg h0).trans ((State.onCtx_names hx).trans
    ((if_neg (by simp [hidle])).trans ?_))))
  simp only [hplan, hread]
  exact (if_neg (by simp [hwhole])).trans ((if_neg (by simp [hsealed])).trans (if_neg hfits))

end impression

/-- Settles O57: each command runs through its checks to its end. -/
theorem impressionsComplete : Obligations.ImpressionsComplete := by
  unfold Obligations.ImpressionsComplete
  refine fun h p env x s es plan m hx h0 hidle hplan => ⟨fun v hs hnear hok => ?take, fun bs v hs hread => ?restore⟩
  case take => exact fun hhalt hput => exec_impressionTake_done hx h0 hidle hplan hs hnear hok rfl rfl hhalt hput
  case restore => exact fun hwhole hsealed hroom => exec_impressionRestore_restores hx h0 hidle hplan hs hread hwhole hsealed hroom

end Sys2Proof.Machine
end

section
/-! PROOFS. The commands of the security processor (R406, R407, R409 to R411, R416, R419, R421 to R423). -/

namespace Sys2Proof.Machine

open Sys2Proof

/-! ### SEAL_OPEN (R406, R407) -/

/-- The sealing of pages changes what HBM knows of its frames. -/
theorem SameBlock.sealPages (s : State) (n : CtxId) (x : Ctx) (ps : List Page) : SameBlock s (s.sealPages n x ps) := by
  unfold State.sealPages
  split
  · exact .rfl
  · exact .modHbm _

/-- The device with a seal session of a context begun, which no record tells of yet. -/
def State.sealBegun (s : State) (n : CtxId) (x : Ctx) (k : Seal) : State :=
  let y := { x with sealing := some k }
  let t := (s.putCtx n y).sealPages n y x.pages
  { t with fuses := { t.fuses with opens := t.fuses.opens + 1 } }

theorem State.sealBegun_ctxs (s : State) (n : CtxId) (x : Ctx) (k : Seal) :
    (s.sealBegun n x k).ctxs = assocSet n { x with sealing := some k } s.ctxs :=
  (SameBlock.sealPages (s.putCtx n _) n _ x.pages).ctxs

theorem State.sealBegun_opens (s : State) (n : CtxId) (x : Ctx) (k : Seal) : (s.sealBegun n x k).fuses.opens = s.fuses.opens + 1 :=
  congrArg (fun f => f.opens + 1) (SameBlock.sealPages (s.putCtx n { x with sealing := some k }) n _ x.pages).fuses

theorem State.sealBegun_cores (s : State) (n : CtxId) (x : Ctx) (k : Seal) : (s.sealBegun n x k).cores = s.cores :=
  (SameBlock.sealPages (s.putCtx n { x with sealing := some k }) n _ x.pages).cores

theorem State.sealBegun_slices (s : State) (n : CtxId) (x : Ctx) (k : Seal) : (s.sealBegun n x k).slices = s.slices :=
  (SameBlock.sealPages (s.putCtx n { x with sealing := some k }) n _ x.pages).slices

/-- The state once a SEAL_OPEN has taken its random numbers and free values. -/
def State.sealDrawn (s : State) : State := s.random.2.random.2.draw.2.draw.2

/-- The seal session of a SEAL_OPEN: its ephemeral key, its salt and the free values of its keys. -/
def State.newSeal (s : State) : Seal :=
  let t := s.random.2.random.2
  ⟨.sealing, s.random.1 % (p521N - 1) + 1, s.random.2.random.1 % 2 ^ 512, none, t.draw.1, t.draw.2.draw.1, 0, 0, 0, 0, false, none⟩

/-- A SEAL_OPEN whose checks pass begins a seal session with fresh random numbers, and reports it. -/
theorem exec_sealOpen_begins {h : CmdHdr} {p : SealP} {x : Ctx} {s : State} (hs : s.starts h (.sealOpen p)) (h0 : ctxOf p.ctx ≠ 0)
    (hx : s.namesIdle p.ctx x) (hopen : x.sealing = none) (hlocked : s.sec.locked = true) (hcasc : x.grad.casc = none)
    (hfar : ∀ q ∈ x.pages, q.far = false ∨ q.wr = false) (hshared : s.sharesFrame (ctxOf p.ctx) x = false) (hmeasured : s.unmeasured = false)
    (hlen : 512 ≤ p.length) : exec (.sealOpen h p) s =
      .next ((s.sealDrawn.sealBegun (ctxOf p.ctx) x s.newSeal).report h p.buffer 512
        (s.sealDrawn.openRecord (ctxOf p.ctx) s.newSeal.salt s.newSeal.ephemeral)) := by
  obtain ⟨hname, hidle⟩ := hx
  have hpages : (x.pages.any fun q => q.far && q.wr) = false := by
    simp only [List.any_eq_false, Bool.and_eq_true, not_and, Bool.not_eq_true]
    exact fun q hq hqfar => (hfar q hq).resolve_left (by simp [hqfar])
  exact congrArg Host.Outcome.next ((State.host1_starts hs).trans ((if_neg h0).trans ((State.onCtx_names hname).trans
    ((if_neg (by simp [hopen])).trans ((if_neg hidle).trans ((if_neg (by simp [hlocked])).trans ((if_neg (by simp [hcasc])).trans
    ((if_neg (by simp [hpages, hshared])).trans ((if_neg (by simp [hmeasured])).trans (if_neg (Nat.not_lt.mpr hlen)))))))))))

/-! ### SEAL_LOAD (R409 to R411) -/

/-- An image without data writes nothing. The functions that a chunk calls are free here: the argument does not rest on what they do, and
none of them is computed. -/
theorem State.loadChunks_ok_done {n : CtxId} {x : Ctx} {env : Env} {key dst : Nat} {hd : List Byte} {g : SealHdr} (hkind : g.kind ≠ 1) (k : Nat) :
    ∀ {i : Nat} {s u : State} {acc text : List Byte} {done : Nat},
      s.loadChunks n x env key hd g dst k i acc = (u, done, .ok text) → done = 0 := by
  obtain ⟨load, hload⟩ : ∃ f, State.loadChunks = f := exists_eq'
  rw [hload]
  delta State.loadChunks State.loadChunks._f at hload
  obtain ⟨decrypt, hdecrypt⟩ : ∃ f, gcmOpen = f := exists_eq'
  obtain ⟨put, hput⟩ : ∃ f, Moving.put = f := exists_eq'
  obtain ⟨bad, hbad⟩ : ∃ f, State.badDest = f := exists_eq'
  rw [hdecrypt, hput, hbad] at hload
  clear hdecrypt hput hbad
  subst hload
  induction k with
  | zero =>
    intro i s u acc text done h
    replace h : (s, (if g.kind = 1 then g.plain else 0), LoadEnd.ok acc) = (u, done, .ok text) := h
    rw [if_neg hkind] at h
    exact (congrArg (fun r => r.2.1) h).symm
  | succ k ih =>
    intro i s u acc text done h
    dsimp only [Nat.brecOn] at h
    split at h
    · simp at h
    · split at h
      · simp at h
      · rw [if_pos hkind] at h
        exact ih h

/-- Only a manifest may be turned down once its tags hold. -/
theorem State.acceptImage_manifest {s : State} {n : CtxId} {x : Ctx} {k : Seal} {g : SealHdr} {keys : Nat × Nat} {text : List Byte}
    (h : s.acceptImage n x k g keys text = none) : g.kind = 0 := by
  by_contra hkind
  simp [State.acceptImage, hkind] at h

/-- A SEAL_LOAD whose header and owner pass ends as its chunks do. -/
theorem exec_sealLoad_chunks {h : CmdHdr} {p : SealLoadP} {env : Env} {x : Ctx} {k : Seal} {hd : List Byte} {g : SealHdr} {s : State}
    (hs : s.starts h (.sealLoad p)) (hx : s.names p.ctx x) (hseal : x.sealing = some k) (hlen : 256 ≤ p.length)
    (hread : env.read 0 256 = .ok hd) (hhdr : sealHdr hd p.length = .ok g) (hkind : (k.st == .sealing) = (g.kind == 0))
    (howner : k.owner = some (g.qx, g.qy) ∨ (k.owner = none ∧ onP521 g.qx g.qy = true)) {keys : Nat × Nat}
    (hkeys : keys = if k.owner.isSome then (k.kLoad, k.kImp) else k.keys (ctxOf p.ctx) s.fuses.serial g.qx g.qy) {r : State × Nat × LoadEnd}
    (hload : s.loadChunks (ctxOf p.ctx) x env keys.1 hd g p.dst (chunkCount g.plain) 0 [] = r) :
    exec (.sealLoad h p env) s = .next (match r.2.2 with
      | .ok text => (match r.1.acceptImage (ctxOf p.ctx) (r.1.ctxD (ctxOf p.ctx)) k g keys text with
        | some v => v.complete h .done r.2.1
        | none => r.1.complete h .accessDenied r.2.1)
      | .tag => r.1.complete h .accessDenied r.2.1
      | .far f => r.1.commandHalt h (ctxOf p.ctx) (.far f) (p.src + 256 + copyBytes r.2.1) false r.2.1
      | .halt t => r.1.commandHalt h (ctxOf p.ctx) t (p.dst + r.2.1) true r.2.1) := by
  obtain ⟨u, done, e⟩ := r
  have hmine : ((k.owner.map fun o => decide (o ≠ (g.qx, g.qy))).getD (!onP521 g.qx g.qy)) = false := by
    rcases howner with h | ⟨h, hcurve⟩
    · simp [h]
    · simp [h, hcurve]
  refine congrArg Host.Outcome.next ((State.host1_starts hs).trans ((State.onCtx_names hx).trans ?_))
  simp only [hseal, hread, hhdr]
  refine (if_neg (Nat.not_lt.mpr hlen)).trans ((if_neg (not_not.mpr hkind)).trans ((if_neg (ne_true_of_eq_false hmine)).trans ?_))
  rw [← hkeys]
  simp only [hload]
  cases e with
  | tag | far f | halt t => rfl
  | ok text =>
    dsimp only
    cases haccept : u.acceptImage (ctxOf p.ctx) (u.ctxD (ctxOf p.ctx)) k g keys text with
    | some v => rfl
    | none =>
      have hmanifest := State.acceptImage_manifest haccept
      have hzero : done = 0 := State.loadChunks_ok_done (by simp [hmanifest]) _ hload
      simp only [hzero]

/-! ### SEAL_CLOSE (R416) -/

/-- A context without its seal session and without the HBM pages of it that are not in its open range. -/
def Ctx.unsealed (x : Ctx) : Ctx := { x with pages := x.pages.filter fun p => p.far || x.inOpen p.vaddr, sealing := none }

theorem State.scrubCtx_ctx? (s : State) (n m : CtxId) : (s.scrubCtx n).ctx? m = s.ctx? m := rfl

theorem exec_sealClose_closes {h : CmdHdr} {c : Nat} {x : Ctx} {s : State} (hs : s.starts h (.sealClose c)) (hx : s.namesIdle c x)
    (hsealed : x.sealing.isSome = true) : exec (.sealClose h c) s =
      .next ((((s.resetCtx (ctxOf c)).scrubCtx (ctxOf c)).modCtx (ctxOf c) Ctx.unsealed).complete h .done) := by
  obtain ⟨hname, hidle⟩ := hx
  exact congrArg Host.Outcome.next ((State.host1_starts hs).trans ((State.onCtx_names hname).trans ((if_neg hidle).trans
    (if_neg (by simp [Option.isNone_eq_false_iff.mpr hsealed])))))

theorem Ctx.inOpen_congr {x y : Ctx} (h : y.sealing = x.sealing) (v : Nat) : y.inOpen v = x.inOpen v := by
  unfold Ctx.inOpen
  rw [h]

/-- A context reset leaves the context and its seal. -/
theorem State.resetCtx_sealing {s : State} {n : CtxId} {x : Ctx} (hx : s.ctx? n = some x) :
    ∃ y, (s.resetCtx n).ctx? n = some y ∧ y.sealing = x.sealing := by
  have hstay := (CtxsStay.resetCtx s n).ctx n
  rw [hx] at hstay
  exact Option.map_eq_some_iff.mp hstay

/-! ### FW_STAGE (R419) -/

theorem Env.read_whole {env : Env} (h : env.rdFail = none) (n : Nat) : env.read 0 n = .ok (padTo n (env.bytes.take n)) := by
  simp [Env.read, h]

theorem padTo_take (n : Nat) (bs : List Byte) : padTo n (bs.take n) = padTo n bs := by
  unfold padTo
  rcases Nat.le_total n bs.length with hle | hle
  · simp [hle]
  · rw [List.take_of_length_le hle]

theorem exec_fwStage_whole {h : CmdHdr} {p : FwStageP} {env : Env} {bs : List Byte} {s : State} (hs : s.starts h (.fwStage p))
    (hlen : p.length ≤ 2 ^ 25) (hfail : env.rdFail = none) (hread : env.read 0 p.length = .ok bs)
    (hsize : fieldAt (padTo (min p.length 12) env.bytes) 8 4 = p.length) : exec (.fwStage h p env) s =
      .next ((({ s with sec := { s.sec with staged := verifyImage bs s.fuses.svn } } : State).raiseInt intFw).complete h
        (if (verifyImage bs s.fuses.svn).isSome then .done else .accessDenied) 0) := by
  refine congrArg Host.Outcome.next ((State.host1_starts hs).trans ((if_neg (Nat.not_lt.mpr hlen)).trans ?_))
  rw [Env.read_whole hfail (min p.length 12), padTo_take]
  refine (if_neg (not_not.mpr hsize)).trans ?_
  simp only [hread]
  cases hverify : verifyImage bs s.fuses.svn <;> simp

/-! ### FW_ACTIVATE (R404, R421) -/

theorem exec_fwActivate_begins {h : CmdHdr} {b : Bool} {e : TestEnv} {s : State} (hs : s.startsAnew h .fwActivate)
    (hstaged : s.sec.staged.isSome = true) (hopen : s.anySealing = false) (hidle : s.running = none)
    (hjobs : ∀ j ∈ s.media.jobs, j.st = .queued) : exec (.fwActivate h b e) s =
      .next { (s.modHost fun i => { i with updating := true }).start h .fwActivate with sec := s.sec.hangUp } := by
  have hquiet : (s.media.jobs.any fun j => decide (j.st ≠ .queued)) = false := by
    simpa [List.any_eq_false] using hjobs
  refine congrArg Host.Outcome.next ((State.hostLong_starts hs).trans ((if_neg Bool.false_ne_true).trans
    ((if_neg (by simp [Option.isNone_eq_false_iff.mpr hstaged])).trans ((if_neg (by simp [hopen])).trans (if_neg ?_)))))
  rw [hidle, hquiet]
  exact Bool.false_ne_true

/-! ### DEBUG_UNLOCK (R423) -/

/-- The challenge of the next random number. -/
def State.nextChallenge (s : State) : List Byte := s.random.2.challengeBytes (s.random.1 % 2 ^ 512)

/-- The device once it keeps that challenge. -/
def State.challenged (s : State) : State := { s.random.2 with sec := { s.random.2.sec with challenge := some s.nextChallenge } }

theorem State.challengeBytes_length (s : State) (nonce : Nat) : (s.challengeBytes nonce).length = 192 := record_length (by simp)

theorem exec_debugUnlock_challenge {h : CmdHdr} {p : DebugUnlockP} {env : Env} {s : State} (hs : s.starts h (.debugUnlock p))
    (hopen : s.anySealing = false) (hstep : p.present = false) (hlen : 192 ≤ p.length) :
    exec (.debugUnlock h p env) s = .next (s.challenged.report h p.buffer 192 s.nextChallenge) :=
  congrArg Host.Outcome.next ((State.host1_starts hs).trans ((if_neg (by simp [hopen])).trans ((if_pos (by simp [hstep])).trans
    (if_neg (Nat.not_lt.mpr hlen)))))

/-- Settles O46: each command runs through its checks; a SEAL_CLOSE keeps the seal up to its end (`State.resetCtx_sealing`), and an image
that may be turned down has written nothing (`State.loadChunks_ok_done`). -/
theorem securityCommandsComplete : Obligations.SecurityCommandsComplete := by
  unfold Obligations.SecurityCommandsComplete
  refine fun h s => ⟨fun p x hs h0 hx hopen hlocked hcasc hfar hshared hmeasured hlen => ?sealOpen,
    fun p env x k hd g hs hx hseal hlen hread hhdr hkind howner => ?sealLoad,
    fun c x hs hx hsealed => ?sealClose, fun p env bs hs hlen hfail hread hsize => ⟨exec_fwStage_whole hs hlen hfail hread hsize, ?staged⟩,
    fun b e hs hstaged hopen hidle hjobs => ⟨_, exec_fwActivate_begins hs hstaged hopen hidle hjobs, rfl, rfl, rfl⟩,
    fun p env hs hopen hstep hlen => ?challenge⟩
  case sealOpen =>
    have hframe := (s.sealDrawn.sealBegun (ctxOf p.ctx) x s.newSeal).report_frame h p.buffer 512
      (s.sealDrawn.openRecord (ctxOf p.ctx) s.newSeal.salt s.newSeal.ephemeral)
    refine ⟨_, { x with sealing := some s.newSeal }, s.newSeal,
      exec_sealOpen_begins hs h0 hx hopen hlocked hcasc hfar hshared hmeasured hlen, ?_, rfl, rfl, rfl, ?_, ?_, ?_⟩
    · rw [State.ctx?, hframe.ctxs, State.sealBegun_ctxs]
      exact assoc?_assocSet_same _ _ _
    · rw [hframe.fuses]
      exact State.sealBegun_opens _ _ _ _
    · exact hframe.cores.trans (State.sealBegun_cores _ _ _ _)
    · exact hframe.slices.trans (State.sealBegun_slices _ _ _ _)
  case sealLoad =>
    dsimp only
    obtain ⟨r, hload⟩ : ∃ r, s.loadChunks (ctxOf p.ctx) x env
      (if k.owner.isSome then (k.kLoad, k.kImp) else k.keys (ctxOf p.ctx) s.fuses.serial g.qx g.qy).1 hd g p.dst
        (chunkCount g.plain) 0 [] = r := exists_eq'
    rw [hload]
    exact exec_sealLoad_chunks hs hx hseal hlen hread hhdr hkind howner rfl hload
  case sealClose =>
    obtain ⟨y, hy, hsame⟩ := State.resetCtx_sealing hx.1
    have hclosed : (((s.resetCtx (ctxOf c)).scrubCtx (ctxOf c)).modCtx (ctxOf c) Ctx.unsealed).ctx? (ctxOf c) = some y.unsealed :=
      State.ctx?_modCtx_same ((State.scrubCtx_ctx? _ _ _).trans hy) _
    refine ⟨_, y.unsealed, exec_sealClose_closes hs hx hsealed, ?_, rfl, fun q hq => ?_⟩
    · rw [State.ctx?, (State.complete_frame _ h .done 0 0).ctxs]
      exact hclosed
    · simpa [Ctx.inOpen_congr hsame] using (List.mem_filter.mp hq).2
  case staged =>
    obtain ⟨v, pend, hhost, hbit⟩ := raiseInt_host ({ s with sec := { s.sec with staged := verifyImage bs s.fuses.svn } } : State) intFw
    refine ⟨?_, (SameBlock.raiseInt _).cores, (SameBlock.raiseInt _).ctxs⟩
    rw [hhost]
    exact hbit
  case challenge =>
    have hframe := s.challenged.report_frame h p.buffer 192 s.nextChallenge
    refine ⟨_, s.nextChallenge, exec_debugUnlock_challenge hs hopen hstep hlen, ?_, State.challengeBytes_length _ _, ?_, hframe.cores⟩
    · rw [hframe.sec]
      rfl
    · rw [hframe.sec]
      rfl

end Sys2Proof.Machine
end

section
/-! PROOFS. What transfers, packets and media jobs leave alone when they end or fail (R225, R230, R240, R258 to R263, R311 to R316). -/

namespace Sys2Proof.Machine

open Sys2Proof

namespace Framed
variable {R : State → State → Prop} (hR : Framed R)
include hR

/-! ### Pieces of a transfer -/

theorem modXfer (s : State) (i : Nat) (f : Xfer → Xfer) : R s (s.modXfer i f) := hR.modFabric s _
theorem dropXfer (s : State) (i : Nat) : R s (s.dropXfer i) := hR.modFabric s _
theorem modPiece (s : State) (i seq : Nat) (f : Piece → Piece) : R s (s.modPiece i seq f) := hR.modXfer s i _

theorem landPad (s : State) (d : DieId) (addrs : List Nat) (bs : List Byte) : R s (s.landPad d addrs bs) :=
  rel_ite (hR.same s) (hR.modSlice s d _)

theorem clearLanded (s : State) (x : Xfer) (d : DieId) (addrs : List Nat) : R s (s.clearLanded x d addrs) := by
  unfold State.clearLanded
  split
  · exact hR.same s
  · exact hR.modSlice s d _

theorem flushFar (s : State) (x : Xfer) : R s (s.flushFar x) := by
  unfold State.flushFar
  dsimp only
  split
  · exact hR.same s
  · refine rel_ite ?_ (hR.same s)
    split
    · exact hR.trans (hR.send s _) (hR.modXfer _ _ _)
    · exact hR.same s

/-! ### The end of a transfer -/

theorem cmdFault (s : State) (h : CmdHdr) (n : CtxId) (st : Status) (addr access reason progress bytes : Nat) :
    R s (s.cmdFault h n st addr access reason progress bytes) :=
  hR.trans (hR.trans (hR.trans (hR.takeFaultId s) (hR.modHbm _ _)) (hR.event _ _ _ _ _ _)) (hR.complete _ _ _ _ _)

theorem cmdData (s : State) (h : CmdHdr) (n : CtxId) (b o progress : Nat) : R s (s.cmdData h n b o progress) :=
  hR.trans (hR.logFault s _ _) (hR.complete _ _ _ _ _)

theorem endCmd (s : State) (h : CmdHdr) (x : Xfer) (st : Status) : R s (s.endCmd h x st) := by
  unfold State.endCmd
  extract_lets done progress bytes t
  refine hR.trans (t := t) (hR.dropXfer s x.id) ?_
  split
  · exact hR.cmdFault _ _ _ _ _ _ _ _ _
  · exact hR.cmdFault _ _ _ _ _ _ _ _ _
  · exact hR.cmdFault _ _ _ _ _ _ _ _ _
  · exact hR.cmdData _ _ _ _ _ _

theorem renumber (s : State) (i : Nat) : R s (s.renumber i) := by
  unfold State.renumber
  extract_lets n t hold run trail v
  exact hR.trans (hR.trans (t := t) (hR.modFabric s _) (hR.beds t _)) (hR.mapCores v _)

theorem holdFault (s : State) (u : Cur) (x : Xfer) (st : Status) : R s (s.holdFault u x st) := by
  unfold State.holdFault
  dsimp only
  refine hR.trans ?_ (hR.event _ _ _ _ _ _)
  refine hR.trans ?_ (hR.modHbm _ _)
  refine hR.trans ?_ (hR.modCtx _ _ _)
  refine hR.trans ?_ (hR.renumber _ _)
  refine hR.trans ?_ (hR.modCore _ _ _)
  exact hR.trans (hR.takeFaultId s) (hR.modXfer _ _ _)

theorem endFault (s : State) (u : Cur) (x : Xfer) (st : Status) : R s (s.endFault u x st) := by
  unfold State.endFault
  split
  · exact hR.holdFault _ _ _ _
  · exact hR.holdFault _ _ _ _
  · exact hR.holdFault _ _ _ _
  · exact hR.trans (rel_ite (hR.failOp _ _ _ _ _) (hR.failOp _ _ _ _ _)) (hR.dropXfer _ _)

theorem afterPiece (s : State) (i : Nat) : R s (s.afterPiece i) := by
  unfold State.afterPiece
  split
  · exact hR.same s
  · rename_i x _
    extract_lets t idle v due
    have hdone : R t v := by
      dsimp only [v]
      split
      · exact hR.modQueue t _ _ _
      · exact hR.same t
    refine hR.trans (hR.trans (t := t) (hR.flushFar s x) hdone) ?_
    clear_value v
    split
    · exact rel_ite (hR.dropXfer v i) (hR.same v)
    · split
      · split
        · split
          · exact hR.endCmd _ _ _ _
          · exact hR.endFault _ _ _ _
          · exact hR.same v
        · exact hR.same v
      · split
        · exact hR.same v
        · exact rel_ite (hR.same v) (hR.trans (hR.modXfer v i _) (hR.modFabric _ _))

theorem pieceLanded (s : State) (i seq : Nat) : R s (s.pieceLanded i seq) := hR.trans (hR.modPiece s i seq _) (hR.afterPiece _ i)

theorem pieceFailed (s : State) (i seq : Nat) (st : Status) (addr : Nat) (why : Nat × Nat) : R s (s.pieceFailed i seq st addr why) :=
  hR.trans (hR.trans (hR.modPiece s i seq _) (hR.modXfer _ i _)) (hR.afterPiece _ i)

/-! ### A transfer that is over (R144, R261) -/

theorem waitedFor (s : State) (x : Xfer) : R s (s.waitedFor x) := by
  unfold State.waitedFor
  split
  · exact rel_ite (hR.trans (hR.block SameBlock.draw) (hR.modCore _ _ _)) (hR.same s)
  · exact hR.same s

theorem mirrorPush (s : State) (u : Cur) (c : CoreId) (p : PushP) : R s (s.mirrorPush u c p).1 := by
  unfold State.mirrorPush
  dsimp only
  split
  · exact hR.same s
  · split
    · exact hR.same s
    · exact hR.landPad s _ _ _

theorem applyLane (s : State) (u : Cur) (c : CoreId) : R s (s.applyLane u c) := by
  unfold State.applyLane
  dsimp only
  split
  · exact hR.trans (hR.mirrorPush s u c _) (hR.putCtx _ _ _)
  · exact hR.putCtx s _ _
  · split
    · exact hR.modShuffle s _ _
    · exact hR.same s
  · exact hR.same s

theorem finishXfer (s : State) (x : Xfer) : R s (s.finishXfer x) := by
  unfold State.finishXfer
  split
  · extract_lets t v at_ more
    refine hR.trans (t := v) (hR.trans (t := t) (hR.trans (hR.waitedFor s x) (hR.dropXfer _ _)) (hR.applyLane t _ _)) ?_
    exact rel_ite (hR.modQueue v _ _ _) (hR.modQueue v _ _ _)
  · exact hR.trans (hR.dropXfer s _) (hR.modCore _ _ _)

/-! ### Packets (R240, R259 to R263) -/

theorem scatter (s : State) (p : Pkt) (at_ : Fin 5) (stops : List (Fin 5)) (transit : Bool) : R s (s.scatter p at_ stops transit) := by
  unfold State.scatter
  refine hR.foldl _ (fun t l => ?_) s
  dsimp only
  split
  · exact hR.same t
  · exact hR.trans (hR.modFabric t _) (hR.enqueue _ _ _ _)

theorem onward (s : State) (p : Pkt) (at_ : Fin 5) : R s (s.onward p at_) := rel_ite (hR.enqueue s _ _ _) (hR.scatter s _ _ _ _)

theorem landOn (s : State) (x : Xfer) (seq : Nat) (d : DieId) (addrs : List Nat) (bs : List Byte) : R s (s.landOn x seq d addrs bs) := by
  unfold State.landOn
  extract_lets gone v w
  split
  · exact hR.trans (hR.trans (hR.discard s 1) (hR.modPiece _ _ _ _)) (hR.afterPiece _ _)
  · refine hR.trans (t := w) (hR.trans (t := v) (rel_ite (hR.discard s 1) (hR.landPad s d addrs bs)) (hR.modPiece v _ _ _)) ?_
    clear_value w
    split
    · extract_lets a b
      refine hR.trans (t := b) (hR.trans (t := a) (rel_ite (hR.modPiece w _ _ _) (hR.same w)) (rel_ite (hR.modXfer a _ _) (hR.same a))) ?_
      exact hR.trans (hR.clearLanded b _ _ _) (hR.afterPiece _ _)
    · exact hR.same w

theorem memberAcks (s : State) (i : Nat) (ds : List DieId) : R s (s.memberAcks i ds) := by
  unfold State.memberAcks
  split
  · exact hR.same s
  · exact rel_ite (hR.same s) (hR.foldl _ (fun t d => rel_ite (hR.same t) (hR.modFabric t _)) s)

theorem deliverMembers (s : State) (x : Xfer) (seq : Nat) (b : BedId) (members : List DieId) (addrs : List Nat) (bs : List Byte) :
    R s (s.deliverMembers x seq b members addrs bs) :=
  hR.trans (hR.foldl _ (fun t d => hR.landOn t x seq d addrs bs) s) (hR.memberAcks _ _ _)

theorem popTag (s : State) (x : Xfer) (bs : List Byte) : R s (s.popTag x bs) := by
  unfold State.popTag
  split
  · exact hR.same s
  · split
    · exact rel_ite (hR.trans (hR.modXfer s _ _) (hR.pieceLanded _ _ _)) (hR.trans (hR.failOp s _ _ _ _) (hR.dropXfer _ _))
    · exact hR.same s

theorem arrive (s : State) (x : Xfer) (seq : Nat) (bs : List Byte) : R s (s.arrive x seq bs) := by
  unfold State.arrive
  split
  · exact hR.same s
  · split
    · exact rel_ite (hR.popTag s x bs) (hR.landOn s x seq _ _ bs)
    · exact hR.modPiece s _ _ _
    · exact hR.trans (hR.trans (hR.trans (hR.send s _) (hR.modPiece _ _ _ _)) (hR.modXfer _ _ _)) (hR.afterPiece _ _)
    · exact hR.trans (hR.send s _) (hR.pieceLanded _ _ _)
    · exact hR.same s

theorem deliver (s : State) (p : Pkt) (stop : Fin 5) : R s (s.deliver p stop) := by
  unfold State.deliver
  split
  · unfold State.chainLands
    dsimp only
    split
    · exact hR.modCtx s _ _
    · exact hR.discard s 1
  · split
    · split
      · exact hR.same s
      · split
        · split
          · exact hR.trans (rel_ite (hR.same s) (hR.discard s 1)) (hR.deliverMembers _ _ _ _ _ _ _)
          · exact hR.same s
        · exact hR.same s
    · exact rel_ite (hR.arrive s _ _ _) (hR.same s)

theorem reach (s : State) (p : Pkt) (stop : Fin 5) : R s (s.reach p stop) :=
  hR.trans (rel_ite (hR.deliver s p stop) (hR.same s)) (rel_ite (hR.deliver _ _ _) (hR.onward _ _ _))

/-! ### Media jobs (R311 to R316) -/

theorem mediaArrive (s : State) (n : CtxId) (line : LineId) (mask : Nat) : R s (s.mediaArrive n line mask) := by
  unfold State.mediaArrive
  refine hR.foldl _ (fun t d => ?_) s
  split
  · exact hR.same t
  · split
    · exact rel_ite (hR.putCtx t _ _) (hR.modMedia t _)
    · exact hR.modMedia t _

theorem feedArrives (s : State) (f : FeedRec) : R s (s.feedArrives f) := by
  unfold State.feedArrives
  split
  · exact rel_ite (hR.mediaArrive s _ _ _) (hR.same s)
  · exact hR.same s

theorem endFeed (s : State) (i : Nat) : R s (s.endFeed i) := by
  rcases s.endFeed_cases i with h | ⟨f, st, h⟩
  · rw [h]
    exact hR.same s
  · rw [h]
    exact hR.trans (hR.trans (hR.feedArrives s f) (hR.modMedia _ _)) (hR.complete _ _ _ _ _)

theorem endStream (s : State) (n : CtxId) (k : Nat) : R s (s.endStream n k) := by
  unfold State.endStream
  split
  · exact hR.same s
  · split
    · exact hR.same s
    · exact rel_ite (hR.same s) (hR.trans (hR.modMedia s _) (hR.complete _ _ _ _ _))

theorem removeJob (s : State) (j : Job) (st : Status) (dropped : Nat) : R s (s.removeJob j st dropped) := by
  unfold State.removeJob
  exact hR.trans (hR.trans (hR.trans (hR.trans (hR.modShuffle s _ _) (hR.modMedia _ _)) (hR.modCtx _ _ _)) (hR.endFeed _ _)) (hR.endStream _ _ _)

theorem modJob (s : State) (i : Nat) (f : Job → Job) : R s (s.modJob i f) := hR.modMedia s _

theorem holdJob (s : State) (j : Job) (v : Nat) (a : Access) (r : Reason) (after : Option (Status × Nat)) : R s (s.holdJob j v a r after) := by
  unfold State.holdJob
  exact hR.trans (hR.trans (hR.trans (hR.trans (hR.takeFaultId s) (hR.modJob _ _ _)) (hR.modCtx _ _ _)) (hR.modHbm _ _)) (hR.event _ _ _ _ _ _)

theorem endJob (s : State) (i : Nat) (st : Status) (endCode : Nat) (force : Bool) : R s (s.endJob i st endCode force) := by
  unfold State.endJob
  split
  · exact hR.same s
  · split
    · refine rel_ite (hR.modJob s _ _) ?_
      dsimp only
      split
      · rename_i u hput
        split at hput
        · cases hput
        · rename_i v hfirst
          exact hR.trans (hR.block ((SameBlock.vwrite hfirst).trans (SameBlock.vwrite hput))) (hR.removeJob u _ st _)
      · exact rel_ite (hR.removeJob s _ st _) (hR.holdJob s _ _ _ _ _)
      · exact hR.removeJob s _ st _
    · exact hR.modMedia s _

theorem stopJobs (s : State) (l : List Nat) (st : Status) : R s (l.foldl (fun s i => s.stopJob i st false) s) :=
  hR.foldl l (fun t i => hR.endJob t i st _ false) s

theorem fenceMedia (s : State) (d : BedId) : R s (s.fenceMedia d) := hR.trans (hR.stopJobs s _ _) (hR.stopJobs _ _ _)

end Framed

end Sys2Proof.Machine
end

section
/-! PROOFS. Fences, die resets, self-tests and class F faults (R430 to R432, R437 to R444, R448, R481). -/

namespace Sys2Proof.Machine

open Sys2Proof

namespace Framed
variable {R : State → State → Prop} (hR : Framed R)
include hR

/-! ### What a removed die touches (R199, R200, R261, R282) -/

theorem noteLost (s : State) (ds : List DieId) : R s (s.noteLost ds) := hR.ctxs s _

theorem recordDelivery (s : State) (c : CoreId) (tag : Word32) (delivered : List DieId) : R s (s.recordDelivery c tag delivered) :=
  hR.modDie s _ fun _ => ⟨rfl, rfl⟩

theorem leaveCasts (s : State) (ds : List DieId) : R s (s.leaveCasts ds) := by
  unfold State.leaveCasts
  extract_lets cut t strip v
  refine hR.trans (t := v) (hR.trans (t := t) (hR.foldl _ (fun k e => hR.recordDelivery k _ _ _) s) (hR.modFabric t _)) (hR.foldl _ (fun k e => ?_) v)
  split
  · exact rel_ite (hR.finishXfer k _) (hR.same k)
  · exact hR.same k

theorem dropDie (s : State) (d : DieId) : R s (s.dropDie d) := by
  unfold State.dropDie
  extract_lets ids keep t v
  exact hR.trans (t := v) (hR.trans (t := t) (hR.modFabric s _) (hR.beds t _)) (hR.slices v _)

theorem breakLines (s : State) (m : Nat) : R s (s.breakLines m) := by
  unfold State.breakLines
  extract_lets hit any mark t v
  have hmark : R s v := hR.trans (t := t) (hR.ctxs s _) (rel_ite (hR.setSync t _) (hR.same t))
  clear_value v
  split
  · exact hR.trans hmark (hR.failBroken _ _)
  · exact hmark

theorem dropBuckets (s : State) (d : DieId) : R s (s.dropBuckets d) := hR.ctxs s _

theorem wipeDie (s : State) (d : DieId) (clear : Bool) : R s (s.wipeDie d clear) := by
  unfold State.wipeDie
  extract_lets t v
  have hwiped : R s v := hR.trans (t := t) (hR.mapCores s _) (hR.slices t _)
  exact rel_ite (hR.trans hwiped (hR.dbg v _)) hwiped

theorem endRaster (s : State) (n : CtxId) : R s (s.endRaster n) := hR.modCtx s n _

/-! ### The events and the requests of a fence (R230, R240, R391, R438 to R440) -/

theorem fenceEvents (s : State) (d : DieId) (code : Nat) (casts : List (Xfer × List DieId)) : R s (s.fenceEvents d code casts) :=
  hR.foldl _ (fun t _ => hR.event t _ _ _ _ _) s

theorem mediaEvents (s : State) (m : BedId) : R s (s.mediaEvents m) := hR.foldl _ (fun t _ => hR.event t _ _ _ _ _) s

theorem failLost (s : State) : R s s.failLost := hR.foldl _ (fun t _ => hR.pieceFailed t _ _ _ _ _) s

theorem reroute (s : State) (gone : Fin 5) : R s (s.reroute gone) :=
  hR.trans (hR.modFabric s _) (hR.foldl _ (fun t _ => hR.reach t _ _) _)

end Framed

/-! ### Fences stand -/

/-- No fence is taken back and no die is measured, and the power manager is as before. -/
structure DiesHold (s t : State) : Prop where
  pw : t.pw = s.pw
  fenced : ∀ d, s.fenced d = true → t.fenced d = true
  unloaded : ∀ d, (s.die d).loaded = false → (t.die d).loaded = false

theorem DiesHold.of {s t : State} (hpw : t.pw = s.pw) (hdies : t.dies = s.dies) : DiesHold s t :=
  ⟨hpw, fun d h => (congrArg (fun l => (Vector.get l d.num).fenced) hdies).trans h,
    fun d h => (congrArg (fun l => (Vector.get l d.num).loaded) hdies).trans h⟩

theorem DiesHold.modDie (s : State) (d : DieCode) {f : DieSt → DieSt} (hfenced : ∀ k, k.fenced = true → (f k).fenced = true)
    (hloaded : ∀ k, k.loaded = false → (f k).loaded = false) : DiesHold s (s.modDie d f) := by
  refine ⟨rfl, fun e h => ?_, fun e h => ?_⟩
  · unfold State.fenced State.die at h ⊢
    rw [State.modDie_dies, vmod_get]
    split
    next he => exact hfenced _ (he ▸ h)
    next => exact h
  · unfold State.die at h ⊢
    rw [State.modDie_dies, vmod_get]
    split
    next he => exact hloaded _ (he ▸ h)
    next => exact h

theorem DiesHold.trans {s t u : State} (a : DiesHold s t) (b : DiesHold t u) : DiesHold s u :=
  ⟨b.pw.trans a.pw, fun d h => b.fenced d (a.fenced d h), fun d h => b.unloaded d (a.unloaded d h)⟩

theorem DiesHold.framed : Framed DiesHold where
  same _ := .of rfl rfl
  trans a b := a.trans b
  block h := .of h.pw h.dies
  ctxs _ _ := .of rfl rfl
  mapCores s f := .of (State.mapCores_pw s f) (State.mapCores_dies s f)
  modCore _ _ _ := .of rfl rfl
  slices _ _ := .of rfl rfl
  beds _ _ := .of rfl rfl
  modFabric _ _ := .of rfl rfl
  modMedia _ _ := .of rfl rfl
  regs _ _ := .of rfl rfl
  log _ _ := .of rfl rfl
  dbg _ _ := .of rfl rfl
  modDie s d _ hf := .modDie s d (fun k h => (hf k).1.trans h) fun k h => (hf k).2.trans h

theorem State.die_modDie_same (s : State) (d : DieCode) (f : DieSt → DieSt) : (s.modDie d f).die d = f (s.die d) := vmod_get_same ..

/-! ### The fence of a die (R437 to R441) -/

theorem State.fenceCompute_fenced (s : State) (d : DieId) (casts : List (Xfer × List DieId)) :
    DiesHold s (s.fenceCompute d casts) ∧ (s.fenceCompute d casts).fenced (.c d) = true := by
  have hR := DiesHold.framed
  unfold State.fenceCompute
  split
  next h => exact ⟨hR.same s, h⟩
  next =>
    extract_lets t u v w
    have hrest : DiesHold t { w with ctxs := w.ctxs.map fun e => (e.1, { e.2 with
        lanes := e.2.lanes.filter fun l => l.1 / 4 ≠ d.val, partner := e.2.partner.filter fun p => p.1 ≠ d.val && p.2 ≠ d.val }) } := by
      refine .trans (t := u) (hR.fenceEvents t d _ casts) (.trans (t := v) ?_ (.trans (t := w) ?_ (hR.ctxs w _)))
      · exact .trans (.trans (hR.dropDie u d) (hR.leaveCasts _ _)) (hR.wipeDie _ d false)
      · exact .trans (hR.breakLines v _) (hR.dropBuckets _ d)
    refine ⟨.trans (t := t) (.modDie s _ (fun _ _ => rfl) fun _ h => h) hrest, hrest.fenced _ ?_⟩
    exact congrArg DieSt.fenced (State.die_modDie_same s (.c d) _)

theorem State.fenceMediaDie_fenced (s : State) (m : BedId) : DiesHold s (s.fenceMediaDie m) ∧ (s.fenceMediaDie m).fenced (.m m) = true := by
  have hR := DiesHold.framed
  unfold State.fenceMediaDie
  split
  next h => exact ⟨hR.same s, h⟩
  next =>
    extract_lets t
    have hrest : DiesHold t (((t.mediaEvents m).fenceMedia m).breakLines (mediaPart m)) :=
      .trans (.trans (hR.mediaEvents t m) (hR.fenceMedia _ m)) (hR.breakLines _ _)
    refine ⟨.trans (t := t) (.modDie s _ (fun _ _ => rfl) fun _ h => h) hrest, hrest.fenced _ ?_⟩
    exact congrArg DieSt.fenced (State.die_modDie_same s (.m m) _)

theorem State.fenceBed_fenced (s : State) (b : BedId) (casts : List (Xfer × List DieId)) :
    DiesHold s (s.fenceBed b casts) ∧ (s.fenceBed b casts).fenced (.b b) = true := by
  have hR := DiesHold.framed
  unfold State.fenceBed
  split
  next h => exact ⟨hR.same s, h⟩
  next =>
    extract_lets stop t u v near w x y z named
    have hrest : DiesHold t (named.foldl (fun s e => s.event e.1 0x07 .dieFenced 0 [(24, 1, 16 + b.val)]) z) := by
      refine .trans (t := u) (hR.foldl _ (fun k d => (k.fenceCompute_fenced d casts).1) t) (.trans (t := v) (u.fenceMediaDie_fenced b).1 ?_)
      refine .trans (t := w) (hR.modFabric v _) (.trans (t := x) (hR.modHbm w _) (.trans (t := y) (hR.failLost x) (.trans (t := z) ?_ ?_)))
      · exact .trans (hR.modBed y b _) (hR.reroute _ stop)
      · exact hR.foldl _ (fun k _ => hR.event k _ _ _ _ _) z
    refine ⟨.trans (t := t) (.modDie s _ (fun _ _ => rfl) fun _ h => h) hrest, hrest.fenced _ ?_⟩
    exact congrArg DieSt.fenced (State.die_modDie_same s (.b b) _)

/-- The effects of the fence of a die of any kind. -/
def State.fenceDie (s : State) (d : DieCode) (casts : List (Xfer × List DieId)) : State :=
  match d with
  | .c k => s.fenceCompute k casts
  | .m n => s.fenceMediaDie n
  | .b n => s.fenceBed n casts

theorem State.fenceDie_fenced (s : State) (d : DieCode) (casts : List (Xfer × List DieId)) :
    DiesHold s (s.fenceDie d casts) ∧ (s.fenceDie d casts).fenced d = true := by
  cases d with
  | c k => exact s.fenceCompute_fenced k casts
  | m n => exact s.fenceMediaDie_fenced n
  | b n => exact s.fenceBed_fenced n casts

/-- A fence of a die fences it, unless it is that of the bed of the device region on the class E path. -/
theorem State.fence_fenced {s : State} {d : DieCode} {found : Bool} (hout : found = false ∨ ∀ b, d ≠ .b b) (struct_ related : Nat)
    (body : List (List Byte)) :
    DiesHold s (s.fence d found struct_ related body) ∧ (s.fence d found struct_ related body).fenced d = true := by
  have hR := DiesHold.framed
  unfold State.fence
  extract_lets inner ds casts lost user t
  have hinner : ¬inner = true := by
    dsimp only [inner]
    rcases hout with h | h
    · split <;> simp [h]
    · split
      next b => exact absurd rfl (h b)
      next => exact Bool.false_ne_true
  split
  next h => exact ⟨hR.same s, h⟩
  next =>
    have hlost : DiesHold s t := .trans (rel_ite (hR.same s) (hR.setSync s _)) (hR.noteLost _ ds)
    clear_value t
    dsimp only
    generalize hlog : (if (found || user.isSome) = true then _ else ((0 : Nat), t)) = r
    have hr : DiesHold t r.2 := by
      rw [← hlog]
      split
      · exact hR.logFault t _ _
      · exact hR.same t
    clear hlog
    clear_value user
    cases user with
    | none => exact ⟨hlost.trans (hr.trans (r.2.fenceDie_fenced d casts).1), (r.2.fenceDie_fenced d casts).2⟩
    | some n =>
      have hstop : DiesHold r.2 ((r.2.stopProgram n .dieFenced 5 0 r.1).endRaster n) :=
        .trans (hR.stopProgram r.2 _ _ _ _ _) (hR.endRaster _ n)
      exact ⟨hlost.trans (hr.trans (hstop.trans (State.fenceDie_fenced _ d casts).1)), (State.fenceDie_fenced _ d casts).2⟩

/-- Dies of no bed's code that are fenced one after the other are all fenced. -/
theorem State.fenceAll_fenced {struct_ : Nat} : ∀ (ds : List DieCode) (s : State), (∀ d ∈ ds, ∀ b, d ≠ .b b) →
    DiesHold s (ds.foldl (fun s d => s.fence d true struct_ 0 []) s) ∧
      ∀ d ∈ ds, (ds.foldl (fun s d => s.fence d true struct_ 0 []) s).fenced d = true
  | [], s, _ => ⟨DiesHold.framed.same s, fun _ h => absurd h List.not_mem_nil⟩
  | d :: ds, s, hds => by
    obtain ⟨hfirst, hfenced⟩ := State.fence_fenced (s := s) (found := true) (.inr (hds d List.mem_cons_self)) struct_ 0 []
    obtain ⟨hrest, hall⟩ := State.fenceAll_fenced (struct_ := struct_) ds (s.fence d true struct_ 0 [])
      fun e he => hds e (List.mem_cons_of_mem d he)
    refine ⟨hfirst.trans hrest, fun e he => ?_⟩
    rcases List.mem_cons.mp he with rfl | he
    · exact hrest.fenced _ hfenced
    · exact hall e he

theorem State.loseDies_fenced {s : State} {ds : List DieCode} (hds : ∀ d ∈ ds, ∀ b, d ≠ .b b) (struct_ : Nat) :
    DiesHold s (s.loseDies ds struct_) ∧ ∀ d ∈ ds, (s.loseDies ds struct_).fenced d = true := by
  obtain ⟨hold, hfenced⟩ := State.fenceAll_fenced (struct_ := struct_) ds s hds
  unfold State.loseDies
  extract_lets was t
  have hclk : DiesHold t (if (t.clk.halted && !was) = true then { t with clk := { t.clk with lossF := true } } else t) :=
    rel_ite (.of rfl rfl) (.of rfl rfl)
  exact ⟨hold.trans hclk, fun d hd => hclk.fenced d (hfenced d hd)⟩

/-! ### Die resets (R442) -/

/-- A die reset begins with the die not measured, and nothing that it stops measures it. -/
theorem State.beginReset_unloaded (s : State) (d : DieCode) : ((s.beginReset d).die d).loaded = false := by
  have hR := DiesHold.framed
  unfold State.beginReset
  extract_lets ds casts user lost t u st w v
  have hu : (u.die d).loaded = false := congrArg DieSt.loaded (State.die_modDie_same t d _)
  clear_value u lost user
  have hw : DiesHold u w := rel_ite (hR.same u) (hR.setSync u _)
  have hv : DiesHold u v := by
    dsimp only [v]
    split
    · exact hw.trans (hR.faultOp w _ _ _)
    · exact hR.same u
  clear_value v
  cases d with
  | c k =>
    dsimp -zeta only
    extract_lets x y
    have hy : DiesHold v y := .trans (t := x) (.trans (.trans (hR.dropDie v k) (hR.leaveCasts _ _)) (hR.wipeDie _ k true))
      (.trans (hR.breakLines x _) (hR.dropBuckets _ k))
    exact (hv.trans (hy.trans (hR.ctxs y _))).unloaded _ hu
  | m n => exact (hv.trans (.trans (.trans (hR.fenceMedia v n) (hR.breakLines _ _)) (hR.modMedia _ _))).unloaded _ hu
  | b n => exact hv.unloaded _ hu

/-! ### Class F (R431, R444) -/

theorem State.logFault_hbm (s : State) (f : FaultInfo) (body : List (List Byte)) : (s.logFault f body).2.hbm = s.hbm := by
  unfold State.logFault
  refine (raiseInt_hbm _ _).trans ?_
  split <;> rfl

theorem State.logFault_classF (s : State) (f : FaultInfo) (body : List (List Byte)) :
    (s.logFault f body).2.log.classF = (s.log.classF || f.cls == 6) := by
  unfold State.logFault
  refine (congrArg FaultLog.classF (SameBlock.raiseInt _).log).trans ?_
  split <;> rfl

/-- A device-ending fault stops the device and asserts ALERT_N, and leaves the scratchpads and HBM. -/
theorem State.classF_stops {s : State} (hrun : s.clk.halted = false) (struct_ : Nat) :
    (s.classF struct_).clk.halted = true ∧ (s.classF struct_).pins.alert = true ∧ (s.classF struct_).log.classF = true ∧
      (s.classF struct_).slices = s.slices ∧ (s.classF struct_).hbm = s.hbm := by
  unfold State.classF
  rw [if_neg (by simp [hrun])]
  dsimp only
  generalize hlog : s.logFault _ _ = r
  have hclass : r.2.log.classF = true := by
    rw [← hlog, State.logFault_classF]
    simp
  have hslices : r.2.slices = s.slices := by
    rw [← hlog]
    exact (SameQueues.logFault s _ _).slices
  have hhbm : r.2.hbm = s.hbm := by
    rw [← hlog]
    exact s.logFault_hbm _ _
  clear hlog
  have hstop : ∀ v : State, v.log = r.2.log → v.slices = r.2.slices → v.hbm = r.2.hbm →
      let w : State := { v with clk := { v.clk with halted := true }, pins := { v.pins with alert := true } }
      let u := if v.clk.linkUp = true then w.send .aer else w
      u.clk.halted = true ∧ u.pins.alert = true ∧ u.log.classF = true ∧ u.slices = s.slices ∧ u.hbm = s.hbm := by
    intro v h1 h2 h3
    dsimp only
    split
    · exact ⟨rfl, rfl, (congrArg FaultLog.classF h1).trans hclass, h2.trans hslices, h3.trans hhbm⟩
    · exact ⟨rfl, rfl, (congrArg FaultLog.classF h1).trans hclass, h2.trans hslices, h3.trans hhbm⟩
  split
  · exact hstop _ (State.mapCores_log _ _) (State.mapCores_slices _ _) (State.mapCores_hbm _ _)
  · exact hstop _ rfl rfl rfl

end Sys2Proof.Machine
end

section
/-! PROOFS. The commands and events of the dies (R430 to R432, R437, R442, R444, R448, R481). -/

namespace Sys2Proof.Machine

open Sys2Proof

/-! ### Commands -/

theorem exec_dieFence_fences {h : CmdHdr} {d : DieCode} {s : State} (hs : s.starts h (.dieFence d)) (hd : d ≠ .b s.regionBed) :
    exec (.dieFence h d) s = .next ((s.fence d false 0x10 0 []).complete h .done) :=
  congrArg Host.Outcome.next ((State.host1_starts hs).trans (if_neg hd))

theorem exec_selfTest_passes {h : CmdHdr} {d : DieCode} {s : State} (hs : s.starts h (.selfTest d)) (hd : s.fenced d = false)
    (hidle : s.inUse d = false) : exec (.selfTest h d .pass) s = .next (s.complete h .done 0) :=
  congrArg Host.Outcome.next ((State.host1_starts hs).trans ((if_neg (by simp [hd])).trans ((if_neg (by simp [hidle])).trans (if_pos rfl))))

theorem exec_dieReset_begins {h : CmdHdr} {d : DieCode} {r : TestResult} {s : State} (hs : s.startsAnew h (.dieReset d))
    (hd : s.fenced d = false) : exec (.dieReset h d r) s = .next ((s.beginReset d).start h (.dieReset d)) :=
  congrArg Host.Outcome.next ((State.hostLong_starts hs).trans ((if_neg (by simp [hd])).trans (if_pos rfl)))

theorem exec_partnerSet_sets {h : CmdHdr} {p : PartnerSetP} {x : Ctx} {s : State} (hs : s.starts h (.partnerSet p)) (hx : s.names p.ctx x)
    (hdie : s.fenced (.c p.die) = false) (hpartner : s.fenced (.c p.partner) = false) (hbeds : p.die.bed ≠ p.partner.bed) :
    exec (.partnerSet h p) s =
      .next ((s.putCtx (ctxOf p.ctx) { x with partner := assocSet p.die.val p.partner.val x.partner }).complete h .done 0) := by
  have hdies : p.die ≠ p.partner := fun he => hbeds (congrArg DieId.bed he)
  exact congrArg Host.Outcome.next ((State.host1_starts hs).trans ((State.onCtx_names hx).trans ((if_neg (by simp [hdie, hpartner])).trans
    ((if_neg hdies).trans (if_neg hbeds)))))

/-! ### Events -/

theorem State.powered_iff {s : State} : s.powered = true ↔
    s.clk.booted = true ∧ s.clk.inReset = false ∧ s.clk.tripped = false ∧ s.dbg.frozen = false := by
  simp [State.powered, and_assoc]

theorem exec_faultSelfTest_passes {d : DieId} {id : Nat} {s : State} (hrun : s.powered = true) (hd : s.fenced (.c d) = false)
    (htest : (s.die (.c d)).testFor = some id) :
    exec (.faultSelfTest (.c d) .pass) s = .next (s.modDie (.c d) fun k => { k with testFor := none }) := by
  obtain ⟨hboot, hreset, htrip, hfrozen⟩ := State.powered_iff.mp hrun
  refine congrArg Host.Outcome.next ((if_neg (by simp [hboot, hreset, htrip, hfrozen, hd])).trans ?_)
  simp only [htest, if_true]

/-- The scrub of a line that is dry, of a die that is not fenced. -/
theorem exec_patrolScrub_dry {d : DieId} {l : Nat} {s : State} (hrun : s.ticking = true) (hd : s.fenced (.c d) = false) (hl : l < 524288)
    (hdry : ∀ m ∈ (s.slice d).wet, m.line ≠ l) :
    exec (.patrolScrub d l .single) s = .next s.countA ∧ exec (.patrolScrub d l .clean) s = .next s := by
  have hopen : ¬(!s.ticking || s.fenced (.c d) || decide (524288 ≤ l) || (s.slice d).wet.any fun m => m.line == l) = true := by
    simpa [hrun, hd, hl] using hdry
  exact ⟨congrArg Host.Outcome.next (if_neg hopen), congrArg Host.Outcome.next (if_neg hopen)⟩

theorem exec_classFFault_stops {src : ClassFSrc} {s : State} (hrun : s.powered = true) (hgoing : s.clk.halted = false) :
    ∃ t, exec (.classFFault src) s = .next t ∧ t.clk.halted = true ∧ t.pins.alert = true ∧ t.log.classF = true ∧ t.slices = s.slices ∧
      t.hbm = s.hbm := by
  obtain ⟨hboot, hreset, htrip, hfrozen⟩ := State.powered_iff.mp hrun
  refine ⟨_, congrArg Host.Outcome.next (if_neg (by simp [hboot, hreset, htrip, hfrozen])), ?_⟩
  have hstops := State.classF_stops hgoing (ClassFSrc.struct_ src)
  cases src with
  | easelLockstep | bedOfDevreg | thermal => exact hstops
  | feed | clock =>
    obtain ⟨hhalted, hrest⟩ := hstops
    exact ⟨hhalted, hrest⟩

/-- The loss of a feed fences the compute dies behind it. -/
theorem exec_feedLoss_fences {k : Fin 8} {s : State} (hrun : s.powered = true) :
    ∃ t, exec (.feedLoss (.f k)) s = .next t ∧ t.pw.pgLost = true ∧ ∀ d ∈ Feed.dies (.f k), t.fenced d = true := by
  have hdies : ∀ d ∈ Feed.dies (.f k), ∀ b, d ≠ .b b := by simp [Feed.dies]
  obtain ⟨hold, hfenced⟩ := State.loseDies_fenced (s := { s with pw := { s.pw with pgLost := true } }) hdies 0x0C
  exact ⟨_, congrArg Host.Outcome.next (if_neg (by simp [hrun])), congrArg Power.pgLost hold.pw, hfenced⟩

/-- The loss of its clock fences a compute die. -/
theorem exec_clockFailure_fences {d : DieId} {s : State} (hrun : s.powered = true) :
    ∃ t, exec (.clockFailure (.compute d)) s = .next t ∧ t.fenced (.c d) = true := by
  have hdies : ∀ e ∈ [DieCode.c d], ∀ b, e ≠ .b b := by simp
  obtain ⟨-, hfenced⟩ := State.loseDies_fenced (s := s.modDie (.c d) fun k => { k with locked := false }) hdies 0x0B
  exact ⟨_, congrArg Host.Outcome.next (if_neg (by simp [hrun])), hfenced _ List.mem_cons_self⟩

/-- Settles O45: a fence stands through everything that it ends, stops and reroutes (`State.fence_fenced`, by `DiesHold.framed`), and
nothing of a die reset's start measures the die (`State.beginReset_unloaded`). -/
theorem diesAreFencedAndTested : Obligations.DiesAreFencedAndTested := by
  unfold Obligations.DiesAreFencedAndTested
  refine fun s => ⟨fun h d hs hd hfenced => ?fence, fun h d hs hd hidle => exec_selfTest_passes hs hd hidle,
    fun h d r _ hs hd => ⟨exec_dieReset_begins hs hd, s.beginReset_unloaded d⟩, fun d id hrun hd htest => exec_faultSelfTest_passes hrun hd htest,
    fun d l hrun hd hl hdry => ?scrub, fun src hrun hgoing => exec_classFFault_stops hrun hgoing, fun k hrun => exec_feedLoss_fences hrun,
    fun d hrun => exec_clockFailure_fences hrun, fun h p x hs hx hdie hpartner hbeds => exec_partnerSet_sets hs hx hdie hpartner hbeds⟩
  case fence =>
    obtain ⟨-, hfence⟩ := State.fence_fenced (s := s) (d := d) (.inl rfl) 0x10 0 []
    exact ⟨_, exec_dieFence_fences hs hd, (DiesHold.framed.complete _ h .done 0 0).fenced d hfence⟩
  case scrub =>
    obtain ⟨hsingle, hclean⟩ := exec_patrolScrub_dry hrun hd hl hdry
    exact ⟨hsingle, hclean, satAt_eq_min _ _⟩

end Sys2Proof.Machine
end
